-- ==== Sys2Proof/Word.lean ====
section
/-!
DEFINITION. The words of the CX-9160 and the sparse table that stands for a fixed number of like things.
-/

namespace Sys2Proof

/-- A word: 32 bits (R8). -/
abbrev Word := BitVec 32

/-- A byte: 8 bits (R8). -/
abbrev Byte := BitVec 8

/-- A byte with the poison tag it is delivered with (R261). -/
abbrev PByte := Byte × Bool

/-- A table of like things by number; a number that the list does not name holds the thing's reset value. -/
abbrev Tbl (α : Type) := List (Nat × α)

/-- A data word with its poison tag (R52). -/
structure TW where
  /-- The value. -/
  v : Word
  /-- The poison tag. -/
  p : Bool
  deriving DecidableEq, Repr

end Sys2Proof
end

