-- ==== Sys2Proof/Syntax.lean ====
section
/-!
DEFINITION. The commands of the CX-9160, one constructor for each row of spec/opcode_table.json, and the plain data they
carry. A core operation names the core that executes it and its E bit (bit 31, R124); every other command names the
instance on which the step acts and what the outside world supplies.
-/

namespace Sys2Proof

/-- Addressing mode of a scalar load, store or PADD (Table 4-5, Table 6-8). -/
inductive MemMode where
  | imm (o : BitVec 12)       -- [pk + #imm]; [pk] when o = 0
  | postMod (mk : BitVec 3)   -- [pk+=mk]
  | postImm (o : BitVec 12)   -- [pk+=#imm]
  | circMod (mk : BitVec 3)   -- [pk+=mk, circ]
  | circImm (o : BitVec 12)   -- [pk+=#imm, circ]
  | brev (mk : BitVec 3)      -- [pk+=mk, brev]
  deriving DecidableEq, Repr

/-- Addressing mode of a unit-stride vector access (R114, R139). -/
inductive VecMode where
  | base                      -- [pk]
  | postMod (mk : BitVec 3)   -- [pk+=mk]
  | postImm (o : BitVec 12)   -- [pk+=#imm]
  | postVl                    -- [pk+=vl]
  deriving DecidableEq, Repr

/-- Accumulator part (Table 4-4). -/
inductive AccPart where
  | rl | rh | il | ih
  deriving DecidableEq, Repr

/-- Where a Jikar packet came from and where its reply goes (R339). -/
inductive Transport where
  | host
  | ring (src : BitVec 6)
  | eth (port : Fin 4) (ip : BitVec 32) (udp : BitVec 16)
  deriving DecidableEq, Repr

/-- A Jikar packet as it travels: the transport, the length the transport reports and the bytes (R336). -/
structure Packet where
  /-- The transport that carried it. -/
  via : Transport
  /-- All bytes: 16 of header, the payload and 16 of tag. -/
  bytes : List Byte
  deriving DecidableEq, Repr

/-- The session, sequence number and transport on whose behalf Cairn executes an opcode (R341). -/
structure Origin where
  /-- SESSION of the packet. -/
  session : BitVec 32
  /-- SEQ of the packet. -/
  seq : BitVec 32
  /-- Transport the reply goes back on. -/
  via : Transport
  deriving DecidableEq, Repr

/-- An Ethernet frame from destination address to the last byte before the FCS, and whether the FCS is good. -/
structure Frame where
  /-- The bytes without the FCS. -/
  bytes : List Byte
  /-- The FCS was good (R320). -/
  fcsOk : Bool
  deriving DecidableEq, Repr

/-- A station-ring frame (Table 14-4). -/
structure RingFrame where
  /-- 0 data, 1 acknowledge, 2 mirror, 3 control. -/
  typ : BitVec 2
  /-- Source ring address. -/
  src : BitVec 6
  /-- Destination: 0x40 for all. -/
  dst : BitVec 7
  /-- Sequence number. -/
  seq : Byte
  /-- Byte 5: mailboxes, mirror line or CNT. -/
  b5 : Byte
  /-- Payload of a mailbox frame; of an acknowledge one byte, 1 stored and 0 refused. -/
  payload : List Byte
  /-- LEN of the payload, as bytes 6 and 7 carry it. -/
  len : BitVec 16
  /-- The check bytes. -/
  crc : Word
  deriving DecidableEq, Repr

/-- A Penrid receiver: that of a chain port, or the one of the node at position k of the port's ring (R295). -/
inductive Rx where
  | port (n : Fin 64)
  | node (n : Fin 64) (k : Fin 64)
  deriving DecidableEq, Repr

/-- One link's changes to the characters of a train (R292, R293): the number of a character, and the code group that arrives in its
place: its kind (true for a K-code) and byte, or none for one that is no code group or breaks the running disparity. -/
abbrev LinkErrors := List (Nat × Option (Bool × Byte))

/-- What has come of a train's copies by its timeout: characters and errors of the copy on the port's own ring, and of the one on
the odd port's of a dual pair. -/
structure TrainRx where
  /-- Characters that have come on the port's ring. -/
  got : Nat
  /-- Errors of the link into the port. -/
  line : LinkErrors
  /-- The same of ring B. -/
  gotB : Nat
  lineB : LinkErrors
  deriving DecidableEq, Repr

/-- A management train as a node receives it (Table 13-6). Characters 7 and 8 are zero. -/
structure MgmtTrain where
  /-- MCMD. -/
  mcmd : Byte
  /-- ADDR: target node, 0xFF for all. -/
  addr : Byte
  /-- CNT. -/
  cnt : Byte
  /-- RLEN: response slot length. -/
  rlen : Byte
  /-- PLEN. -/
  plen : BitVec 16
  /-- The header's CRC-32C. -/
  hcrc : Word
  /-- Payload of PLEN bytes. -/
  payload : List Byte
  /-- The payload's CRC-32C. -/
  pcrc : Word
  /-- Response slots: bytes and CRC-32C. -/
  slots : List (List Byte × Word)
  deriving DecidableEq, Repr

/-- One record of an AST edit batch (Table 15-7). -/
structure AstRec where
  /-- OP: 1 add, 2 retire. -/
  op : Byte
  /-- Byte 1: bit 0 set when UNTIL is given. -/
  flags : Byte
  /-- UNTIL. -/
  until_ : BitVec 16
  /-- INDEX. -/
  index : Word
  /-- W0. -/
  w0 : Word
  /-- W1. -/
  w1 : Word
  /-- W3, with NEXT zero. -/
  w3 : Word
  deriving DecidableEq, Repr

/-- How a DMA channel is started (R256): by the write of a 1 to DMA_CTRL.START, or by the fabric. -/
inductive DmaStartBy where
  | owner (r : Fin 64)
  | fabric
  deriving DecidableEq, Repr

/-- How a power-on input of the device changes at a monitor (R371): the four faults the row names. -/
inductive MonitorTrip where
  | pllLost | refclk | wdosc | pinReadback
  deriving DecidableEq, Repr

/-- Where a random hardware fault flips a bit (R169). -/
inductive HwFault where
  | memBit (mem : Byte) (word : Nat) (pos : Nat)      -- stored bit pos of an ECC word (Table 11-6)
  | greg (c : Fin 64) (i : BitVec 5) (bit : Fin 32)   -- a general register of a core
  | pfile (c : Fin 64) (i : BitVec 5) (bit : Fin 32)  -- a pointer-file register of a core
  | accRe (c : Fin 64) (k : BitVec 3) (bit : Fin 40)
  | accIm (c : Fin 64) (k : BitVec 3) (bit : Fin 40)
  | vreg (c : Fin 64) (i : BitVec 5) (bit : Fin 256)
  | creg (c : Fin 64) (n : Byte) (bit : Fin 32)       -- a control register of Table 6-6
  | cairnLane                                          -- one lane of Cairn's triple lockstep
  | cairnTwoLanes                                      -- two lanes of Cairn at once
  | blockLogic (source : Fin 4096)                     -- logic of a block, found by the checker of that source
  deriving DecidableEq, Repr

/-- What starts a chip reset (Table 17-3). -/
inductive ResetBy where
  | xres | crst
  deriving DecidableEq, Repr

/-- The commands, one constructor for each row of spec/opcode_table.json, in its order. -/
inductive Instr where
  -- core operations of the A slot (c: core, e: the E bit that ends the bundle)
  | add (c : Fin 64) (e : Bool) (rd ra rb : BitVec 5)
  | sub (c : Fin 64) (e : Bool) (rd ra rb : BitVec 5)
  | and (c : Fin 64) (e : Bool) (rd ra rb : BitVec 5)
  | or (c : Fin 64) (e : Bool) (rd ra rb : BitVec 5)
  | xor (c : Fin 64) (e : Bool) (rd ra rb : BitVec 5)
  | sll (c : Fin 64) (e : Bool) (rd ra rb : BitVec 5)
  | srl (c : Fin 64) (e : Bool) (rd ra rb : BitVec 5)
  | sra (c : Fin 64) (e : Bool) (rd ra rb : BitVec 5)
  | slt (c : Fin 64) (e : Bool) (rd ra rb : BitVec 5)
  | sltu (c : Fin 64) (e : Bool) (rd ra rb : BitVec 5)
  | min (c : Fin 64) (e : Bool) (rd ra rb : BitVec 5)
  | max (c : Fin 64) (e : Bool) (rd ra rb : BitVec 5)
  | adds (c : Fin 64) (e : Bool) (rd ra rb : BitVec 5)
  | subs (c : Fin 64) (e : Bool) (rd ra rb : BitVec 5)
  | cls (c : Fin 64) (e : Bool) (rd ra : BitVec 5)
  | divs (c : Fin 64) (e : Bool) (rd ra rb : BitVec 5)
  | mul (c : Fin 64) (e : Bool) (rd ra rb : BitVec 5)
  | mulh (c : Fin 64) (e : Bool) (rd ra rb : BitVec 5)
  | mulhu (c : Fin 64) (e : Bool) (rd ra rb : BitVec 5)
  | addi (c : Fin 64) (e : Bool) (rd ra : BitVec 5) (imm : BitVec 12)
  | andi (c : Fin 64) (e : Bool) (rd ra : BitVec 5) (imm : BitVec 12)
  | ori (c : Fin 64) (e : Bool) (rd ra : BitVec 5) (imm : BitVec 12)
  | xori (c : Fin 64) (e : Bool) (rd ra : BitVec 5) (imm : BitVec 12)
  | slli (c : Fin 64) (e : Bool) (rd ra : BitVec 5) (imm : BitVec 12)
  | srli (c : Fin 64) (e : Bool) (rd ra : BitVec 5) (imm : BitVec 12)
  | srai (c : Fin 64) (e : Bool) (rd ra : BitVec 5) (imm : BitVec 12)
  | slti (c : Fin 64) (e : Bool) (rd ra : BitVec 5) (imm : BitVec 12)
  | sltui (c : Fin 64) (e : Bool) (rd ra : BitVec 5) (imm : BitVec 12)
  | mini (c : Fin 64) (e : Bool) (rd ra : BitVec 5) (imm : BitVec 12)
  | maxi (c : Fin 64) (e : Bool) (rd ra : BitVec 5) (imm : BitVec 12)
  | movi (c : Fin 64) (e : Bool) (rd : BitVec 5) (imm : BitVec 16)
  | movui (c : Fin 64) (e : Bool) (rd : BitVec 5) (imm : BitVec 16)
  | movhi (c : Fin 64) (e : Bool) (rd : BitVec 5) (imm : BitVec 16)
  -- i: the immediate form of class BRI (rb then holds IMM5), else the register form of class BR
  | beq (c : Fin 64) (e : Bool) (i : Bool) (ra rb : BitVec 5) (off : BitVec 13)
  | bne (c : Fin 64) (e : Bool) (i : Bool) (ra rb : BitVec 5) (off : BitVec 13)
  | blt (c : Fin 64) (e : Bool) (i : Bool) (ra rb : BitVec 5) (off : BitVec 13)
  | bge (c : Fin 64) (e : Bool) (i : Bool) (ra rb : BitVec 5) (off : BitVec 13)
  | bltu (c : Fin 64) (e : Bool) (i : Bool) (ra rb : BitVec 5) (off : BitVec 13)
  | bgeu (c : Fin 64) (e : Bool) (i : Bool) (ra rb : BitVec 5) (off : BitVec 13)
  | j (c : Fin 64) (e : Bool) (off : BitVec 25)
  | jal (c : Fin 64) (e : Bool) (off : BitVec 25)
  | jr (c : Fin 64) (e : Bool) (ra : BitVec 5)
  | jalr (c : Fin 64) (e : Bool) (ra : BitVec 5)
  | reti (c : Fin 64) (e : Bool)
  -- i: immediate count form; cnt holds COUNT12, or RC in its low five bits
  | loop (c : Fin 64) (e : Bool) (i : Bool) (idx : BitVec 2) (cnt : BitVec 12) (endw : BitVec 11)
  | nop (c : Fin 64) (e : Bool)
  | fence (c : Fin 64) (e : Bool)
  | lbinv (c : Fin 64) (e : Bool)
  | trap (c : Fin 64) (e : Bool) (imm : BitVec 11)
  | movc (c : Fin 64) (e : Bool) (rd : BitVec 5) (creg : Byte)
  | movs (c : Fin 64) (e : Bool) (creg : Byte) (ra : BitVec 5)
  | pmovTo (c : Fin 64) (e : Bool) (x : BitVec 5) (ra : BitVec 5)
  | pmovFrom (c : Fin 64) (e : Bool) (rd : BitVec 5) (x : BitVec 5)
  | vcfg (c : Fin 64) (e : Bool) (rd ra : BitVec 5) (t : BitVec 11)
  | vcfgr (c : Fin 64) (e : Bool) (rd ra rt : BitVec 5)
  -- M slots
  | cmul (c : Fin 64) (e : Bool) (k : BitVec 3) (ra rb : BitVec 5)
  | cmulj (c : Fin 64) (e : Bool) (k : BitVec 3) (ra rb : BitVec 5)
  | cmac (c : Fin 64) (e : Bool) (k : BitVec 3) (ra rb : BitVec 5)
  | cmacj (c : Fin 64) (e : Bool) (k : BitVec 3) (ra rb : BitVec 5)
  | cmsub (c : Fin 64) (e : Bool) (k : BitVec 3) (ra rb : BitVec 5)
  | cmsubj (c : Fin 64) (e : Bool) (k : BitVec 3) (ra rb : BitVec 5)
  | dmac (c : Fin 64) (e : Bool) (k : BitVec 3) (ra rb : BitVec 5)
  | aclr (c : Fin 64) (e : Bool) (k : BitVec 3)
  | cspla (c : Fin 64) (e : Bool) (d a b : BitVec 3)
  | csplb (c : Fin 64) (e : Bool) (d a b : BitVec 3)
  | norm (c : Fin 64) (e : Bool) (k : BitVec 3) (gs : BitVec 5)
  | ext (c : Fin 64) (e : Bool) (gd : BitVec 5) (k : BitVec 3) (im : Bool) (sh : BitVec 5)
  | exp (c : Fin 64) (e : Bool) (gd : BitVec 5) (k : BitVec 3)
  | mfa (c : Fin 64) (e : Bool) (gd : BitVec 5) (k : BitVec 3) (part : AccPart)
  | mta (c : Fin 64) (e : Bool) (k : BitVec 3) (part : AccPart) (gs : BitVec 5)
  -- L slots, scalar
  | ldb (c : Fin 64) (e : Bool) (rd : BitVec 5) (pk : BitVec 3) (m : MemMode)
  | ldbu (c : Fin 64) (e : Bool) (rd : BitVec 5) (pk : BitVec 3) (m : MemMode)
  | ldh (c : Fin 64) (e : Bool) (rd : BitVec 5) (pk : BitVec 3) (m : MemMode)
  | ldhu (c : Fin 64) (e : Bool) (rd : BitVec 5) (pk : BitVec 3) (m : MemMode)
  | ld (c : Fin 64) (e : Bool) (rd : BitVec 5) (pk : BitVec 3) (m : MemMode)
  | ldd (c : Fin 64) (e : Bool) (rd : BitVec 5) (pk : BitVec 3) (m : MemMode)
  | padd (c : Fin 64) (e : Bool) (pk : BitVec 3) (m : MemMode)
  | sb (c : Fin 64) (e : Bool) (rs : BitVec 5) (pk : BitVec 3) (m : MemMode)
  | sh (c : Fin 64) (e : Bool) (rs : BitVec 5) (pk : BitVec 3) (m : MemMode)
  | st (c : Fin 64) (e : Bool) (rs : BitVec 5) (pk : BitVec 3) (m : MemMode)
  | std (c : Fin 64) (e : Bool) (rs : BitVec 5) (pk : BitVec 3) (m : MemMode)
  | shs (c : Fin 64) (e : Bool) (rs : BitVec 5) (pk : BitVec 3) (m : MemMode)
  | scs (c : Fin 64) (e : Bool) (ra rb : BitVec 5) (pk : BitVec 3) (m : MemMode)
  -- L slots, vector (m: masked by v0)
  | vld (c : Fin 64) (e : Bool) (vd : BitVec 5) (pk : BitVec 3) (mode : VecMode) (m : Bool)
  | vst (c : Fin 64) (e : Bool) (vs : BitVec 5) (pk : BitVec 3) (mode : VecMode) (m : Bool)
  | vlds (c : Fin 64) (e : Bool) (vd : BitVec 5) (pk : BitVec 3) (gs : BitVec 5) (m : Bool)
  | vsts (c : Fin 64) (e : Bool) (vs : BitVec 5) (pk : BitVec 3) (gs : BitVec 5) (m : Bool)
  | vldx (c : Fin 64) (e : Bool) (vd : BitVec 5) (pk : BitVec 3) (vx : BitVec 5) (m : Bool)
  | vstx (c : Fin 64) (e : Bool) (vs : BitVec 5) (pk : BitVec 3) (vx : BitVec 5) (m : Bool)
  -- V slot, vector (m: masked by v0; x: the third operand is a general register)
  | vadd (c : Fin 64) (e : Bool) (vd va vb : BitVec 5) (m : Bool)
  | vsub (c : Fin 64) (e : Bool) (vd va vb : BitVec 5) (m : Bool)
  | vadds (c : Fin 64) (e : Bool) (vd va vb : BitVec 5) (m : Bool)
  | vsubs (c : Fin 64) (e : Bool) (vd va vb : BitVec 5) (m : Bool)
  | vaddh (c : Fin 64) (e : Bool) (vd va vb : BitVec 5) (m : Bool)
  | vsubh (c : Fin 64) (e : Bool) (vd va vb : BitVec 5) (m : Bool)
  | vmul (c : Fin 64) (e : Bool) (vd va vb : BitVec 5) (m : Bool)
  | vmulq (c : Fin 64) (e : Bool) (vd va vb : BitVec 5) (m : Bool)
  | vmacq (c : Fin 64) (e : Bool) (vd va vb : BitVec 5) (m : Bool)
  | vmacw (c : Fin 64) (e : Bool) (vd va vb : BitVec 5) (m : Bool)
  | vnarrow (c : Fin 64) (e : Bool) (vd vs gs : BitVec 5) (m : Bool)
  | vshrr (c : Fin 64) (e : Bool) (vd va : BitVec 5) (x : Bool) (b : BitVec 5) (m : Bool)
  | vshl (c : Fin 64) (e : Bool) (vd va : BitVec 5) (x : Bool) (b : BitVec 5) (m : Bool)
  | vshr (c : Fin 64) (e : Bool) (vd va : BitVec 5) (x : Bool) (b : BitVec 5) (m : Bool)
  | vshra (c : Fin 64) (e : Bool) (vd va : BitVec 5) (x : Bool) (b : BitVec 5) (m : Bool)
  | vand (c : Fin 64) (e : Bool) (vd va vb : BitVec 5) (m : Bool)
  | vor (c : Fin 64) (e : Bool) (vd va vb : BitVec 5) (m : Bool)
  | vxor (c : Fin 64) (e : Bool) (vd va vb : BitVec 5) (m : Bool)
  | vmin (c : Fin 64) (e : Bool) (vd va vb : BitVec 5) (m : Bool)
  | vmax (c : Fin 64) (e : Bool) (vd va vb : BitVec 5) (m : Bool)
  | vcmpeq (c : Fin 64) (e : Bool) (vd va vb : BitVec 5) (m : Bool)
  | vcmplt (c : Fin 64) (e : Bool) (vd va vb : BitVec 5) (m : Bool)
  | vcmple (c : Fin 64) (e : Bool) (vd va vb : BitVec 5) (m : Bool)
  | vsel (c : Fin 64) (e : Bool) (vd va vb : BitVec 5) (m : Bool)
  | vsplat (c : Fin 64) (e : Bool) (vd gs : BitVec 5) (m : Bool)
  | vins0 (c : Fin 64) (e : Bool) (vd gs : BitVec 5) (m : Bool)
  | vext0 (c : Fin 64) (e : Bool) (gd vs : BitVec 5) (m : Bool)
  | vmovup (c : Fin 64) (e : Bool) (vd vs gs : BitVec 5) (m : Bool)
  | vmovdn (c : Fin 64) (e : Bool) (vd vs gs : BitVec 5) (m : Bool)
  | vsumw (c : Fin 64) (e : Bool) (vd vs vc : BitVec 5) (m : Bool)
  -- V slot, scalar floating point
  | fadd (c : Fin 64) (e : Bool) (fd fa fb : BitVec 5)
  | fsub (c : Fin 64) (e : Bool) (fd fa fb : BitVec 5)
  | fmul (c : Fin 64) (e : Bool) (fd fa fb : BitVec 5)
  | fmadd (c : Fin 64) (e : Bool) (fd fa fb fc : BitVec 5)
  | fmsub (c : Fin 64) (e : Bool) (fd fa fb fc : BitVec 5)
  | fmin (c : Fin 64) (e : Bool) (fd fa fb : BitVec 5)
  | fmax (c : Fin 64) (e : Bool) (fd fa fb : BitVec 5)
  | fabs (c : Fin 64) (e : Bool) (fd fa : BitVec 5)
  | fneg (c : Fin 64) (e : Bool) (fd fa : BitVec 5)
  | fitof (c : Fin 64) (e : Bool) (fd ga : BitVec 5)
  | fftoi (c : Fin 64) (e : Bool) (gd fa : BitVec 5)
  | fsetb (c : Fin 64) (e : Bool) (fd ga : BitVec 5)
  | fgetb (c : Fin 64) (e : Bool) (gd fa : BitVec 5)
  | fcmpeq (c : Fin 64) (e : Bool) (gd fa fb : BitVec 5)
  | fcmplt (c : Fin 64) (e : Bool) (gd fa fb : BitVec 5)
  | fcmple (c : Fin 64) (e : Bool) (gd fa fb : BitVec 5)
  -- core events
  | trapEntry (c : Fin 64)                 -- a trap that no operation of the stream raises: fetch, or a waiting ACCESS_ERROR
  | interruptEntry (r : Fin 64) (x : Nat)  -- x: X cycles of the current bundle that have passed, entry cycle 0 included
  | remoteLoadResponse (r : Fin 64)
  | postedStoreLeave (r : Fin 64)
  | postedStoreResponse (r : Fin 64)
  | loopEndTest (c : Fin 64)
  | mergeEntryCompletion (c : Fin 64)
  -- register writes of ridge r: address in either view, data, poison tag of the data
  | icuRouteWrite (r : Fin 64) (addr : Word) (data : Word) (p : Bool)
  | registerWrite (r : Fin 64) (addr : Word) (data : Word) (p : Bool)
  -- ridges
  | bundleVote (r : Fin 64)
  | ridgeBlockReset (r : Fin 64)
  | automaticRestart (r : Fin 64)
  | memberRemoval (r : Fin 64) (slot : Fin 3)
  | outenSet (r : Fin 64) (addr : Word) (data : Word) (p : Bool)
  | ridgeEvsigFire (r : Fin 64) (addr : Word) (data : Word) (p : Bool)
  | coreCleared (c : Fin 64)
  | fillColStart (r : Fin 64) (newcomer : Fin 64)
  | copyRow (m : Fin 4) (pm : Bool)
  | colPriorityStart (m : Fin 4)
  | colPriorityHold (m : Fin 4)
  | cutover (m : Fin 4)
  -- self-test
  | selfTestSlice (c : Fin 64) (good : Bool)  -- good: every MBIST compare matched, or the LBIST signature equals the reference
  | sliceBudgetExpired (c : Fin 64)
  | quarantineTestStart (c : Fin 64)
  | rotationStep (r : Fin 64) (slot : Fin 3) (newcomer : Fin 64)
  -- angle engine
  | angInEdge (pin : Fin 16) (level : Bool)
  | referenceEvent (d : Fin 8)
  | adEstErrWrite (r : Fin 64) (addr : Word) (data : Word) (p : Bool)
  | ptpEvent (d : Fin 8)
  | cycleBoundary (d : Fin 8)
  | miss (d : Fin 8)
  | holdoverExpiry (d : Fin 8)
  | captureTrigger (u : Fin 32)
  | walkerBinStart (d : Fin 8)
  | walkerEntryRead (d : Fin 8)
  | occurrenceFire (d : Fin 8)
  | indefiniteRewrite (i : BitVec 19)
  | entryUnlink (i : BitVec 19)
  | entryRepair (i : BitVec 19)
  -- memories
  | massifRequestServed (m : Fin 4) (bank : Fin 32)
  | scrubRead (u : Byte)
  | scrubWriteback (u : Byte)
  | scrubOverdue (u : Byte)
  | rawRead
  | rawWrite
  -- DMA channel k of massif m
  | dmaStart (m k : Fin 4) (by_ : DmaStartBy)
  | dmaAbort (m k : Fin 4) (r : Fin 64)
  | dmaElementRead (m k : Fin 4)
  | dmaReadResponse (m k : Fin 4)
  | dmaWriteResponse (m k : Fin 4)
  | dmaStop (m k : Fin 4)
  -- event fabric
  | eventChannelFiring (ch : Fin 256)
  | refractoryEnd (ch : Fin 256)
  | stormWindowEnd
  -- chain ports and nodes (k: position of the node on the ring)
  | trainTransmit (n : Fin 64)
  | trainComplete (n : Fin 64) (line : LinkErrors)   -- the copy on port n's ring ends; line: its last link's errors
  | trainTimeout (n : Fin 64) (x : TrainRx)
  | nodeProcessTrain (n : Fin 64) (k : Fin 64) (bad : List Nat) (other : List (Nat × Bool × Byte))
      -- of the link into the node: characters that arrive as no code group, and those that arrive as another one
  | nodeSample (n : Fin 64) (k : Fin 64) (ready : Bool) (data : List Byte)
  | nodeApply (n : Fin 64) (k : Fin 64)
  | nodeSafeTimeout (n : Fin 64) (k : Fin 64)
  | enum (n : Fin 64) (k : Fin 64) (t : MgmtTrain)
  | ident (n : Fin 64) (k : Fin 64) (t : MgmtTrain)
  | config (n : Fin 64) (k : Fin 64) (t : MgmtTrain) (payload : List Byte)   -- the train with this payload
  | release (n : Fin 64) (k : Fin 64) (t : MgmtTrain)
  | unaddr (n : Fin 64) (k : Fin 64) (t : MgmtTrain)
  | syncAcquired (x : Rx)
  | syncLost (x : Rx)
  | nodeUnaddressTimeout (n : Fin 64) (k : Fin 64)
  | brk (n : Fin 64) (k : Fin 64)
  | breakDetected (n : Fin 64) (from_ : Option Byte)   -- the address in BRK, or none for a silent RX
  | breakRecovery (n : Fin 64)
  -- Ethernet
  | frameReceived (p : Fin 4) (f : Frame)
  | frameTransmit (p : Fin 4)
  | qTailWrite (r : Fin 64) (addr : Word) (data : Word) (p : Bool)
  | linkDown (p : Fin 4)
  | ptpStep (r : Fin 64) (addr : Word) (data : Word) (p : Bool)
  | hsrForward (p : Fin 4) (f : Frame)
  | duplicateEntryAged (pair : Fin 2)
  -- station ring (dirB: the frame arrives in direction B)
  | ringFrameReceived (dirB : Bool) (f : RingFrame)
  | supervisionFrame
  | ringLinkBreak (linkB : Bool)
  | mirrorFrameReceived (src : BitVec 6) (line : BitVec 4) (seq : Byte)
  | srMbSend (r : Fin 64) (addr : Word) (data : Word) (p : Bool)
  | mailboxMessageReceived (mb : Fin 16) (src : BitVec 6) (srcMb : BitVec 4) (seq : Byte) (msg : List Byte)
  | mailboxAck (mb : Fin 16) (stored : Bool)
  | mailboxTimeout (mb : Fin 16)
  | ringEnumTimeout
  -- host port
  | readId
  | readIdCut      -- READ_ID, cut short
  | status
  | statusCut      -- STATUS, cut short
  | writePkt (len : BitVec 16) (pkt : List Byte) (crc : Word) (whole : Bool)
  | readPkt (whole : Bool)
  | hostPacketEnqueue
  -- Jikar
  | commandQueueEntry (p : Packet)
  | packetProcessing
  | jobCompletion (job : Byte)
  | confirmTimeout (session : BitVec 32)
  | sessionIdleTimeout (session : BitVec 32)
  | reassemblyTimeout (src : BitVec 6)
  | hello (p : Packet)
  | confirm (o : Origin)
  | close (o : Origin)
  | identify (o : Origin)
  | sessionInfo (o : Origin)
  | jobStatus (o : Origin) (job : Byte)
  | ping (o : Origin) (data : List Byte)
  | ridgeForm (o : Origin) (ridge kind c0 c1 c2 attr policy slot zero : Byte) (start : Word)
  | ridgeRelease (o : Origin) (ridge : Byte)
  | ridgeHalt (o : Origin) (ridge : Byte)
  | ridgeDissolve (o : Origin) (ridge : Byte)
  | ridgeStatus (o : Origin) (ridge : Byte)
  | ridgePolicy (o : Origin) (ridge policy : Byte)
  | ridgeReload (o : Origin) (ridge slot : Byte) (start : Word)
  | assign (o : Origin) (kind : Byte) (index : BitVec 16) (ridge : Byte)
  | memRegion (o : Origin) (massif region : Byte) (cfg rdlo rdhi wrlo wrhi : Word)
  | memBankown (o : Origin) (massif bank en ridge : Byte)
  | imgBegin (o : Origin) (slot : Byte) (pmLen dmLen : Word) (digest : BitVec 384)
  | imgData (o : Origin) (slot : Byte) (offset : Word) (data : List Byte)
  | imgEnd (o : Origin) (slot : Byte)
  | imgList (o : Origin)
  | imgErase (o : Origin) (slot : Byte)
  | adConfig (o : Origin) (domain : Byte) (cfg evpc phase offset hold fnom ftol lock accept ptp : Word)
  | adOffset (o : Origin) (domain : Byte) (off : BitVec 24)
  | adStatus (o : Origin) (domain : Byte)
  | astOpen (o : Origin) (domain : Byte) (x : BitVec 16)
  | astAdd (o : Origin) (recs : List AstRec)
  | astCommit (o : Origin)
  | astDiscard (o : Origin)
  | astRead (o : Origin) (first : Word) (count : Byte)
  | astStats (o : Origin) (domain : Byte)
  | chConfig (o : Origin) (ch : Byte) (cfg cons : Word)
  | chRow (o : Origin) (ch : Byte) (row : BitVec 512)
  | chStatus (o : Origin) (ch : Byte)
  | chpConfig (o : Origin) (port : Byte) (cfg : Word) (descs : List Word)
  | chpEnum (o : Origin) (port learn : Byte)
  | chpNode (o : Origin) (port node : Byte)
  | chpStatus (o : Origin) (port : Byte)
  | fcuRead (o : Origin)
  | fcuClear (o : Origin) (sources : List (BitVec 16))
  | fcuReact (o : Origin) (source : BitVec 16) (mask : Byte)
  | logRead (o : Origin) (first : Word) (count : Byte)
  | statClear (o : Origin) (kind index : Byte)
  | eccTest (o : Origin) (mem op : Byte) (word : Word) (data : BitVec 64) (check : Byte)
  | eccInject (o : Origin) (mem : Byte) (word : Word) (ena bita enb bitb : Byte)
  | checkerTest (o : Origin) (source : BitVec 16)
  | checkerTestTimeout
  | coreTest (o : Origin) (core : Byte)
  | rotConfig (o : Origin) (massif en pairs : Byte) (stepMs : BitVec 16)
  | colConfig (o : Origin) (massif prio delay : Byte)
  | testStatus (o : Origin) (massif : Byte)
  | fwBegin (o : Origin) (len : Word) (digest : BitVec 384)
  | fwData (o : Origin) (offset : Word) (data : List Byte)
  | fwEnd (o : Origin)
  | fwActivate (o : Origin)
  | firmwareSwap
  | epochRaise
  | nvmStatus (o : Origin)
  | credAdd (o : Origin) (cred : Word) (role : Byte) (key : List Byte)
  | credRevoke (o : Origin) (cred : Word)
  | credList (o : Origin)
  | lcAdvance (o : Origin) (target : Byte) (serial : BitVec 64)
  | vaultKey (o : Origin) (slot : Byte) (wrapped : List Byte)
  | vaultWipe (o : Origin)
  | scanEnable (o : Origin)
  | srStatus (o : Origin)
  | srMirror (o : Origin) (k src line en : Byte)
  | srMailbox (o : Origin) (mb owner peer peerMb page : Byte)
  | srForward (o : Origin) (addr : Byte) (inner : List Byte)
  | srForwardTimeout (addr : BitVec 6)
  -- watchdogs
  | wdtCfgWrite (r : Fin 64) (addr : Word) (data : Word) (p : Bool)
  | wdtReqWrite (r : Fin 64) (addr : Word) (data : Word) (p : Bool)
  | wdtChkWrite (r : Fin 64) (addr : Word) (data : Word) (p : Bool)
  | checkInSample (r : Fin 64) (edge : Nat)
  | periodEnd (r : Fin 64)
  | cairnWatchdogExpiry
  -- FCU
  | crstcntExpiry
  | aliveToggle
  | keepalive
  | keepaliveTimeout
  | faultLogBatch
  -- resets and power
  | por (bootsel : BitVec 2) (srmaster : Bool) (sraddr : BitVec 6)
  | chipReset (by_ : ResetBy) (bootsel : BitVec 2)
  | startUp
  | brownoutEntry
  | brownoutExit
  | wake
  | holdupSample (code : BitVec 12)
  | tamper (which : Fin 2)
  | wipeComplete (allZero : Bool)
  | monitorSample (temps : List (BitVec 16)) (volts : List (BitVec 16))
  | gpIoWrite (r : Fin 64) (addr : Word) (data : Word) (p : Bool)
  | gpInputEdge (pin : Fin 96) (level : Bool)
  | linkUp (p : Fin 4)
  | brkEnd (n : Fin 64) (k : Fin 64)
  | clockOrPinMonitorTrip (t : MonitorTrip)
  | randomHardwareFault (h : HwFault)
  | powerOff
  deriving DecidableEq, Repr

end Sys2Proof
end

