-- ==== Sys2Proof/Decode.lean ====
section
/-!
DEFINITION. The block takes commands; no row of spec/opcode_table.json gives bits, so no word spells one (log 9).
-/

namespace Sys2Proof

/-- The command that a word spells by the table's bits: none, since the table gives bits to no row. -/
def decodeTableWord (_nbits _w : Nat) : Option Instr := none

end Sys2Proof
end

