-- ==== Sys2Proof/Config.lean ====
section
/-!
DEFINITION. What an implementation fixes and the manual leaves open, as constants without a body: nothing can be proved of
their values (log 5, log 11).
-/

namespace Sys2Proof

/-- The n-th free value: a word that the manual leaves open (log 5). -/
opaque Config.freeWord : Nat → Word

/-- The byte that class B memory holds at a key after a POR and before it is written: undefined by R269 (log 8). -/
opaque Config.powerOnByte : Nat → Byte

/-- The syndrome of a class B word after a POR and before it is written: undefined by R269 (log 8). -/
opaque Config.powerOnSyn : Nat → Byte

/-- Word k of classifier rule n, one of the rules 0 to 7 that are fixed to Cairn's queue: R324 gives their matches, not their words
(log 18). -/
opaque Config.fixedRule : Nat → Nat → Word

/-- SHA-384 of a byte string, first byte most significant (the standard that R338, R342, R353 and R390 name; log 11). -/
opaque Config.sha384 : List Byte → BitVec 384

/-- Byte i of the AES-256-GCM key stream of a key and a nonce (R338; log 11). -/
opaque Config.keyStream : List Byte → List Byte → Nat → Byte

/-- The GCM tag of key, nonce, additional data and ciphertext (R338; log 11). -/
opaque Config.gcmTag : List Byte → List Byte → List Byte → List Byte → BitVec 128

/-- Byte i of HKDF on SHA-384 of input key material, salt and info (R342, R399; log 11). -/
opaque Config.hkdf : List Byte → List Byte → List Byte → Nat → Byte

/-- An ECDSA P-384 signature (r then s) of a digest verifies with a public key (R342; log 11). -/
opaque Config.ecdsaOk : List Byte → BitVec 384 → List Byte → Bool

/-- The bytes are a valid uncompressed point of P-384 (R342; log 11). -/
opaque Config.pointOk : List Byte → Bool

/-- Public key of the n-th ephemeral key pair (R342; log 11). -/
opaque Config.ephemeralPub : Nat → BitVec 776

/-- x-coordinate of ECDH of the n-th ephemeral key with a public key (R342; log 11). -/
opaque Config.ecdhX : Nat → List Byte → BitVec 384

/-- The device identity public key (R398; log 11). -/
opaque Config.identityPub : BitVec 776

/-- Signature of a digest with the device identity key (R342; log 11). -/
opaque Config.identitySign : BitVec 384 → BitVec 768

/-- A firmware image carries a digest and a Tveder signature that verify (R359, R390; log 11). -/
opaque Config.fwSigned : List Byte → Bool

/-- Version that a firmware image's header states (R359; log 11). -/
opaque Config.fwVersion : List Byte → Word

/-- Security epoch that a firmware image's header states (R390; log 11). -/
opaque Config.fwEpoch : List Byte → Nat

/-- Pages of 256 bytes that the journal record with a sequence number takes, header and marker among them: R405 gives no sizes (log 7). -/
opaque Config.recordPages : Nat → Nat

end Sys2Proof
end

