-- ==== Sys2Proof/Machine/State.lean ====
section
/-!
DEFINITION. The state of the CX-9160 as plain data. Each field's docstring gives its width, the rule that names it and its
reset value; a value marked MODEL is bookkeeping of this model, not the spec's. Registers are kept as fields where the
spec gives them fields, and the register map (Machine/Regs.lean) packs and unpacks them.
-/

namespace Sys2Proof.Machine

/-- An accumulator (R82). -/
structure Acc where
  /-- [40] R82: real component; reset 0 (R83) -/
  re : BitVec 40
  /-- [40] R82: imaginary component; reset 0 (R83) -/
  im : BitVec 40
  /-- [1] R82: poison tag; reset clear (R83) -/
  p : Bool
  deriving DecidableEq, Repr

/-- A vector register (R102). -/
structure VReg where
  /-- [256] R102: value; reset 0 (R105) -/
  v : BitVec 256
  /-- [8] R102: one poison tag per 32-bit lane; reset clear (R105) -/
  t : Byte
  deriving DecidableEq, Repr

/-- A result on its way to a register (R51 to R53). A vector result writes the bits of its mask only (R109). -/
inductive Wb where
  | g (i : Nat) (x : TW)
  | pf (i : Nat) (x : TW)
  | acc (k : Nat) (a : Acc)
  | vec (i : Nat) (mask : BitVec 256) (v : BitVec 256) (tags : Byte)   -- tags: of the lanes that mask touches
  | creg (n : Nat) (w : Word)
  | vxsat                                                               -- a saturating vector result lands (R106)
  deriving DecidableEq, Repr

/-- A request outside the core (R154): bytes carry their poison tags; a read has none. -/
structure Req where
  write : Bool
  addr : Word
  size : Nat
  data : List PByte
  /-- Bytes of the request that it acts on, where not all: the active elements of a vector access (R109). -/
  mask : List Bool := []
  deriving DecidableEq, Repr

/-- Where one part of a remote load goes when its response arrives (R57, R117). -/
structure RPart where
  /-- The request. -/
  req : Req
  /-- Destination register: g of this number, or v when isVec. -/
  rd : Nat
  isVec : Bool
  /-- Vector: bit offset of the first byte in the register; scalar: 0. -/
  bit : Nat
  /-- Scalar: sign-extend from size bytes. -/
  signed : Bool
  /-- Vector: bytes of the request that belong to active elements. -/
  keep : List Bool
  /-- Place of its result among the results of its bundle (R53). -/
  pos : Nat := 0
  deriving DecidableEq, Repr

/-- A store to the core's own PM or DM held until its bundle ends (R94). -/
structure MStore where
  pm : Bool
  off : Nat
  data : List PByte
  /-- Narrow scalar store to DM: goes to the merge buffer (R100). -/
  narrow : Bool
  /-- Another run of the same access follows: what both store to one word goes to it in one write (R249, R116). -/
  more : Bool := false
  deriving DecidableEq, Repr

/-- One element of a strided or indexed access, in order (R114, R115). -/
structure Elem where
  idx : Nat
  units : Nat
  /-- It lies outside PM and DM (R117). -/
  out : Bool := false
  wbs : List Wb
  reads : List (Nat × Nat)
  accs : List (Bool × Nat × Bool)
  stores : List MStore
  reqs : List Req
  parts : List RPart
  deriving DecidableEq, Repr

/-- What one operation of the open bundle will do when the bundle ends: computed from the registers at its start (R52). -/
structure OpEff where
  /-- Slot 0 to 5 for L0, L1, M0, M1, A, V; 6 when no slot remained (R50). -/
  slot : Nat
  /-- The operation word (R124). -/
  word : Word
  /-- Results visible to bundle n + 1 (R51). -/
  early : List Wb
  /-- Results visible to bundle n + 2 (R51). -/
  late : List Wb
  /-- JAL or JALR: g31 receives the address of the bundle after the delay bundle (R60). -/
  link : Bool
  /-- ECC words that the operation reads: MEM and WORD (R261). -/
  reads : List (Nat × Nat)
  /-- Accesses to the core's own memories, for the record (R154): PM?, offset, write? -/
  accs : List (Bool × Nat × Bool)
  stores : List MStore
  reqs : List Req
  parts : List RPart
  elems : List Elem
  /-- Trap cause and EVAL (Table 3-9). -/
  trap : Option (Nat × Word)
  /-- Refusal by the ridge's check (R434): kind, write, address. -/
  refused : Option (Nat × Bool × Word)
  /-- Index that VSTART takes when this operation's element fault is the trap (R118). -/
  vstart : Option Nat
  /-- Taken branch target (R60). -/
  branch : Option Word
  /-- LOOP: end address and count (R62); the start address is known at the end of the bundle. -/
  loop : Option (Word × Word)
  reti : Bool
  fence : Bool
  lbinv : Bool
  /-- Stall cycles that this operation adds (Table 3-2). -/
  stall : Nat
  deriving DecidableEq, Repr

/-- A bundle or entry record (R154): compared whole. -/
structure Record where
  /-- Entry record? -/
  entry : Bool
  pc : Word
  wbs : List Wb
  /-- Updates of loop registers and PSW by the hardware, and of an entry: control register and value. -/
  cregs : List (Nat × Word)
  reqs : List Req
  accs : List (Bool × Nat × Bool)
  deriving DecidableEq, Repr

/-- A merge-buffer entry (R100). -/
structure Merge where
  /-- DM word index. -/
  word : Nat
  data : Word
  /-- [4] bytes written. -/
  mask : BitVec 4
  /-- Poisoned bytes: [4]. -/
  tags : BitVec 4
  deriving DecidableEq, Repr

/-- The loop registers and their depth as they stood for a bundle (R63). -/
structure Loops where
  ls : List Word
  le : List Word
  lc : List Word
  ld : Nat
  deriving DecidableEq, Repr

/-- States of a core (Table 7-1). -/
inductive CoreSt where
  | free | member | spare | shadow | test | quarantined | failed | clearing
  deriving DecidableEq, Repr

/-- What a core's self-test is for (R188, R190, R193). -/
inductive TestFor where
  | rotation | spare | quarantine | inPlace
  | orphan    -- in place, its ridge dissolved meanwhile: never recalled (R193)
  deriving DecidableEq, Repr

/-- One core: registers, loop buffer, merge buffer and pipeline state. -/
structure Core where
  /-- [32 x 32 + tag] 03 Registers and program status: g0 to g31; reset DESIGN CHOICE 0 (log 6) -/
  gr : Tbl TW
  /-- [32 x 32 + tag] R96, R135: pointer file p0-7, m0-7, b0-7, l0-7; reset DESIGN CHOICE 0 (log 6) -/
  pf : Tbl TW
  /-- [8] R82: acc0 to acc7; reset 0 (R83) -/
  acc : Tbl Acc
  /-- [32] R102: v0 to v31, f0 to f31 overlaid (R103); reset 0 (R105) -/
  vr : Tbl VReg
  /-- [32] Table 3-3: PSW; reset 0x0000_0000 -/
  psw : Word
  /-- [32] Table 3-4: EPC; reset 0 -/
  epc : Word
  /-- [32] Table 3-4: EPSW; reset 0 -/
  epsw : Word
  /-- [8] Table 3-4: ECAUSE; reset 0 -/
  ecause : Byte
  /-- [32] Table 3-4: EVAL; reset 0 -/
  eval : Word
  /-- [32] Table 3-4: IVB, bits [9:0] zero; reset 0 -/
  ivb : Word
  /-- [32] Table 3-4: ETGT; reset 0 -/
  etgt : Word
  /-- [4 x 32] 03 Registers: LS0 to LS3; reset DESIGN CHOICE 0 (log 6) -/
  ls : List Word
  /-- [4 x 32] 03 Registers: LE0 to LE3; reset DESIGN CHOICE 0 (log 6) -/
  le : List Word
  /-- [4 x 32] 03 Registers: LC0 to LC3; reset DESIGN CHOICE 0 (log 6) -/
  lc : List Word
  /-- [6] Table 5-1: VL; reset 0 -/
  vl : Nat
  /-- [1] Table 5-1: VTYPE.INV; reset 1 -/
  vinv : Bool
  /-- [2] Table 5-1: VTYPE.EW; reset 0b00 -/
  vew : BitVec 2
  /-- [5] Table 5-1: VSTART; reset 0 -/
  vstart : Nat
  /-- [2] Table 5-1: VXRM.RM; reset 0b01 -/
  vxrm : BitVec 2
  /-- [1] Table 5-1: VXSAT.SAT; reset 0 -/
  vxsat : Bool
  /-- [3] Table 7-2: MCTL_CORE.STATE; reset 0b000 -/
  st : CoreSt
  /-- [6] Table 7-2: MCTL_CORE.RIDGE; reset 0 -/
  ridge : Nat
  /-- [2] Table 7-2: MCTL_CORE.SLOT; reset 0 -/
  slot : Nat
  /-- [32] R48: address of the bundle that X executes next; reset DESIGN CHOICE 0 (log 6), set by R149 -/
  pc : Word
  /-- [1+32] R60: pending target while PSW.DLY = 1; reset none -/
  pend : Option Word
  /-- [1] R80: the delay bundle of a RETI is next; reset 0 -/
  retiPend : Bool
  /-- R51: results of the last bundle that land with the next; reset empty -/
  late : List Wb
  /-- R50: operations of the bundle in X so far; reset empty (MODEL) -/
  open_ : List OpEff
  /-- [1] R54: the bundle is complete and is held in X; reset 0 -/
  held : Bool
  /-- R62: address of the first body bundle of a LOOP with count zero while it waits to pass X, with no effect, for the responses of that
  LOOP's bundle; `pc` is the bundle after the loop; reset none (MODEL) -/
  skip : Option Word
  /-- R57: parts of a remote load still awaited; reset none -/
  wait : List RPart
  /-- [1] R117: the request of the open bundle's first unserved remote load element has left; reset 0 -/
  eSent : Bool
  /-- R119: requests of load elements whose responses are discarded when they arrive; reset none -/
  eDrop : List Req
  /-- [1+32] R57, R58: ACCESS_ERROR waiting for the next bundle boundary, its EVAL; reset none -/
  aerr : Option Word
  /-- R63: loop registers as visible to the previous bundle; reset as the loop registers -/
  testLoops : Loops
  /-- R63: next fetch that LOOP_END_TEST has selected, with LC count-downs and ended loops; reset none -/
  endSel : Option (Word × Loops)
  /-- R48, R49: words of the next bundle as F has fetched them; reset empty -/
  fetched : List TW
  /-- R434: refused stores whose error response is on its way: X cycle at which it arrives (MODEL count), address; reset empty -/
  refusals : List (Nat × Word)
  /-- R100: merge-buffer entries, least recently written first, at most two; reset empty -/
  merge : List Merge
  /-- R100, R263: an evicted partial entry not yet completed; reset none -/
  evicted : Option Merge
  /-- R67: loop buffer: loop index it holds; reset none -/
  lbLoop : Option Nat
  /-- [1] R67: the second or a later iteration runs, so F reads from the buffer; reset 0 -/
  lbOn : Bool
  /-- R67: captured bundles, address and words; reset empty -/
  lbuf : List (Word × List (Word × Bool))
  /-- R154: records closed and not yet compared; reset empty -/
  recs : List Record
  /-- R154: write-backs landed since the last record; reset empty -/
  landed : List Wb
  /-- R48, R54: X cycles executed since release (MODEL count of cycles); reset 0 -/
  cycles : Nat
  /-- [3] Table 8-12: BIST_RESULT.STATUS; reset 0 -/
  bStatus : Nat
  /-- [1] Table 8-12: BIST_RESULT.MFAIL; reset 0 -/
  bMfail : Bool
  /-- [4] Table 8-12: BIST_RESULT.SLICES; reset 0 -/
  bSlices : Nat
  /-- [2] Table 8-12: BIST_RESULT.QCOUNT; reset 0 -/
  bQcount : Nat
  /-- [16] Table 8-12: BIST_RESULT.PATCNT; reset 0 -/
  bPatcnt : Nat
  /-- R190: quarantines since chip reset; reset 0 -/
  quars : Nat
  /-- R192, R193: what the running test is for; reset none -/
  testFor : Option TestFor
  /-- R189: the core is cleared to serve this ridge's fill col; reset none -/
  reserve : Option Nat
  /-- R162: an uncorrected-contained event of this member waits for Cairn's removal; reset 0 -/
  removeDue : Bool
  deriving DecidableEq, Repr

/-- Ridge states (Table 7-7). -/
inductive RidgeSt where
  | free | loading | ready | running | halted | restarting | dissolving
  deriving DecidableEq, Repr

/-- Ridge watchdog (Table 16-3). -/
structure Wdt where
  /-- [4] Table 16-3: WDT_CFG.OPEN; reset 0 -/
  open_ : Nat
  /-- [16] Table 16-3: WDT_CFG.PERIOD; reset 0 -/
  period : Nat
  /-- [1] R360: WDT_STAT.EN, and WDT_CFG locked; reset 0 -/
  en : Bool
  /-- [16] Table 16-3: WDT_REQ.REQ; reset 0 -/
  req : BitVec 16
  /-- [1] R361: WDT_REQ locked; reset 0 -/
  reqLock : Bool
  /-- [1] Table 16-3: WDT_STAT.WARN; reset 0 -/
  warn : Bool
  /-- [1] Table 16-3: WDT_STAT.EARLY; reset 0 -/
  early : Bool
  /-- [1] Table 16-3: WDT_STAT.REPEAT; reset 0 -/
  repeat_ : Bool
  /-- [1] Table 16-3: WDT_STAT.RSTSTG; reset 0 -/
  rststg : Bool
  /-- [1] Table 16-3: WDT_STAT.MISS; reset 0 -/
  miss : Bool
  /-- [16] Table 16-3: WDT_STAT.DONE; reset 0 -/
  done : BitVec 16
  /-- [26] Table 16-3: WDT_COUNT.N; reset 0 -/
  n : Nat
  /-- [1] R363: edge 0 of the first period after WDT_CFG or a release has not come yet; reset 0 -/
  fresh : Bool
  /-- [1] Table 16-3: WDT_LAST.GOOD; reset 0 -/
  lastGood : Bool
  /-- [16] Table 16-3: WDT_LAST.DONE; reset 0 -/
  lastDone : BitVec 16
  /-- R364, R366: the current period is failed by an EARLY check-in (and has warned); reset 0 -/
  failed : Bool
  /-- R364: check-in writes not yet sampled, oldest first; reset empty -/
  checkins : List (BitVec 16)
  deriving DecidableEq, Repr

/-- A posted store on its way: the request and, once it has left, its response (error kind or none). -/
structure Posted where
  req : Req
  /-- Error response kind of Table 2-6. -/
  resp : Option Nat
  /-- The response is ready (massif stores wait for their bank, R247). -/
  ready : Bool
  deriving DecidableEq, Repr

/-- A voted remote load on its way (R57). -/
structure LoadReq where
  req : Req
  /-- Bytes of the response. -/
  data : List PByte
  /-- Error response kind of Table 2-6. -/
  err : Option Nat
  /-- Posted stores of the ridge that were issued before it and have not left (R42). -/
  behind : Nat
  /-- The request has reached its target (R248: after the ridge's earlier stores). -/
  sent : Bool
  /-- The response is ready. -/
  ready : Bool
  deriving DecidableEq, Repr

/-- One ridge block: status, interrupt controller, watchdog, queues. -/
structure Ridge where
  /-- [3] Table 7-7: RIDGE_STATUS.STATE; reset 0 -/
  st : RidgeSt
  /-- [2] Table 7-7: KIND, 0 none, 1 simplex, 2 pair, 3 triad; reset 0 -/
  kind : Nat
  /-- [2] Table 7-7: MASSIF; reset 0 -/
  massif : Nat
  /-- [1] Table 7-7: DEGRADED; reset 0 -/
  degraded : Bool
  /-- [1] Table 7-7: COMMONQ; reset 0 -/
  commonq : Bool
  /-- [4] Table 7-8: HALTCAUSE; reset 0 -/
  haltcause : Nat
  /-- [4] Table 7-7: RSTCNT; reset 0 -/
  rstcnt : Nat
  /-- [1] Table 2-3: RIDGE_ATTR.PRIV; reset 0 -/
  priv : Bool
  /-- [1] Table 2-3: RIDGE_ATTR.SECURE; reset 0 -/
  secure : Bool
  /-- [3 x (1+6)] Table 7-9: Vk and COREk; reset 0 -/
  members : List (Bool × Nat)
  /-- [30] Table 7-10: RIDGE_START; reset 0 -/
  start : Word
  /-- [1] Table 7-11: RIDGE_CTRL.OUTEN; reset 0 -/
  outen : Bool
  /-- [4] Table 7-12: RIDGE_POLICY.MAXRST; reset 0 -/
  maxrst : Nat
  /-- [1] Table 7-12: RIDGE_POLICY.RESTART; reset 0 -/
  restart : Bool
  /-- [1] Table 7-13: RIDGE_VOTE_INFO.VALID; reset 0 -/
  voteValid : Bool
  /-- [1] Table 7-13: SRC; reset 0 -/
  voteSrc : Bool
  /-- [2] Table 7-13: SLOT; reset 0 -/
  voteSlot : Nat
  /-- [2] Table 7-13: ACTION; reset 0 -/
  voteAction : Nat
  /-- [8] Table 7-13: COUNT; reset 0 -/
  voteCount : Nat
  /-- [8] Table 7-13: EVICTS; reset 0 -/
  evicts : Nat
  /-- [32] Table 7-14: RIDGE_VOTE_PC; reset 0 -/
  votePc : Word
  /-- [1] Table 2-4: RIDGE_AERR_INFO.VALID; reset 0 -/
  aeValid : Bool
  /-- [3] Table 2-4: KIND; reset 0 -/
  aeKind : Nat
  /-- [1] Table 2-4: WRITE; reset 0 -/
  aeWrite : Bool
  /-- [8] Table 2-4: COUNT; reset 0 -/
  aeCount : Nat
  /-- [32] Table 2-5: RIDGE_AERR_ADDR; reset 0 -/
  aeAddr : Word
  /-- [1] Table 17-6: RIDGE_FCU.VALID; reset 0 -/
  fcuValid : Bool
  /-- [8] Table 17-6: COUNT; reset 0 -/
  fcuCount : Nat
  /-- [12] Table 17-6: SOURCE; reset 0 -/
  fcuSource : Nat
  /-- [64] Table 3-7: ICU_EN0, ICU_EN1; reset 0 -/
  icuEn : BitVec 64
  /-- [48] Table 3-7: PEND of sources 16 to 63, at their own bit; reset 0 -/
  icuPend : BitVec 64
  /-- [64 x 3] Table 3-7: LEVEL of each source, ICU_PRIO0 to 7; reset 0 -/
  icuPrio : Tbl Nat
  /-- [16 x 8] Table 3-7: ICU_TASKCNT; reset 0 -/
  taskCnt : Tbl Nat
  /-- [16] Table 3-7: ICU_TOVF; reset 0 -/
  tovf : BitVec 16
  /-- [40 x 10] Table 3-7: ICU_ROUTE24 to 63, by source number; reset 0x3FF -/
  icuRoute : Tbl Nat
  /-- [1] R436: NMI pending bit; reset 0 -/
  nmiPend : Bool
  /-- [8 entries] R58: posted-store queue, voted, oldest first; reset empty -/
  queue : List Req
  /-- R58: stores that have left and whose response has not been taken, oldest first; reset empty -/
  flying : List Posted
  /-- R57: voted remote loads whose response has not been taken, oldest first; reset empty -/
  loads : List LoadReq
  /-- [6] R351: image slot the ridge was formed from; reset 0 -/
  image : Nat
  /-- R163: the halt sequence drains before the block reset; reset 0 -/
  draining : Bool
  /-- R150: dissolution requested; reset 0 -/
  dissolve : Bool
  /-- R150: cores of a dissolving ridge that are still being cleared; reset empty (MODEL) -/
  clearing : List Nat
  /-- R193: cores of this ridge under in-place test; reset 0 -/
  underTest : Nat
  /-- R193: an in-place test of a member has failed; reset 0 -/
  testFailed : Bool
  /-- Table 16-3: the ridge's watchdog -/
  wdt : Wdt
  deriving DecidableEq, Repr

/-- A massif region (Table 11-3). -/
structure Region where
  /-- [1] Table 11-3: EN; reset 0 -/
  en : Bool
  /-- [9] Table 11-3: LIMIT; reset 0 -/
  limit : Nat
  /-- [9] Table 11-3: BASE; reset 0 -/
  base : Nat
  /-- [64] Table 11-3: MREG_RDHI and MREG_RDLO; reset 0 -/
  rd : BitVec 64
  /-- [64] Table 11-3: MREG_WRHI and MREG_WRLO; reset 0 -/
  wr : BitVec 64
  deriving DecidableEq, Repr

/-- An element read of a DMA channel that is outstanding (R257). -/
structure DmaRead where
  req : Req
  data : List PByte
  err : Option Nat
  ready : Bool
  deriving DecidableEq, Repr

/-- A massif DMA channel (Table 11-10). -/
structure Dma where
  /-- [32] Table 11-10: DMA_SRC; reset 0 -/
  src : Word
  /-- [32] Table 11-10: DMA_DST; reset 0 -/
  dst : Word
  /-- [16, shown; the count itself reaches 65,536] Table 11-10: LEFT; reset 0 -/
  left : Nat
  /-- [16] Table 11-10: CNT; reset 0 -/
  cnt : Nat
  /-- [2] Table 11-10: ESIZE; reset 0b10 -/
  esize : BitVec 2
  /-- [16] Table 11-10: DSTEP; reset 0 -/
  dstep : BitVec 16
  /-- [16] Table 11-10: SSTEP; reset 0 -/
  sstep : BitVec 16
  /-- [32] Table 11-10: DMA_SBASE; reset 0 -/
  sbase : Word
  /-- [32] Table 11-10: DMA_SLEN; reset 0 -/
  slen : Word
  /-- [32] Table 11-10: DMA_DBASE; reset 0 -/
  dbase : Word
  /-- [32] Table 11-10: DMA_DLEN; reset 0 -/
  dlen : Word
  /-- [1] Table 11-10: BUSY; reset 0 -/
  busy : Bool
  /-- [1] Table 11-10: DONE; reset 0 -/
  done : Bool
  /-- [1] Table 11-10: ERR; reset 0 -/
  err : Bool
  /-- [1] Table 11-10: STOPPED; reset 0 -/
  stopped : Bool
  /-- [1] Table 11-10: OVR; reset 0 -/
  ovr : Bool
  /-- [3] Table 11-10: EKIND; reset 0 -/
  ekind : Nat
  /-- [32] Table 11-10: DMA_EADDR; reset 0 -/
  eaddr : Word
  /-- [1+6] Table 11-10: DMA_OWN.OWNV, OWNER; reset 0 -/
  owner : Option Nat
  /-- R257: outstanding reads in element order, at most four; reset empty -/
  reads : List DmaRead
  /-- R257: element reads still to issue; reset 0 -/
  toRead : Nat
  /-- R257, R258: element writes issued, response awaited: request, error kind, ready; reset empty -/
  writes : List (Req × Option Nat × Bool)
  /-- R258: a stop is requested at the next element boundary; reset 0 -/
  stopReq : Bool
  /-- Table 17-3: the stop is that of a block reset of the channel; reset 0 -/
  rstReq : Bool
  deriving DecidableEq, Repr

/-- Who waits at a massif port (R246). -/
inductive Requester where
  | load (r : Nat)      -- load of ridge r
  | store (r : Nat)     -- posted store of ridge r
  | dmaRead (ch : Nat)  -- element read of device-wide DMA channel
  | dmaWrite (ch : Nat)
  | gone                -- a DMA channel whose transfer has ended: the response is discarded (R258)
  deriving DecidableEq, Repr

/-- A request at a port: banks not yet served are recomputed from left (R246). -/
structure PortReq where
  who : Requester
  req : Req
  /-- Banks still to serve it. -/
  banks : List Nat
  /-- Bytes read so far, by byte index. -/
  got : Tbl PByte
  /-- Cycles it has waited at the head (R253). -/
  waited : Nat
  /-- Of these, cycles in which each bank that it still needs has served another (R253). -/
  waits : Tbl Nat := []
  deriving DecidableEq, Repr

/-- A col in progress (R171). -/
structure Col where
  /-- [3] Table 8-8: PHASE 1 COPY, 2 REGS, 3 VERIFY; reset none active -/
  phase : Nat
  /-- [1] Table 8-8: PRIOON; reset 0 -/
  prioOn : Bool
  /-- [1] Table 8-8: KIND 0 fill, 1 rotation; reset 0 -/
  rot : Bool
  /-- [2] Table 8-8: TSLOT; reset 0 -/
  tslot : Nat
  /-- [2] Table 8-8: SSLOT; reset 0 -/
  sslot : Nat
  /-- [6] Table 8-8: RIDGE; reset 0 -/
  ridge : Nat
  /-- [6] Table 8-8: NEWCORE; reset 0 -/
  newcore : Nat
  /-- R192: the departing core goes on to self-test; reset 0 -/
  toTest : Bool
  /-- R174: engine tick of the latest shadow start (MODEL: COL_LAST counts from it); reset 0 -/
  startTick : Nat
  /-- R183: records that the departing member still owes the vote; reset 0 -/
  owed : Nat
  /-- [411] R179, R180: items of Table 8-1 that the side port has copied once, in the table's order; reset 0 -/
  items : Nat := 0
  deriving DecidableEq, Repr

/-- Massif m: regions, banks, conflict counters, DMA channels, col and rotation control. -/
structure Massif where
  /-- [32] Table 11-3: regions; reset disabled -/
  regions : Tbl Region
  /-- [32 x (1+6)] Table 11-3: MBANK_OWN.EN and RIDGE; reset 0 -/
  bankOwn : Tbl (Bool × Nat)
  /-- [20 x 32] Table 11-3: MCONF_CNT; reset 0 -/
  confCnt : Tbl Nat
  /-- [20 x 8] Table 11-3: MCONF_MAX; reset 0 -/
  confMax : Tbl Nat
  /-- [4] Table 11-10: DMA channels -/
  dma : Tbl Dma
  /-- R246: requests waiting at ports 0 to 19, oldest first; reset empty -/
  ports : Tbl (List PortReq)
  /-- [32 x 5] R247: round-robin pointer of each bank; reset DESIGN CHOICE 0 (log 6) -/
  rr : Tbl Nat
  /-- [8] Table 8-7: COL_CFG.PRIO_DELAY; reset 0x0A -/
  prioDelay : Nat
  /-- [2] Table 8-7: COL_CFG.PRIO; reset 0b00 -/
  prio : Nat
  /-- Table 8-8: COL_STATUS but RESTARTS; reset not active -/
  col : Option Col
  /-- [4] Table 8-8: RESTARTS; reset 0 -/
  restarts : Nat
  /-- [13] Table 8-9: DMROWS; reset 0 -/
  dmRows : Nat
  /-- [13] Table 8-9: PMROWS; reset 0 -/
  pmRows : Nat
  /-- [32] Table 8-10: COL_LAST; reset 0 -/
  colLast : Nat
  /-- [1] Table 8-11: ROT_CFG.EN; reset 0 -/
  rotEn : Bool
  /-- [1] Table 8-11: ROT_CFG.PAIRS; reset 0 -/
  rotPairs : Bool
  /-- [16] Table 8-11: ROT_CFG.STEP; reset 0 -/
  rotStep : Nat
  /-- R191: time of the previous step in engine ticks; reset none -/
  rotLast : Option Nat
  /-- R191: core that departed in the previous step; reset none -/
  rotCore : Option Nat
  /-- R191: ridge and slot of the previous step; reset none -/
  rotPos : Option (Nat × Nat)
  /-- R185: ridge and slot of a rotation col that lost its newcomer and starts again with another; reset none -/
  rotAgain : List (Nat × Nat)
  deriving DecidableEq, Repr

/-- Configuration registers of an angle domain: one staged and one active copy exist (R212). -/
structure AdCfg where
  /-- [1] Table 9-8: EN; reset 0 -/
  en : Bool
  /-- [1] Table 9-8: FIRE; reset 0 -/
  fire : Bool
  /-- [1] Table 9-8: FV; reset 0 -/
  fv : Bool
  /-- [3] Table 9-8: SRC; reset 0b000 -/
  src : Nat
  /-- [4] Table 9-8: PIN; reset 0 -/
  pin : Nat
  /-- [2] Table 9-8: EDGE; reset 0b00 -/
  edge : BitVec 2
  /-- [6] Table 9-8: FEEDER; reset 0 -/
  feeder : Nat
  /-- [4] Table 9-8: KP; reset 1 -/
  kp : Nat
  /-- [4] Table 9-8: KI; reset 4 -/
  ki : Nat
  /-- [4] Table 9-8: FILT; reset 0 -/
  filt : Nat
  /-- [16] Table 9-8: EVPC; reset 0 -/
  evpc : Nat
  /-- [24] Table 9-8: PHASE; reset 0 -/
  phase : Nat
  /-- [8] Table 9-8: MISS; reset 3 -/
  miss : Nat
  /-- [16] Table 9-8: HOLD; reset 250 -/
  hold : Nat
  /-- [32] Table 9-8: FNOM; reset 0x00A7_C5AC -/
  fnom : Nat
  /-- [16] Table 9-8: TOL; reset 0x028F -/
  tol : Nat
  /-- [8] Table 9-8: LOCKN; reset 8 -/
  lockn : Nat
  /-- [24] Table 9-8: WIN; reset 0x00_0800 -/
  win : Nat
  /-- [24] Table 9-8: ACC; reset 0x04_0000 -/
  acc : Nat
  /-- [16] Table 9-8: NUM; reset 50 -/
  num : Nat
  /-- [8] Table 9-8: DEN; reset 1 -/
  den : Nat
  deriving DecidableEq, Repr

/-- A reference event of a domain waiting for its evaluation (R198). -/
structure RefEv where
  /-- Timestamp tick. -/
  ts : Nat
  /-- Angle held in the timestamp tick: 40 bits. -/
  angle : Nat
  /-- Evaluation tick. -/
  due : Nat
  /-- Pin of the edge. -/
  pin : Nat
  /-- Index event (R201). -/
  index : Bool
  /-- Reverse edge of an encoder (R201). -/
  rev : Bool
  /-- A step or commit took effect since the timestamp tick. -/
  spoiled : Bool
  /-- Sum of the frequency words applied since the timestamp tick (R207). -/
  adv : Nat := 0
  /-- An instant of the device clock (R203). -/
  ptp : Bool := false
  deriving DecidableEq, Repr

/-- States of an angle domain (Table 9-4). -/
inductive AdSt where
  | off | acquire | track | locked | holdover | lost | free
  deriving DecidableEq, Repr

/-- An occurrence held in a comparator (R225). -/
structure Comp where
  /-- Occurrence angle: 40 bits. -/
  angle : Nat
  /-- Entry index. -/
  entry : Nat
  w0 : Word
  w1 : Word
  /-- Tick in which it was loaded. -/
  tick : Nat
  late : Bool
  skip : Bool
  deriving DecidableEq, Repr

/-- One angle domain with its walker lane. -/
structure Domain where
  /-- [62] R195: phase accumulator; reset DESIGN CHOICE 0 (log 6; OFF reads zero) -/
  phase : Nat
  /-- R233: angle held in the tick before the present one (MODEL: the start of a step range); reset 0 -/
  heldWas : Nat
  /-- Table 9-8: active copy -/
  cfg : AdCfg
  /-- R212: staged copy; reset as the active copy -/
  stg : AdCfg
  /-- [24] Table 9-8: AD_OFFSET.OFFSET, active; reset 0 -/
  offset : BitVec 24
  /-- [1+24] R211: staged offset, PEND; reset none -/
  offStg : Option (BitVec 24)
  /-- [1] R212: a commit waits for the next boundary; reset 0 -/
  commitReq : Bool
  /-- [16] Table 9-9: AD_EST_CYC; reset 0 -/
  estCyc : Nat
  /-- [1] Table 9-9: STALE; reset 0 -/
  stale : Bool
  /-- [1] Table 9-9: REV; reset 0 -/
  rev : Bool
  /-- [1] Table 9-9: CLAMP; reset 0 -/
  clamp : Bool
  /-- [3] Table 9-9: STATE; reset 0 -/
  st : AdSt
  /-- [32] Table 9-9: AD_FREQ; reset 0 -/
  freq : Nat
  /-- [32] Table 9-9: AD_FBASE; reset 0 -/
  fb : Nat
  /-- R204: proportional term, signed; reset 0 -/
  slew : Int
  /-- [24] Table 9-9: AD_ERR; reset 0 -/
  err : BitVec 24
  /-- [16] Table 9-9: AD_COUNT.REJ; reset 0 -/
  rej : Nat
  /-- [16] Table 9-9: AD_COUNT.MISS; reset 0 -/
  missCnt : Nat
  /-- R198: level and edge events waiting for evaluation, oldest first; reset empty -/
  evs : List RefEv
  /-- R204: timestamp of the previous accepted event; reset none -/
  prevTs : Option Nat
  /-- R207: sub-au advance since the last accepted event or miss; reset 0 -/
  adv : Nat
  /-- R207: consecutive accepted events inside (TRACK) or outside (LOCKED) WIN; reset 0 -/
  run : Nat
  /-- R207: first-crossed boundaries since entry to HOLDOVER; reset 0 -/
  holds : Nat
  /-- R210: number of cycle boundaries crossed for the first time but not handled; reset 0 -/
  due : Nat
  /-- R213: tick in which the first of these is handled: the next one for a boundary that a step has crossed; reset 0 -/
  dueTick : Nat
  /-- R240: cycle boundaries crossed for the first time (MODEL: CYC without its wrap, taking `back` away); reset 0 -/
  turns : Int
  /-- R210: cycles by which a backward step has carried CYC below the highest value reached; reset 0 -/
  back : Nat
  /-- R225: lane position bin: CYC * 4096 + bin; reset 0 -/
  pos : Nat
  /-- R225: cursors of the nine lists for the bin being read: next entry index of list k; reset empty -/
  cur : Tbl Nat
  /-- R225: bin being read; reset 0 -/
  rdBin : Nat
  /-- R227: armed occurrence read and waiting for a free comparator; reset none -/
  hold : Option Comp
  /-- [64] R225: comparators in use; reset empty -/
  comps : List Comp
  /-- [40] R226: fired mark FM; reset DESIGN CHOICE 0 (log 6), set on a commit from OFF -/
  fm : Nat
  /-- R226, R232: entries that have fired at the angle FM (MODEL, log 41); empty where no firing has put FM there; reset empty -/
  fmEnts : List Nat
  /-- R229: FM as it stood before the firings of the tick of the latest one; reset 0 -/
  fmWas : Nat
  /-- R229: tick of the latest firing; reset none -/
  fmTick : Option Nat
  /-- R233: step ranges of the forward steps that the lane has not yet caught up with: angle before, angle after; reset empty -/
  steps : List (Nat × Nat)
  /-- [1] Table 10-9: RESYNC; reset 0 -/
  resync : Bool
  /-- [1] Table 10-9: BROKEN; reset 0 -/
  broken : Bool
  /-- [1] Table 10-9: LATE; reset 0 -/
  late : Bool
  /-- [1] Table 10-9: SKIP; reset 0 -/
  skip : Bool
  /-- [1] Table 10-9: DROP; reset 0 -/
  drop : Bool
  /-- [7] Table 10-9: PEAK; reset 0 -/
  peak : Nat
  /-- [16] Table 10-10: LATE; reset 0 -/
  lateCnt : Nat
  /-- [16] Table 10-10: SKIP; reset 0 -/
  skipCnt : Nat
  /-- [16] Table 10-11: DROP; reset 0 -/
  dropCnt : Nat
  /-- [16] Table 10-11: DISC; reset 0 -/
  discCnt : Nat
  /-- [1+1+19] Table 10-12: AST_DLAST WASSKIP and ENTRY; reset none -/
  last : Option (Bool × Nat)
  deriving DecidableEq, Repr

/-- What Cairn keeps of a linked AST entry. -/
structure AstLink where
  /-- Effective cycle of the batch that added it as indefinite and not yet rewritten (R238). -/
  indef : Option Nat
  /-- Value of the domain's turns at which its last valid cycle is over (R240); none while it lasts. -/
  ends : Option Int
  /-- Words W0 to W3 and NEXT as Cairn last wrote them, which the journal holds (R231). -/
  w0 : Word
  w1 : Word
  w2 : Word
  w3 : Word
  next : Nat
  deriving DecidableEq, Repr

/-- The Angle Schedule Table beside its memory (R224, R238). -/
structure Ast where
  /-- [65,408 heads] R224: head table, key (d * 9 + k) * 4096 + r; reset empty -/
  heads : Tbl Nat
  /-- R240: linked entries; reset empty -/
  links : Tbl AstLink
  /-- R237: unlinked indices waiting: boundaries still to cross and domain; reset empty -/
  waiting : Tbl (Nat × Nat)
  /-- [1] Table 10-8: BUSY; reset 0 -/
  busy : Bool
  /-- [3] Table 10-8: DOMAIN; reset 0 -/
  editDom : Nat
  /-- [4] Table 10-8: RESULT; reset 0 -/
  result : Nat
  /-- [16] Table 10-8: XCYC; reset 0 -/
  xcyc : Nat
  /-- R354: open batch: session, domain, X, records; reset none -/
  batch : Option (BitVec 32 × Nat × Nat × List AstRec)
  /-- R239: a resynchronisation has carried the domain of the running batch too far; reset 0 -/
  tooFar : Bool
  /-- R229: tick of the latest pulse of each AST line; reset none -/
  lines : Tbl Nat
  deriving DecidableEq, Repr

/-- A trigger that has reached a capture unit (R215): its tick, the domain by CAP_CFG as it acts in that tick, and the angle, STATE
and CYC held at the end of the tick, once that is past. -/
structure CapTrig where
  tick : Nat
  domain : Nat
  rec_ : Option (Word × Nat × Nat)
  deriving DecidableEq, Repr

/-- A capture unit (Tables 9-10 to 9-12). -/
structure CapUnit where
  /-- [1+6] R215: owner; reset none -/
  owner : Option Nat
  /-- [4] Table 9-10: PIN; reset 0 -/
  pin : Nat
  /-- [2] Table 9-10: TRIG; reset 0b00 -/
  trig : BitVec 2
  /-- [3] Table 9-10: DOMAIN; reset 0 -/
  domain : Nat
  /-- [32] Table 9-11: CAP_ANGLE; reset 0 -/
  angle : Word
  /-- [1] Table 9-12: VALID; reset 0 -/
  valid : Bool
  /-- [1] Table 9-12: OVR; reset 0 -/
  ovr : Bool
  /-- [3] Table 9-12: STATE; reset 0 -/
  st : Nat
  /-- [16] Table 9-12: CYC; reset 0 -/
  cyc : Nat
  /-- R215: triggers that have reached the unit and are not yet taken, oldest first; reset empty -/
  trigs : List CapTrig
  /-- R216: tick of the latest CAP_CFG write, with the PIN, TRIG and DOMAIN that hold in that tick still; reset none -/
  was : Option (Nat × Nat × BitVec 2 × Nat)
  /-- R217: tick of the trigger of the latest capture; reset none -/
  recTick : Option Nat
  /-- R217: the latest trigger that found VALID set, with OVR as it was before; reset none -/
  lost : Option (CapTrig × Bool)
  deriving DecidableEq, Repr

/-- A scrubber (Table 11-8). -/
structure Scrub where
  /-- [1] Table 11-8: SCR_CFG.EN; reset 1 -/
  en : Bool
  /-- [4] Table 11-8: RATE; reset 10 -/
  rate : Nat
  /-- [16] Table 11-8: LIMIT; reset 5,000 -/
  limit : Nat
  /-- [32] Table 11-8: SCR_LAP; reset 0 -/
  lap : Nat
  /-- [16] Table 11-8: LAPS; reset 0 -/
  laps : Nat
  /-- [16] Table 11-8: POISONED; reset 0 -/
  poisoned : Nat
  /-- R266: next word; reset 0 -/
  next : Nat
  /-- R267: poisoned words of the lap so far; reset 0 -/
  seen : Nat
  /-- R267: engine tick at which the lap began; reset 0 -/
  began : Nat
  /-- R266: engine tick of the latest read; reset none -/
  last : Option Nat
  /-- R267: the limit of this lap has been reported; reset 0 -/
  overd : Bool
  /-- R266: word to write back: corrected (false) or poisoned (true); reset none -/
  wb : Option (Nat × Bool)
  deriving DecidableEq, Repr

/-- A firing of a channel on its way to the consumer (R288): the tick of the firing, and CKIND, PARAM, CINDEX, LIM and AUTOMASK as
they act in that tick. -/
structure ChFire where
  tick : Nat
  ckind : Nat
  param : Nat
  cindex : Nat
  lim : Nat
  automask : Bool
  deriving DecidableEq, Repr

/-- An event channel (Tables 12-5, 12-6). -/
structure Channel where
  /-- [1+6] Table 12-5: OWNV, OWNER; reset none -/
  owner : Option Nat
  /-- [1] Table 12-5: SEC; reset 0 -/
  sec : Bool
  /-- [1] Table 12-5: AUTOMASK; reset 0 -/
  automask : Bool
  /-- [9] Table 12-5: LIM; reset 0x064 -/
  lim : Nat
  /-- [3] Table 12-5: CKIND; reset 0b000 -/
  ckind : Nat
  /-- [2] Table 12-5: PARAM; reset 0b00 -/
  param : Nat
  /-- [10] Table 12-5: CINDEX; reset 0 -/
  cindex : Nat
  /-- [1] Table 12-5: MERGE; reset 0 -/
  merge : Bool
  /-- [1] Table 12-5: STORM; reset 0 -/
  storm : Bool
  /-- [1] Table 12-5: MASKED; reset 0 -/
  masked : Bool
  /-- [1] Table 12-5: HELD; reset 0 -/
  held : Bool
  /-- [9] Table 12-5, R283: firings counted in window `win`; WCOUNT while that is the current one; reset 0 -/
  wcount : Nat
  /-- R283: number of the window, from the chip reset on, in which the latest firing was counted; reset 0 -/
  win : Nat
  /-- [16] Table 12-5: DROPS; reset 0 -/
  drops : Nat
  /-- [16] Table 12-5: FIRES; reset 0 -/
  fires : Nat
  /-- [512] Table 12-6: enable-matrix row; reset 0 -/
  row : BitVec 512
  /-- R277: firings on their way to the consumer, oldest first; reset empty -/
  waiting : List ChFire
  /-- R277: tick of the pulse that started the current firing, while another may join it; reset none -/
  start : Option Nat
  /-- R277: tick at which the refractory interval ends; reset none -/
  refr : Option Nat
  /-- R288: the configuration before the write of a tick, in which it acts still, its tick field that tick, and the row; reset
  none -/
  was : Option (ChFire × BitVec 512)
  /-- R284: tick of the latest storm; reset none -/
  stormAt : Option Nat
  /-- R288: tick of the latest change of owner, at whose end MERGE, STORM and MASKED have become 0, and MASKED before it; reset none
  (MODEL, log 32) -/
  clear : Option (Nat × Bool)
  deriving DecidableEq, Repr

/-- A train descriptor (Table 13-18). -/
structure Desc where
  /-- [1] Table 13-18: EN; reset 0 -/
  en : Bool
  /-- [6] Table 13-18: D; reset 0 -/
  d : Nat
  /-- [6] Table 13-18: U; reset 0 -/
  u : Nat
  /-- [14] Table 13-18: UBASE; reset 0 -/
  ubase : Nat
  /-- [14] Table 13-18: DBASE; reset 0 -/
  dbase : Nat
  /-- [16] Table 13-18: ADLY; reset 0 -/
  adly : Nat
  /-- [16] Table 13-18: SDLY; reset 0 -/
  sdly : Nat
  deriving DecidableEq, Repr

/-- A character of a Penrid ring (R293, Table 13-1): a data character, or a special one; `idle` stands for the pair K28.5, D16.2.
`bad` is what a receiver makes of a code or disparity error, other K-codes among them. -/
inductive PChar where
  | data (b : Byte)
  | idle | sot | sotm | eot | err | brk | bad
  deriving DecidableEq, Repr

/-- What a chain port received of one upstream slot (R304): whether all U + 4 bytes arrived, whether its CRC was valid, whether it
is the B copy's (R317), and its U bytes. -/
structure SlotRx where
  present : Bool
  crcOk : Bool
  fromB : Bool
  data : List Byte
  deriving DecidableEq, Repr

/-- A train on the ring (R299). -/
structure Train where
  desc : Nat
  seq : Nat
  safe : Bool
  late : Bool
  skip : Bool
  evp : Bool
  /-- Occurrence angle, 40 bits. -/
  occ : Nat
  /-- LAG in au. -/
  lag : Nat
  /-- R303: command block of each node as captured, and whether its CRC goes out inverted. -/
  cmds : List (List Byte × Bool)
  /-- SOT has left TX. -/
  sent : Bool
  /-- Tick of the launch, and index of the entry that launched it (R229). -/
  tick : Nat
  entry : Nat
  /-- Header bytes 1 to 10 as sent (Table 13-3). -/
  header : List Byte
  /-- D, U and UBASE of its descriptor and N of its ring, as at the launch (R296, R304). -/
  d : Nat
  u : Nat
  ubase : Nat
  n : Nat
  deriving DecidableEq, Repr

/-- States of a Penrid node (R306 to R312). -/
inductive NodeSt where
  | unaddressed | addressed | configured | operational
  deriving DecidableEq, Repr

/-- A Penrid node on a port's ring, at a position. -/
structure Node where
  /-- R310: state; reset UNADDRESSED (Table 13-10) -/
  st : NodeSt
  /-- [5] R310: address; reset 0 -/
  addr : Nat
  /-- [32 bytes] Table 13-8: identity record, what the node is; reset zeros DESIGN CHOICE (log 6) -/
  ident : List Byte
  /-- [102 bytes] Table 13-9: stored CONFIG payload; reset none -/
  conf : Option (List Byte)
  /-- R306: command stored for the apply instant; reset none -/
  cmd : Option (List Byte)
  /-- R307: apply at the instant drives the safe states (SAFE header); reset 0 -/
  applySafe : Bool
  /-- R306: a valid header was processed and its apply instant is due; reset 0 -/
  armed : Bool
  /-- R307: command applied at the outputs; reset none -/
  applied : Option (List Byte)
  /-- R308: outputs in their safe states; reset 1 -/
  safe : Bool
  /-- Table 13-5: NRDY; reset 0 -/
  nrdy : Bool
  /-- Table 13-5: FAULT; reset 0 -/
  fault : Bool
  /-- Table 13-5: DSCRD; reset 0 -/
  dscrd : Bool
  /-- R307: latest sample; reset empty -/
  sample : List Byte
  /-- R306: payload last filled into its slot; reset empty -/
  slot : List Byte
  /-- R306, R316: the node has filled its slot in the train's copy on the ring or ring A, and in that on ring B; reset 0 -/
  filledA : Bool
  filledB : Bool
  /-- R310: response slot last filled; reset empty -/
  resp : List Byte
  /-- R295: RX in sync, on the ring or ring A; reset 0 -/
  sync : Bool
  /-- R295, R316: RX in sync, on ring B; reset 0 -/
  syncB : Bool
  /-- R312, R313: tick of the latest change of sync, on the ring or ring A; reset 0 -/
  syncAt : Nat
  /-- R312, R313: tick of the latest change of sync on ring B; reset 0 -/
  syncAtB : Nat
  /-- R313: sending BRK, on the ring or ring A; reset 0 -/
  brk : Bool
  /-- R313: sending BRK on ring B; reset 0 -/
  brkB : Bool
  /-- R310: CNT last sent on; reset 0 -/
  cntOut : Byte
  /-- R316: CNT of the latest ENUM on ring B since one on ring A; reset none -/
  cntB : Option Nat
  /-- R305, R310, R313: characters that the node sent last of a management train, or of a break report; reset empty -/
  tx : List PChar
  deriving DecidableEq, Repr

/-- A chain port (Tables 13-11 to 13-19). -/
structure ChPort where
  /-- [1] Table 13-11: EN; reset 0 -/
  en : Bool
  /-- [1] Table 13-11: DUAL; reset 0 -/
  dual : Bool
  /-- R23: tick of the latest user's write of the port's buffer, and the words written in it as they stood before: word, data,
  syndrome; reset empty (MODEL) -/
  undo : Nat × List (Nat × Nat × Nat)
  /-- [8] Table 13-11: TMO; reset 0 -/
  tmo : Nat
  /-- [6] Table 13-11: NEXP; reset 0 -/
  nexp : Nat
  /-- [1] Table 13-12: BRK; reset 0 -/
  brk : Bool
  /-- [1] Table 13-12: CRCE; reset 0 -/
  crce : Bool
  /-- [1] Table 13-12: REFU; reset 0 -/
  refu : Bool
  /-- [1] Table 13-12: EVP; reset 0 -/
  evp : Bool
  /-- [1] Table 13-12: SYNC; reset 0 -/
  sync : Bool
  /-- [6] Table 13-12: NODES; reset 0 -/
  nodes : Nat
  /-- [3] Table 13-12: STATE; reset 0 -/
  st : Nat
  /-- [6] Table 13-13: LOCB; reset 0x3F -/
  locb : Nat
  /-- [6] Table 13-13: LOCA; reset 0x3F -/
  loca : Nat
  /-- [8] Table 13-14: LAUNCHED; reset 0 -/
  launched : Nat
  /-- [8] Table 13-14: DONE; reset 0 -/
  done : Nat
  /-- [16] Table 13-15: REFUSED; reset 0 -/
  refused : Nat
  /-- [16] Table 13-15: SLOTERR; reset 0 -/
  sloterr : Nat
  /-- [32] Table 13-16: CHP_SLOTMAP; reset 0 -/
  slotmap : Word
  /-- [16] Table 13-17: CHP_LOOP; reset 0 -/
  loop : Nat
  /-- [16] Table 13-18: descriptors; reset 0 -/
  descs : Tbl Desc
  /-- [32] Table 13-19: node table: PRESENT, DUAL, LAT, HWREV, VENDOR as one word; reset 0 -/
  ntab : Tbl Word
  /-- R311, R355: identity records of the nodes at the latest enumeration; reset empty -/
  idents : Tbl (List Byte)
  /-- R313: train in flight (BUSY); reset none -/
  train : Option Train
  /-- [1+6] R20: owner; reset none -/
  owner : Option Nat
  /-- R314: tick since which RX has held sync; reset none -/
  syncAt : Option Nat
  /-- R314: a train has ended by EOT on this port's ring since the break; reset 0 -/
  eotOk : Bool
  /-- R314, R317: this port's ring is in BREAK; reset 0 -/
  broken : Bool
  /-- R435: DUAL as the latest enumeration of the port took it; reset 0 -/
  dualNow : Bool
  /-- R296: characters of the train that are on this port's ring now, as its TX or the latest node sent them; reset empty -/
  wire : List PChar
  /-- R301, R317: the train's copy on this port's ring as received, once it has ended; reset none -/
  rxd : Option (List PChar)
  deriving DecidableEq, Repr

/-- An Ethernet queue (Table 14-7). -/
structure Queue where
  /-- [1] Table 14-7: Q_CFG.EN; reset 0 -/
  en : Bool
  /-- [1+6] Table 14-7: OWNER, owned since ASSIGN; reset 0 -/
  owner : Option Nat
  /-- [7] Table 14-7: NPAGE; reset 0 -/
  npage : Nat
  /-- [7] Table 14-7: PAGE; reset 0 -/
  page : Nat
  /-- [8] Table 14-7: Q_HEAD; reset 0 -/
  head : Nat
  /-- [8] Table 14-7: Q_TAIL; reset 0 -/
  tail : Nat
  /-- [16] Table 14-7: Q_CNT.DROP; reset 0 -/
  drop : Nat
  /-- R321: frames that the queue holds, which HEAD = TAIL does not tell in a full ring from an empty one (log 17); reset 0 (MODEL) -/
  held : Nat
  deriving DecidableEq, Repr

/-- An Ethernet port (Table 14-7). -/
structure Eth where
  /-- [1] Table 14-7: EN; reset 0 -/
  en : Bool
  /-- [2] Table 14-7: MODE; reset 0 -/
  mode : Nat
  /-- [2] Table 14-7: RED; reset 0 -/
  red : Nat
  /-- [16] Table 14-7: BAD; reset 0 -/
  bad : Nat
  /-- [16] Table 14-7: NOMATCH; reset 0 -/
  nomatch_ : Nat
  /-- [16] Table 14-7: egress delay; reset 0 -/
  egress : Nat
  /-- [16] Table 14-7: ingress delay; reset 0 -/
  ingress : Nat
  /-- [16] R321: receive queues 0 to 15 -/
  rxq : Tbl Queue
  /-- [8] R321: transmit queues 0 to 7 -/
  txq : Tbl Queue
  /-- [1] R320: link up; reset 0 -/
  link : Bool
  /-- R323: frame last sent, as it left the port; reset empty (MODEL) -/
  sent : List Byte
  /-- R265, R323: the last frame left with its FCS inverted; reset 0 (MODEL) -/
  sentBad : Bool
  /-- [16] R327: sequence number of the pair; reset DESIGN CHOICE 0 (log 6) -/
  pairSeq : Nat
  /-- R327: duplicate table of the pair, oldest first: source and sequence; reset empty -/
  dups : List (BitVec 48 × BitVec 16)
  /-- R327: frame last forwarded in HSR mode (MODEL); reset empty -/
  fwd : List Byte
  /-- R327: source and sequence of frames that the pair has originated, oldest first; reset empty -/
  mine : List (BitVec 48 × BitVec 16)
  /-- R327: source and sequence of frames that the pair has forwarded, oldest first; reset empty -/
  fwdSeen : List (BitVec 48 × BitVec 16)
  /-- R327: later copies that the pair has dropped; no register shows the count; reset 0 -/
  dupDrops : Nat
  deriving DecidableEq, Repr

/-- The device clock (R326). -/
structure Ptp where
  /-- [48] R326: seconds; reset 0 -/
  sec : Nat
  /-- [30] R326: nanoseconds; reset 0 -/
  ns : Nat
  /-- R326: fraction of a nanosecond, units 2^-32 ns; reset 0 -/
  frac : Nat
  /-- [32] Table 14-7: PTP_ADJ; reset 0 -/
  adj : Word
  /-- [1] Table 14-7: SYNCED; reset 0 -/
  synced : Bool
  /-- [1+6] R352: owner of the clock; reset none -/
  owner : Option Nat
  /-- R326: engine-tick phase against the 125 MHz edges, 0 to 63; reset 0 (MODEL) -/
  phase : Nat
  /-- R326: signed step waiting for the next 8 ns edge, ns; reset 0 -/
  step : Int
  deriving DecidableEq, Repr

/-- A station-ring mailbox (Table 14-8). -/
structure Mbox where
  /-- [1] Table 14-8: EN; reset 0 -/
  en : Bool
  /-- [1+6] Table 14-8: OWNER; reset none -/
  owner : Option Nat
  /-- [6] Table 14-8: PEER; reset 0 -/
  peer : Nat
  /-- [4] Table 14-8: PEER mailbox; reset 0 -/
  peerMb : Nat
  /-- [7] Table 14-8: PAGE; reset 0 -/
  page : Nat
  /-- [1] Table 14-8: BUSY; reset 0 -/
  busy : Bool
  /-- [3] Table 14-8: RESULT; reset 0 -/
  result : Nat
  /-- [3] Table 14-8: IHEAD; reset 0 -/
  ihead : Nat
  /-- [7] R332: inbound slots filled and not freed; reset 0 -/
  full : BitVec 7
  /-- [8] R332: SEQ of the latest message sent; reset 0 -/
  seq : Nat
  /-- R332: the latest 128 SEQs taken from each source and source mailbox, key src * 16 + mailbox, for duplicates (log 18); reset
  none -/
  taken : Tbl (List Nat)
  /-- R332: message last sent; reset empty (MODEL) -/
  sent : List Byte
  deriving DecidableEq, Repr

/-- The station ring (Table 14-8). -/
structure SRing where
  /-- [1] Table 14-8: BRKA; reset 0 -/
  brka : Bool
  /-- [1] Table 14-8: BRKB; reset 0 -/
  brkb : Bool
  /-- [6] Table 14-8: ADDR; reset 0x3F -/
  addr : Nat
  /-- [7] Table 14-8: COUNT; reset 0 -/
  count : Nat
  /-- [3] Table 14-8: STATE; reset 0 -/
  st : Nat
  /-- [16] Table 14-8: CRCE; reset 0 -/
  crce : Nat
  /-- [16 x (1+6+4)] Table 14-8: SR_MIN: EN, SRC, LINE; reset 0 -/
  min : Tbl (Bool × Nat × Nat)
  /-- [16] R332: MB0 to MB15 -/
  mbs : Tbl Mbox
  /-- [1] R329: SRMASTER as sampled; reset DESIGN CHOICE 0 (log 6; strap pull-down R418) -/
  master : Bool
  /-- [6] R329: SRADDR as sampled; reset DESIGN CHOICE 0 (log 6; strap pull-down R418) -/
  strap : Nat
  /-- R331: SEQ of each outbound mirror line; reset 0 -/
  mseq : Tbl Nat
  /-- R331: the latest 128 SEQs seen of each source and line, key src * 16 + line (log 18); reset none -/
  mseen : Tbl (List Nat)
  /-- R330: frames that this device has put on the ring and not yet stripped; reset empty (MODEL) -/
  out : List RingFrame
  /-- R330: characters of the latest frame that this device has put on the ring, K-codes marked; reset empty (MODEL) -/
  tx : List (Bool × Byte)
  /-- R328, R330: direction, B when true, and latest frame forwarded; reset none (MODEL) -/
  fwd : Option (Bool × RingFrame)
  /-- R329: SEQ of the ENUM that this device has sent; reset 0 (MODEL, log 18) -/
  enumSeq : Nat
  /-- R329: a supervision frame came while the device waited for its address; reset 0 (MODEL, log 18) -/
  heard : Bool
  /-- R329, Table 14-3: one of those frames carried the address of this device's strap; reset 0 (MODEL, log 18) -/
  strapSeen : Bool
  /-- R330, R358: addresses of other devices whose frames have come; reset none (MODEL, log 18) -/
  peers : List Nat
  /-- R330: supervision frames sent (MODEL); reset 0 -/
  supers : Nat
  deriving DecidableEq, Repr

/-- A GP pin (Tables 19-11, 19-12). -/
structure GpPin where
  /-- [2] Table 19-11: SAFE; reset 0b10 -/
  safe : Nat
  /-- [2] Table 19-11: DRV; reset 0b01 -/
  drv : Nat
  /-- [2] Table 19-11: PULL; reset 0b00 -/
  pull : Nat
  /-- [2] Table 19-11: EDGE; reset 0b00 -/
  edge : BitVec 2
  /-- [4] Table 19-11: FILT; reset 0 -/
  filt : Nat
  /-- [3] Table 19-11: SRC; reset 0b000, GP95 0b100 -/
  src : Nat
  /-- [1] Table 19-12: IN; reset 0 -/
  inp : Bool
  /-- [1] Table 19-12: OUT; reset 0 -/
  out : Bool
  /-- [1+6] R352: owner; reset none -/
  owner : Option Nat
  /-- R229: tick of the latest AST action, the level before that tick, and its actions: entry index and ACT; reset none -/
  acts : Option (Nat × Bool × List (Nat × Nat))
  /-- R426, R198: tick at which the latest change of the sampled level counts as an edge, FILT ticks after it; reset none -/
  edgeAt : Option Nat
  /-- R43, R426: tick of the owner's latest write of OUT, whose level stands in that tick; reset none (MODEL) -/
  swAt : Option Nat
  deriving DecidableEq, Repr

/-- One FCU source's own state (Table 17-5). -/
structure FcuSrc where
  /-- [1] Table 17-5: sticky bit; reset 0 -/
  sticky : Bool
  /-- [8] Table 17-5: COUNT; reset 0 -/
  count : Nat
  /-- [5] R372: mask, none where it stands at the value of R372; reset none -/
  mask : Option (BitVec 5)
  deriving DecidableEq, Repr

/-- A fault-log record (Table 17-4). -/
structure LogRec where
  num : Nat
  time : Nat
  source : Nat
  cls : Nat
  react : BitVec 5
  target : Nat
  count : Nat
  flags : Nat
  deriving DecidableEq, Repr

/-- What Cairn logs beside the records of Table 17-4 (R185, R194): no spare for a col of a massif, or the word at which MBIST of
a core failed (log 40). -/
inductive LogNote where
  | noSpare (massif : Nat)
  | mbistFail (core : Nat) (word : Word)
  deriving DecidableEq, Repr

/-- The FCU (Table 17-5). -/
structure Fcu where
  /-- [4,096] R369: sources -/
  srcs : Tbl FcuSrc
  /-- [1] Table 17-5: FATAL; reset 0 -/
  fatal : Bool
  /-- [4] Table 17-5: CRSTCNT; reset 0 -/
  crstcnt : Nat
  /-- R377: ticks at which the counted chip resets started, latest first; reset empty -/
  crstAt : List Nat
  /-- [1+12] Table 17-5: FCU_FIRST; reset none -/
  first : Option Nat
  /-- [1+12] Table 17-5: FCU_LAST; reset none -/
  last : Option Nat
  /-- [1] Table 17-5: FCU_INJ.ARM; reset 0 -/
  injArm : Bool
  /-- [1] Table 17-5: HIT; reset 0 -/
  injHit : Bool
  /-- [1] Table 17-5: MODE; reset 0 -/
  injMode : Bool
  /-- [12] Table 17-5: SOURCE; reset 0 -/
  injSrc : Nat
  /-- R384: job whose CHECKER_TEST armed the injection that waits; reset none -/
  injAt : Option Nat
  /-- R384: CHECKER_TEST jobs: tick of arming and, once HIT is set, the ticks from arming to it; reset none -/
  injJobs : Tbl (Nat × Option Nat)
  /-- R373: a CRST reaction waits for the chip reset; reset 0 -/
  crstDue : Bool
  /-- R409: the chip reset that waits is that of Cairn's watchdog; reset 0 -/
  crstCairn : Bool
  /-- [1] R379: level of ALIVE; reset DESIGN CHOICE 0 (log 6; low through the pull-down, Table 19-7) -/
  alive : Bool
  /-- [1] R379: keep-alive arrived within the last 10 ms; reset 0 -/
  keep : Bool
  /-- R406: fault-log records pending, oldest first; reset empty -/
  pendLog : List LogRec
  /-- R385: number of the next record; reset DESIGN CHOICE 0 (log 6), kept in flash -/
  logNum : Nat
  /-- R185, R194: notes logged, oldest first; reset empty -/
  notes : List LogNote
  deriving DecidableEq, Repr

/-- A Jikar session (R341 to R345). -/
structure Session where
  sid : BitVec 32
  /-- [1] open, else confirming. -/
  open_ : Bool
  cred : Word
  /-- 0 OBSERVER to 3 CUSTODIAN. -/
  role : Nat
  /-- Kc, Kd, Sc, Sd of R342: 72 bytes. -/
  keys : List Byte
  /-- R344: H. -/
  h : Nat
  /-- R344: SEQ values accepted in the window, as bits of H - i. -/
  win : BitVec 64
  /-- R343: SEQ of the device's next packet. -/
  dseq : Nat
  /-- R344: last 8 replies: CSEQ and packet, latest first. -/
  kept : List (Nat × List Byte)
  /-- R348: origin of the latest accepted packet. -/
  via : Transport
  deriving DecidableEq, Repr

/-- What a job does when it ends (R349). -/
inductive JobWork where
  | form (ridge kind c0 c1 c2 attr policy slot : Byte) (start : Word)
  | dissolve (ridge : Byte)
  | reload (ridge slot : Byte) (start : Word)
  | imgEnd (slot : Byte)
  | imgErase (slot : Byte)
  | astCommit (dom x : Nat) (added : List Nat) (narrowed : List (Nat × AstLink))
  | chpEnum (port learn : Byte)
  | checkerTest (source : Nat)
  | coreTest (core : Byte)
  | fwEnd
  | fwActivate
  | lcAdvance (target : Byte)
  | vaultWipe
  deriving DecidableEq, Repr

/-- A job, running or finished (R348, R349). -/
structure Job where
  num : Nat
  session : BitVec 32
  opcode : Nat
  cseq : Nat
  work : JobWork
  /-- Finished with this STATUS. -/
  status : Option Nat
  /-- R349: aborted by a halt or dissolution. -/
  aborted : Bool
  /-- R349: percent done that JOB_STATUS last reported while the job runs; below 100. -/
  pct : Nat
  deriving DecidableEq, Repr

/-- Cairn's Jikar side (15). -/
structure Cairn where
  /-- [32] R340: command queue, oldest first; reset empty -/
  queue : List Packet
  /-- [8] R345: sessions; reset empty -/
  sessions : List Session
  /-- [16] R341: MALFORMED; reset 0 -/
  malformed : Nat
  /-- [16] R341: AUTHFAIL; reset 0 -/
  authfail : Nat
  /-- [16] R344: REPLAY; reset 0 -/
  replay : Nat
  /-- [16] R340: DROPPED; reset 0 -/
  dropped : Nat
  /-- [8] R349: running jobs; reset empty -/
  jobs : List Job
  /-- [16] R349: finished jobs, latest first; reset empty -/
  finished : List Job
  /-- R348: number of the next job; reset DESIGN CHOICE 0 (log 6) -/
  nextJob : Nat
  /-- R339: fragments of ring packets by source address; reset empty -/
  frags : Tbl (List Byte)
  /-- R339: index expected next from each source; reset 0 -/
  fragIdx : Tbl Nat
  /-- R337, R339: replies sent on Ethernet and the ring, latest first (MODEL: what leaves the device); reset empty -/
  outbox : List (Transport × List Byte)
  /-- R353: image slot open: slot, PM length, DM length, digest, session, bytes received by offset; reset none -/
  img : Option (Nat × Nat × Nat × BitVec 384 × BitVec 32)
  /-- R353: data of the open slot; reset empty -/
  imgBuf : Tbl (List Byte)
  /-- R359: firmware upload: length and digest; reset none -/
  fw : Option (Nat × BitVec 384)
  /-- R359: firmware data by offset; reset empty -/
  fwBuf : Tbl (List Byte)
  /-- R359: an FW_ACTIVATE waits for the swap; reset 0 -/
  fwSwap : Bool
  /-- R409: tick of the latest swap, image epoch to raise; reset none -/
  swapAt : Option Nat
  /-- R358: inner packets forwarded and unanswered: ring address, origin; reset empty -/
  fwds : List (Nat × Origin)
  /-- R21: Cairn is halted (end of the brown-out flush); reset 0 -/
  halted : Bool
  /-- R391: start-up complete; reset 0 -/
  ready : Bool
  /-- R389: in recovery; reset 0 -/
  recovery : Bool
  deriving DecidableEq, Repr

/-- Host port (R333, R334). -/
structure HostPort where
  /-- R334: inbound packet; reset none -/
  inp : Option (List Byte)
  /-- [4] R334: replies waiting, oldest first; reset empty -/
  replies : List (List Byte)
  /-- [1] Table 14-6: ERR; reset 0 -/
  err : Bool
  /-- R333: bytes the port answered to the latest read command (MODEL); reset empty -/
  out : List Byte
  deriving DecidableEq, Repr

/-- A ridge image slot in flash (R353). -/
structure Image where
  pm : List Byte
  dm : List Byte
  digest : BitVec 384
  deriving DecidableEq, Repr

/-- A firmware image in flash (R390). -/
structure Firmware where
  bytes : List Byte
  version : Word
  epoch : Nat
  deriving DecidableEq, Repr

/-- The board record (Table 18-2). -/
structure Board where
  huK : Nat
  huC : Nat
  huVmin : Nat
  huEta : Nat
  bistEn : Bool
  huPboard : Nat
  huEtrans : Nat
  huPflash : Nat
  deriving DecidableEq, Repr

/-- Settings of an Ethernet port in the journal: EN, MODE, RED (Table 14-7), egress and ingress delay (R329, R391). -/
structure EthCfg where
  en : Bool
  mode : Nat
  red : Nat
  egress : Nat
  ingress : Nat
  deriving DecidableEq, Repr

/-- Settings of an Ethernet queue in the journal: EN, NPAGE, PAGE (Table 14-7, R391). -/
structure QueueCfg where
  en : Bool
  npage : Nat
  page : Nat
  deriving DecidableEq, Repr

/-- Settings of a GP pin in the journal: SAFE, DRV, PULL, EDGE, FILT, SRC (Table 19-11, R391). -/
structure GpCfg where
  safe : Nat
  drv : Nat
  pull : Nat
  edge : Nat
  filt : Nat
  src : Nat
  deriving DecidableEq, Repr

/-- What a flash's SFDP table gives (R387): t_PP in microseconds, the read, program and erase commands, 4-byte addressing. -/
structure Sfdp where
  tpp : Nat
  readOp : Byte
  progOp : Byte
  eraseOp : Byte
  addr4 : Bool
  deriving DecidableEq, Repr

/-- What a journal record changes (R348, R405): the journaled command without its sender. -/
inductive JRec where
  | form (ridge kind c0 c1 c2 attr policy slot : Byte) (start : Word)
  | release (ridge : Byte)
  | halt (ridge : Byte)
  | dissolve (ridge : Byte)
  | policy (ridge policy : Byte)
  | reload (ridge slot : Byte) (start : Word)
  | assign (kind : Byte) (index : BitVec 16) (ridge : Byte)
  | memRegion (massif region : Byte) (cfg rdlo rdhi wrlo wrhi : Word)
  | memBankown (massif bank en ridge : Byte)
  | adConfig (domain : Byte) (words : List Word)
  | adOffset (domain : Byte) (off : BitVec 24)
  | astBatch (domain x : Nat) (recs : List AstRec)
  | chConfig (ch : Byte) (cfg cons : Word)
  | chRow (ch : Byte) (row : BitVec 512)
  | chpConfig (port : Byte) (cfg : Word) (descs : List Word)
  | fcuReact (source : BitVec 16) (mask : Byte)
  | rotConfig (massif en pairs : Byte) (stepMs : BitVec 16)
  | colConfig (massif prio delay : Byte)
  | srMirror (k src line en : Byte)
  | srMailbox (mb owner peer peerMb page : Byte)
  | lcAdvance (target : Byte) (serial : BitVec 64)
  | other (opcode : Nat)   -- a change whose data lie in a field of their own below: images, vault, firmware, identities, OTP
  deriving DecidableEq, Repr

/-- A journal record in the flashes (R405). The bytes of its header, data pages and marker are not given (log 7). -/
structure JEntry where
  /-- [32] Sequence number of header and marker. -/
  seq : Nat
  recs : List JRec
  /-- The CRC-32C of header and marker fits the data. -/
  crcOk : Bool
  /-- Flash A holds the record with its marker. -/
  onA : Bool
  /-- Flash B holds the record with its marker. -/
  onB : Bool
  deriving DecidableEq, Repr

/-- External flash and OTP: what survives every reset (R387, R395). -/
structure Nvm where
  /-- [2] R395: lifecycle state in OTP, 0 BLANK to 3 RETIRED; not cleared by any reset; reset DESIGN CHOICE 0 BLANK (log 7) -/
  lc : Nat
  /-- [7] R399: TEPOCH, programmed bits; reset DESIGN CHOICE 0 (log 7) -/
  tepoch : Nat
  /-- R390: FW_EPOCH in OTP; reset DESIGN CHOICE 0 (log 7) -/
  fwEpoch : Nat
  /-- [64] R391: serial in OTP; reset DESIGN CHOICE 0 (log 7) -/
  serial : BitVec 64
  /-- [32 x 8] R388: bytes at the board record's place in flash A; reset DESIGN CHOICE empty (log 7) -/
  boardA : List Byte
  /-- [32 x 8] R388: bytes at the board record's place in flash B; reset DESIGN CHOICE empty (log 7) -/
  boardB : List Byte
  /-- R387: SFDP table of flash A, none where the flash is absent; reset DESIGN CHOICE t_PP 2,000 (log 7) -/
  sfdpA : Option Sfdp
  /-- R387: SFDP table of flash B; reset DESIGN CHOICE as flash A (log 7) -/
  sfdpB : Option Sfdp
  /-- R353: image slots; reset DESIGN CHOICE empty (log 7) -/
  images : Tbl (Option Image)
  /-- R405: journal: records with a marker, oldest first; reset DESIGN CHOICE empty (log 7) -/
  journal : List JEntry
  /-- [1] Table 18-1, R405: area Y, not X, is the current journal area; reset DESIGN CHOICE 0 (log 7) -/
  jareaY : Bool
  /-- R405: pages of 256 bytes used in the current journal area; reset DESIGN CHOICE 0 (log 7) -/
  jused : Nat
  /-- [1] Table 18-1, R398: half of the sealed store in use; reset DESIGN CHOICE 0 (log 7) -/
  sealHalf : Nat
  /-- R385: fault log committed; reset DESIGN CHOICE empty (log 7) -/
  log : List LogRec
  /-- R346, R398: credential table of the identity part: id, role, key; reset DESIGN CHOICE empty (log 7) -/
  creds : List (Word × Nat × List Byte)
  /-- R398: identity part present and opens; reset DESIGN CHOICE 0 (log 7) -/
  identity : Bool
  /-- R398: secrets part: key slots; reset DESIGN CHOICE empty (log 7) -/
  keys : Tbl (List Byte)
  /-- R398: lifecycle state and TEPOCH the secrets part is sealed to; reset none (log 7) -/
  keySeal : Option (Nat × Nat)
  /-- Table 18-1: firmware slots 0 and 1 of flash A; reset DESIGN CHOICE none (log 7) -/
  fwA : Option Firmware × Option Firmware
  /-- Table 18-1: firmware slots 0 and 1 of flash B, which mirrors them; reset DESIGN CHOICE none (log 7) -/
  fwB : Option Firmware × Option Firmware
  /-- [1] R390, R409: slot 1, not slot 0, is the active one; reset DESIGN CHOICE 0 (log 7) -/
  fwRole : Bool
  /-- R355, R311: identities of chain nodes in the journal: key port * 32 + node; reset DESIGN CHOICE empty (log 7) -/
  chainIds : Tbl (List Byte)
  /-- R405: the next marker write fails in flash A; reset DESIGN CHOICE working (log 7) -/
  badA : Bool
  /-- R405: the next marker write fails in flash B; reset DESIGN CHOICE working (log 7) -/
  badB : Bool
  /-- [32] R405: sequence number of the latest journal record; reset DESIGN CHOICE 0 (log 7) -/
  jnum : Nat
  /-- [256 x 128] R324: classifier rules of the journal; reset DESIGN CHOICE empty (log 7) -/
  rules : Tbl (Word × Word × Word × Word)
  /-- [4] Table 14-7, R391: Ethernet ports of the journal: EN, MODE, RED, egress, ingress; reset DESIGN CHOICE empty (log 7) -/
  ethCfg : Tbl EthCfg
  /-- Table 14-7, R391: queues of the journal, key port * 32 + queue: EN, NPAGE, PAGE; reset DESIGN CHOICE empty (log 7) -/
  queueCfg : Tbl QueueCfg
  /-- [32] R339: the device's IPv4 address; reset DESIGN CHOICE 0 (log 7) -/
  ip : BitVec 32
  /-- [16] R324, R339: Jikar's UDP port; reset 47810 -/
  jport : Nat
  /-- Table 19-11, R391: GP pins of the journal: SAFE, DRV, PULL, EDGE, FILT, SRC; reset DESIGN CHOICE empty (log 7) -/
  gpCfg : Tbl GpCfg
  /-- R231, R241: AST entries as the journal held them at the latest reset; reset DESIGN CHOICE empty (log 7) -/
  astLinks : Tbl AstLink
  /-- R406: number of fault-log records lost at the latest brown-out; reset DESIGN CHOICE 0 (log 7) -/
  lost : Nat
  deriving DecidableEq, Repr

/-- Power states (R402), with OFF and the chip-reset phase before start-up ends. -/
inductive PState where
  | run | standby | brownout | off
  deriving DecidableEq, Repr

/-- Power, hold-up and lifecycle status (Table 18-10). -/
structure Pwr where
  /-- [2] Table 18-10: PSTATE; reset 0b01 STANDBY -/
  st : PState
  /-- [1] Table 18-10: SCANEN; reset 0 -/
  scanen : Bool
  /-- [1] Table 18-10: WIPEBUSY; reset 0 -/
  wipeBusy : Bool
  /-- [1] Table 18-10: WIPED; reset 0 -/
  wiped : Bool
  /-- [1] Table 18-10: PFAIL; reset 0 -/
  pfail : Bool
  /-- [1] Table 18-10: TAMP1; reset 0 -/
  tamp1 : Bool
  /-- [1] Table 18-10: TAMP0; reset 0 -/
  tamp0 : Bool
  /-- [1] Table 18-10: BRDOK; reset 0 -/
  brdok : Bool
  /-- [12] Table 18-10: HU_SENSE; reset 0 -/
  code : Nat
  /-- [32] Table 18-10: HU_EAVAIL; reset 0 -/
  eavail : Nat
  /-- [32] Table 18-10: HU_ERES; reset 0 -/
  eres : Nat
  /-- [32] Table 18-10: HU_ECOMMIT; reset 0 -/
  ecommit : Nat
  /-- [2] Table 18-10: FLASHA; reset 0 -/
  flashA : Nat
  /-- [2] Table 18-10: FLASHB; reset 0 -/
  flashB : Nat
  /-- [16] Table 18-10: REFUSED; reset 0 -/
  refused : Nat
  /-- [32] Table 18-10: NVM_JSEQ; reset 0 -/
  jseq : Nat
  /-- [32] Table 18-10: FW_VER; reset 0 -/
  fwVer : Word
  /-- R399: pending tamper in the always-on domain; reset 0 -/
  tamperPend : Bool
  /-- R400: a wipe is due at the next wake; reset 0 -/
  wipeDue : Bool
  /-- R400: what follows the wipe in progress or due: bit 0 SCANEN, bit 1 the end of a tamper wipe; reset 0 -/
  wipeThen : Nat
  /-- [12] R407: code of the level now at HOLDUP_SENSE (MODEL: it lies outside the device); reset DESIGN CHOICE 0 (log 6) -/
  sense : Nat
  /-- R402, R407: ticks of the latest 101 samples of 1 ms in this power state, and whether E_avail was at least E_run; reset none -/
  samples : List (Nat × Bool)
  /-- R406: tick at which a fault-log batch that failed its check is tried again; reset none -/
  logRetry : Option Nat
  /-- R398, R400: the vault holds the identity part, with it the credential table; reset 0 -/
  vaultId : Bool
  /-- R399, R400: keys that VAULT_KEY has written during a wipe, which go into the vault after it; reset none -/
  lateKeys : Tbl (List Byte)
  /-- R403: the flush of brown-out entry has ended; reset 0 -/
  flushed : Bool
  /-- [2] R389: BOOTSEL as sampled; reset DESIGN CHOICE 0 (log 6; strap pull-down R418) -/
  bootsel : Nat
  /-- [1] R416: VRET level at GP95; reset 0 -/
  vret : Bool
  /-- R416: tick of the latest change of VRET, from which the VDDM monitor waits 100 µs; reset none -/
  vretAt : Option Nat
  /-- R269: class B memory has been written since POR; reset 0 -/
  classB : Bool
  deriving DecidableEq, Repr

/-- The ECC block (Table 11-8). -/
structure Ecc where
  /-- [1+8+20] Table 11-8: ECC_LAST_CE: MEM, WORD; reset none -/
  lastCe : Option (Nat × Nat)
  /-- [1+8+20] Table 11-8: ECC_LAST_UE; reset none -/
  lastUe : Option (Nat × Nat)
  /-- [8] Table 11-8: ECC_TADDR.MEM; reset 0 -/
  tMem : Nat
  /-- [20] Table 11-8: ECC_TADDR.WORD; reset 0 -/
  tWord : Nat
  /-- [64] Table 11-8: ECC_TD1, ECC_TD0; reset 0 -/
  td : BitVec 64
  /-- [2] Table 11-8: RESULT; reset 0 -/
  result : Nat
  /-- [8] Table 11-8: SYN; reset 0 -/
  syn : Byte
  /-- [8] Table 11-8: CHK; reset 0 -/
  chk : Byte
  /-- [1] Table 11-8: ECC_TCMD.BUSY; reset 0 -/
  busy : Bool
  /-- [2] Table 11-8: OP; reset 0 -/
  op : Nat
  /-- [1] Table 11-8: ECC_INJ.ARM; reset 0 -/
  injArm : Bool
  /-- [1] Table 11-8: ENB; reset 0 -/
  injEnb : Bool
  /-- [1] Table 11-8: ENA; reset 0 -/
  injEna : Bool
  /-- [8] Table 11-8: ECC_INJ.MEM; reset 0 -/
  injMem : Nat
  /-- [20] Table 11-8: ECC_INJ.WORD; reset 0 -/
  injWord : Nat
  /-- [7] Table 11-8: BITB; reset 0 -/
  injB : Nat
  /-- [7] Table 11-8: BITA; reset 0 -/
  injA : Nat
  /-- R356: origin to which the test port's result goes; reset none -/
  origin : Option Origin
  deriving DecidableEq, Repr

/-- Temperature and voltage monitors (Table 19-13). -/
structure Mon where
  /-- [8 x (1+16)] Table 19-13: TEMP0 to TEMP7, VALID and value; reset 0 -/
  temps : Tbl (Option (BitVec 16))
  /-- [6 x (1+16)] Table 19-13: VMON0 to VMON5; reset 0 -/
  volts : Tbl (Option (BitVec 16))
  deriving DecidableEq, Repr

/-- The whole device. -/
structure State where
  /-- Commands waiting, first in first out; reset empty -/
  pending : List Instr
  /-- R195: engine ticks of 3.125 ns since POR (MODEL: the device's time); reset 0 -/
  tick : Nat
  /-- R283: engine tick of the latest chip reset, from which storm windows count; reset 0 -/
  winStart : Nat
  /-- MODEL: next free value to draw from Config; reset DESIGN CHOICE 0 (log 5) -/
  free : Nat
  /-- R243: bytes of every memory, key MEM * 2^23 + offset, canonical; unlisted bytes are 0 (log 8) -/
  mem : List Host.Cell
  /-- R259: syndrome (stored check bits XOR E(data)) of every ECC word, key MEM * 2^20 + word, canonical; unlisted 0 -/
  syn : List Host.Cell
  /-- [64] R145: cores C00 to C63 -/
  cores : Tbl Core
  /-- [64] 02, 03, 07, 16: ridge blocks -/
  ridges : Tbl Ridge
  /-- [4] R243, R251: massifs M0 to M3 -/
  massifs : Tbl Massif
  /-- [8] R195: angle domains AD0 to AD7 -/
  doms : Tbl Domain
  /-- R218: Angle Schedule Table -/
  ast : Ast
  /-- [32] R215: capture units -/
  caps : Tbl CapUnit
  /-- [16] R198: ANG_IN levels as sampled; reset DESIGN CHOICE 0 (log 6) -/
  angIn : BitVec 16
  /-- [137] Table 11-6: scrubbers -/
  scrubs : Tbl Scrub
  /-- Table 11-8: ECC block -/
  ecc : Ecc
  /-- [256] R277: event channels -/
  chans : Tbl Channel
  /-- [64] R292: chain ports -/
  ports : Tbl ChPort
  /-- R305: Penrid nodes, key port * 64 + position -/
  nodes : Tbl Node
  /-- [4] R320: Ethernet ports -/
  eths : Tbl Eth
  /-- [256 x 128] Table 14-2: classifier rules, four words each; reset DESIGN CHOICE 0 (log 6) -/
  rules : Tbl (Word × Word × Word × Word)
  /-- [128] R321: owners of Ethernet buffer pages; reset none -/
  pages : Tbl (Option Nat)
  /-- R326: device clock -/
  ptp : Ptp
  /-- R328: station ring -/
  ring : SRing
  /-- R333: host port -/
  host : HostPort
  /-- R369: FCU -/
  fcu : Fcu
  /-- [96] Table 19-11: GP pins -/
  gps : Tbl GpPin
  /-- Table 19-13: monitors -/
  mon : Mon
  /-- Table 18-10: power and lifecycle -/
  pwr : Pwr
  /-- R387, R395: flash and OTP -/
  nvm : Nvm
  /-- 15: Cairn and Jikar -/
  cairn : Cairn
  deriving DecidableEq, Repr

/-- Reset value of Acc: the values that its fields name. -/
def Acc.reset : Acc :=
  { re := 0, im := 0, p := false }

/-- Reset value of VReg: the values that its fields name. -/
def VReg.reset : VReg :=
  { v := 0, t := 0 }

/-- Reset value of Loops: the values that its fields name. -/
def Loops.reset : Loops :=
  { ls := [0, 0, 0, 0], le := [0, 0, 0, 0], lc := [0, 0, 0, 0], ld := 0 }

/-- Reset value of Core: the values that its fields name. -/
def Core.reset : Core :=
  { gr := [], pf := [], acc := [], vr := [], psw := 0, epc := 0, epsw := 0, ecause := 0, eval := 0, ivb := 0,
    etgt := 0, ls := [0, 0, 0, 0], le := [0, 0, 0, 0], lc := [0, 0, 0, 0], vl := 0, vinv := true, vew := 0,
    vstart := 0, vxrm := 1, vxsat := false, st := .free, ridge := 0, slot := 0, pc := 0, pend := none,
    retiPend := false, late := [], open_ := [], held := false, skip := none, wait := [], eSent := false, eDrop := [], aerr := none, testLoops := Loops.reset,
    endSel := none, fetched := [], refusals := [], merge := [], evicted := none, lbLoop := none, lbOn := false, lbuf := [],
    recs := [], landed := [], cycles := 0, bStatus := 0, bMfail := false, bSlices := 0, bQcount := 0, bPatcnt := 0,
    quars := 0, testFor := none, reserve := none, removeDue := false }

/-- Reset value of Wdt: the values that its fields name. -/
def Wdt.reset : Wdt :=
  { open_ := 0, period := 0, en := false, req := 0, reqLock := false, warn := false, early := false,
    repeat_ := false, rststg := false, miss := false, done := 0, n := 0, fresh := false, lastGood := false, lastDone := 0,
    failed := false, checkins := [] }

/-- Reset value of Ridge: the values that its fields name. -/
def Ridge.reset : Ridge :=
  { st := .free, kind := 0, massif := 0, degraded := false, commonq := false, haltcause := 0, rstcnt := 0,
    priv := false, secure := false, members := [(false, 0), (false, 0), (false, 0)], start := 0, outen := false,
    maxrst := 0, restart := false, voteValid := false, voteSrc := false, voteSlot := 0, voteAction := 0,
    voteCount := 0, evicts := 0, votePc := 0, aeValid := false, aeKind := 0, aeWrite := false, aeCount := 0,
    aeAddr := 0, fcuValid := false, fcuCount := 0, fcuSource := 0, icuEn := 0, icuPend := 0, icuPrio := [],
    taskCnt := [], tovf := 0, icuRoute := [], nmiPend := false, queue := [], flying := [], loads := [], image := 0,
    draining := false, dissolve := false, clearing := [], underTest := 0, testFailed := false, wdt := Wdt.reset }

/-- Reset value of Region: the values that its fields name. -/
def Region.reset : Region :=
  { en := false, limit := 0, base := 0, rd := 0, wr := 0 }

/-- Reset value of Dma: the values that its fields name. -/
def Dma.reset : Dma :=
  { src := 0, dst := 0, left := 0, cnt := 0, esize := 2, dstep := 0, sstep := 0, sbase := 0, slen := 0, dbase := 0,
    dlen := 0, busy := false, done := false, err := false, stopped := false, ovr := false, ekind := 0, eaddr := 0,
    owner := none, reads := [], toRead := 0, writes := [], stopReq := false, rstReq := false }

/-- Reset value of Massif: the values that its fields name. -/
def Massif.reset : Massif :=
  { regions := [], bankOwn := [], confCnt := [], confMax := [], dma := [], ports := [], rr := [], prioDelay := 0x0A,
    prio := 0, col := none, restarts := 0, dmRows := 0, pmRows := 0, colLast := 0, rotEn := false, rotPairs := false,
    rotStep := 0, rotLast := none, rotCore := none, rotPos := none, rotAgain := [] }

/-- Reset value of AdCfg: the values that its fields name. -/
def AdCfg.reset : AdCfg :=
  { en := false, fire := false, fv := false, src := 0, pin := 0, edge := 0, feeder := 0, kp := 1, ki := 4, filt := 0,
    evpc := 0, phase := 0, miss := 3, hold := 250, fnom := 0x00A7C5AC, tol := 0x028F, lockn := 8, win := 0x000800,
    acc := 0x040000, num := 50, den := 1 }

/-- Reset value of Domain: the values that its fields name. -/
def Domain.reset : Domain :=
  { phase := 0, heldWas := 0, cfg := AdCfg.reset, stg := AdCfg.reset, offset := 0, offStg := none, commitReq := false, estCyc := 0,
    stale := false, rev := false, clamp := false, st := .off, freq := 0, fb := 0, slew := 0, err := 0, rej := 0,
    missCnt := 0, evs := [], prevTs := none, adv := 0, run := 0, holds := 0, due := 0, dueTick := 0, turns := 0, back := 0, pos := 0,
    cur := [], rdBin := 0, hold := none, comps := [], fm := 0, fmEnts := [], fmWas := 0, fmTick := none, steps := [], resync := false, broken := false,
    late := false, skip := false, drop := false, peak := 0, lateCnt := 0, skipCnt := 0, dropCnt := 0, discCnt := 0,
    last := none }

/-- Reset value of Ast: the values that its fields name. -/
def Ast.reset : Ast :=
  { heads := [], links := [], waiting := [], busy := false, editDom := 0, result := 0, xcyc := 0, batch := none, tooFar := false,
    lines := [] }

/-- Reset value of CapUnit: the values that its fields name. -/
def CapUnit.reset : CapUnit :=
  { owner := none, pin := 0, trig := 0, domain := 0, angle := 0, valid := false, ovr := false, st := 0, cyc := 0,
    trigs := [], was := none, recTick := none, lost := none }

/-- Reset value of Scrub: the values that its fields name. -/
def Scrub.reset : Scrub :=
  { en := true, rate := 10, limit := 5000, lap := 0, laps := 0, poisoned := 0, next := 0, seen := 0, began := 0,
    last := none, overd := false, wb := none }

/-- Reset value of Channel: the values that its fields name. -/
def Channel.reset : Channel :=
  { owner := none, sec := false, automask := false, lim := 0x064, ckind := 0, param := 0, cindex := 0,
    merge := false, storm := false, masked := false, held := false, wcount := 0, win := 0, drops := 0, fires := 0, row := 0,
    waiting := [], start := none, refr := none, was := none, stormAt := none, clear := none }

/-- Reset value of Desc: the values that its fields name. -/
def Desc.reset : Desc :=
  { en := false, d := 0, u := 0, ubase := 0, dbase := 0, adly := 0, sdly := 0 }

/-- Reset value of Node: the values that its fields name. -/
def Node.reset : Node :=
  { st := .unaddressed, addr := 0, ident := List.replicate 32 0, conf := none, cmd := none, applySafe := false,
    armed := false, applied := none, safe := true, nrdy := false, fault := false, dscrd := false, sample := [],
    slot := [], filledA := false, filledB := false, resp := [], sync := false, syncB := false, syncAt := 0, syncAtB := 0, brk := false, brkB := false,
    cntOut := 0, cntB := none, tx := [] }

/-- Reset value of ChPort: the values that its fields name. -/
def ChPort.reset : ChPort :=
  { en := false, dual := false, undo := (0, []), tmo := 0, nexp := 0, brk := false, crce := false, refu := false, evp := false,
    sync := false, nodes := 0, st := 0, locb := 0x3F, loca := 0x3F, launched := 0, done := 0, refused := 0,
    sloterr := 0, slotmap := 0, loop := 0, descs := [], ntab := [], idents := [], train := none, owner := none,
    syncAt := none, eotOk := false, broken := false, dualNow := false, wire := [], rxd := none }

/-- Reset value of Queue: the values that its fields name. -/
def Queue.reset : Queue :=
  { en := false, owner := none, npage := 0, page := 0, head := 0, tail := 0, drop := 0, held := 0 }

/-- Reset value of Eth: the values that its fields name. -/
def Eth.reset : Eth :=
  { en := false, mode := 0, red := 0, bad := 0, nomatch_ := 0, egress := 0, ingress := 0, rxq := [], txq := [],
    link := false, sent := [], sentBad := false, pairSeq := 0, dups := [], fwd := [], mine := [], fwdSeen := [],
    dupDrops := 0 }

/-- Reset value of Ptp: the values that its fields name. -/
def Ptp.reset : Ptp :=
  { sec := 0, ns := 0, frac := 0, adj := 0, synced := false, owner := none, phase := 0, step := 0 }

/-- Reset value of Mbox: the values that its fields name. -/
def Mbox.reset : Mbox :=
  { en := false, owner := none, peer := 0, peerMb := 0, page := 0, busy := false, result := 0, ihead := 0, full := 0,
    seq := 0, taken := [], sent := [] }

/-- Reset value of SRing: the values that its fields name. -/
def SRing.reset : SRing :=
  { brka := false, brkb := false, addr := 0x3F, count := 0, st := 0, crce := 0, min := [], mbs := [],
    master := false, strap := 0, mseq := [], mseen := [], out := [], tx := [], fwd := none,
    enumSeq := 0, heard := false, strapSeen := false, peers := [], supers := 0 }

/-- Reset value of GpPin: the values that its fields name. -/
def GpPin.reset : GpPin :=
  { safe := 2, drv := 1, pull := 0, edge := 0, filt := 0, src := 0, inp := false, out := false, owner := none,
    acts := none, edgeAt := none, swAt := none }

/-- Reset value of FcuSrc: the values that its fields name. -/
def FcuSrc.reset : FcuSrc :=
  { sticky := false, count := 0, mask := none }

/-- Reset value of Fcu: the values that its fields name. -/
def Fcu.reset : Fcu :=
  { srcs := [], fatal := false, crstcnt := 0, crstAt := [], first := none, last := none, injArm := false,
    injHit := false, injMode := false, injSrc := 0, injAt := none, injJobs := [], crstDue := false, crstCairn := false,
    alive := false, keep := false, pendLog := [], logNum := 0, notes := [] }

/-- Reset value of Cairn: the values that its fields name. -/
def Cairn.reset : Cairn :=
  { queue := [], sessions := [], malformed := 0, authfail := 0, replay := 0, dropped := 0, jobs := [],
    finished := [], nextJob := 0, frags := [], fragIdx := [], outbox := [], img := none, imgBuf := [], fw := none,
    fwBuf := [], fwSwap := false, swapAt := none, fwds := [], halted := false, ready := false, recovery := false }

/-- Reset value of HostPort: the values that its fields name. -/
def HostPort.reset : HostPort :=
  { inp := none, replies := [], err := false, out := [] }

/-- The SFDP table that the flashes have where nothing else is said (log 7). -/
def Sfdp.reset : Sfdp := { tpp := 2000, readOp := 0x0B, progOp := 0x02, eraseOp := 0x20, addr4 := true }

/-- Reset value of Nvm: the values that its fields name. -/
def Nvm.reset : Nvm :=
  { lc := 0, tepoch := 0, fwEpoch := 0, serial := 0, boardA := [], boardB := [], sfdpA := some Sfdp.reset, sfdpB := some Sfdp.reset, images := [],
    journal := [], jareaY := false, jused := 0, sealHalf := 0,
    log := [], creds := [], identity := false, keys := [], keySeal := none, fwA := (none, none), fwB := (none, none),
    fwRole := false,
    chainIds := [], badA := false, badB := false, jnum := 0, rules := [], ethCfg := [], queueCfg := [], ip := 0,
    jport := 47810, gpCfg := [], astLinks := [], lost := 0 }

/-- Reset value of Pwr: the values that its fields name. -/
def Pwr.reset : Pwr :=
  { st := .standby, scanen := false, wipeBusy := false, wiped := false, pfail := false, tamp1 := false,
    tamp0 := false, brdok := false, code := 0, eavail := 0, eres := 0, ecommit := 0, flashA := 0, flashB := 0,
    refused := 0, jseq := 0, fwVer := 0, tamperPend := false, wipeDue := false, wipeThen := 0, sense := 0, samples := [],
    logRetry := none, vaultId := false, lateKeys := [], flushed := false, bootsel := 0, vret := false, vretAt := none, classB := false }

/-- Reset value of Ecc: the values that its fields name. -/
def Ecc.reset : Ecc :=
  { lastCe := none, lastUe := none, tMem := 0, tWord := 0, td := 0, result := 0, syn := 0, chk := 0, busy := false,
    op := 0, injArm := false, injEnb := false, injEna := false, injMem := 0, injWord := 0, injB := 0, injA := 0,
    origin := none }

/-- Reset value of Mon: the values that its fields name. -/
def Mon.reset : Mon :=
  { temps := [], volts := [] }

/-- The machine right after power-on reset, before START_UP (R394, R408): every table empty, so every instance at its own reset value; registers without a value of the spec hold 0 (log 6), flash and OTP are those of a blank device (log 7). -/
def State.reset : State :=
  { pending := [], tick := 0, winStart := 0, free := 0, mem := [], syn := [], cores := [], ridges := [],
    massifs := [], doms := [], ast := Ast.reset, caps := [], angIn := 0, scrubs := [], ecc := Ecc.reset, chans := [],
    ports := [], nodes := [], eths := [], rules := [], pages := [], ptp := Ptp.reset, ring := SRing.reset,
    host := HostPort.reset, fcu := Fcu.reset, gps := [(95, { GpPin.reset with src := 4 })], mon := Mon.reset,
    pwr := Pwr.reset, nvm := Nvm.reset, cairn := Cairn.reset }

/-- Why the device stops with a fault. -/
inductive Fault where
  /-- Raised by RANDOM_HARDWARE_FAULT in logic that no checker of Table 17-1 covers: the manual gives the flip no effect. Safe: the model stops. -/
  | logicFlip (source : Nat)
  deriving DecidableEq, Repr

/-- Why a command has no meaning. -/
inductive Refusal where
  /-- Raised by exec for a command that is not modelled yet. Safe: the model stops. -/
  | notModelled (mnemonic : String)
  deriving DecidableEq, Repr

end Sys2Proof.Machine
end

