-- ==== Sys2Proof/Machine/Tbl.lean ====
section
/-!
DEFINITION. Reading and writing the sparse tables that stand for a fixed number of like things, and small list and number
helpers that the meanings share.
-/

namespace Sys2Proof.Machine

/-- The thing numbered n, or d where the table does not name it. -/
def Tbl.get {α : Type} (d : α) : Tbl α → Nat → α
  | [], _ => d
  | (k, x) :: t, n => if k = n then x else Tbl.get d t n

/-- The table with thing n set to x. -/
def Tbl.set {α : Type} : Tbl α → Nat → α → Tbl α
  | [], n, x => [(n, x)]
  | (k, y) :: t, n, x => if k = n then (n, x) :: t else (k, y) :: Tbl.set t n x

/-- The table without thing n, which then is back at its reset value. -/
def Tbl.del {α : Type} (t : Tbl α) (n : Nat) : Tbl α := t.filter fun e => e.1 != n

/-- The thing numbered n, or none. -/
def Tbl.find {α : Type} (t : Tbl α) (n : Nat) : Option α := Tbl.get none (t.map fun e => (e.1, some e.2)) n

/-- l with its entry i replaced by x. -/
def setAt {α : Type} (l : List α) (i : Nat) (x : α) : List α := l.set i x

/-- Entry i of a list, or d. -/
def at_ {α : Type} (l : List α) (i : Nat) (d : α) : α := (l[i]?).getD d

/-- Counting up that saturates at the field's largest value (the manual's "saturates"). -/
def satInc (width n : Nat) : Nat := if n + 1 < 2 ^ width then n + 1 else 2 ^ width - 1

/-- Bits [hi:lo] of a natural number. -/
def bitsOf (x hi lo : Nat) : Nat := x / 2 ^ lo % 2 ^ (hi + 1 - lo)

/-- Bit i of a natural number. -/
def bitOf (x i : Nat) : Bool := x / 2 ^ i % 2 == 1

/-- A flag as a number. -/
def b2n (b : Bool) : Nat := if b then 1 else 0

/-- The word whose fields are given as (lowest bit, value), least significant first not required. -/
def packN (fs : List (Nat × Nat)) : Nat := fs.foldl (fun a f => a + f.2 * 2 ^ f.1) 0

/-- The same, as a 32-bit word. -/
def pack (fs : List (Nat × Nat)) : Word := BitVec.ofNat 32 (packN fs)

/-- Bytes of a number, least significant first (R7: memory is little-endian). -/
def bytesLE : Nat → Nat → List Byte
  | 0, _ => []
  | k + 1, x => BitVec.ofNat 8 x :: bytesLE k (x / 256)

/-- The number that bytes hold, least significant first. -/
def ofBytesLE : List Byte → Nat
  | [] => 0
  | b :: t => b.toNat + 256 * ofBytesLE t

/-- Bytes of a number, most significant first (R7: the wires). -/
def bytesBE (k x : Nat) : List Byte := (bytesLE k x).reverse

/-- The number that bytes hold, most significant first. -/
def ofBytesBE (l : List Byte) : Nat := ofBytesLE l.reverse

/-- Lowest n of 0 to k - 1 that passes, or none. -/
def firstBelow (k : Nat) (p : Nat → Bool) : Option Nat := (List.range k).find? p

/-- A signed value clamped to a signed width. -/
def satS (width : Nat) (x : Int) : Int :=
  max (-(2 ^ (width - 1) : Int)) (min ((2 ^ (width - 1) : Int) - 1) x)

end Sys2Proof.Machine
end

