-- ==== Sys2Proof/Machine/Access.lean ====
section
/-!
DEFINITION. Each instance of the device by its number: reading one and updating one, with the reset value where the table
does not name it.
-/

namespace Sys2Proof.Machine

/-- Core c. -/
def State.core (s : State) (c : Nat) : Core := Tbl.get Core.reset s.cores c

/-- Core c replaced. -/
def State.setCore (s : State) (c : Nat) (x : Core) : State := { s with cores := Tbl.set s.cores c x }

/-- Core c updated. -/
def State.updCore (s : State) (c : Nat) (f : Core → Core) : State := s.setCore c (f (s.core c))

/-- Ridge r. -/
def State.ridge (s : State) (r : Nat) : Ridge := Tbl.get Ridge.reset s.ridges r

/-- Ridge r replaced. -/
def State.setRidge (s : State) (r : Nat) (x : Ridge) : State := { s with ridges := Tbl.set s.ridges r x }

/-- Ridge r updated. -/
def State.updRidge (s : State) (r : Nat) (f : Ridge → Ridge) : State := s.setRidge r (f (s.ridge r))

/-- Watchdog of ridge r updated. -/
def State.updWdt (s : State) (r : Nat) (f : Wdt → Wdt) : State := s.updRidge r fun x => { x with wdt := f x.wdt }

/-- Massif m. -/
def State.massif (s : State) (m : Nat) : Massif := Tbl.get Massif.reset s.massifs m

/-- Massif m updated. -/
def State.updMassif (s : State) (m : Nat) (f : Massif → Massif) : State :=
  { s with massifs := Tbl.set s.massifs m (f (s.massif m)) }

/-- Owner of a bank: the RIDGE of MBANK_OWN where EN is set (R252). -/
def Massif.bankOwner (x : Massif) (b : Nat) : Option Nat :=
  let o := Tbl.get (false, 0) x.bankOwn b
  if o.1 then some o.2 else none

/-- DMA channel k of massif m, by its device-wide number 4m + k. -/
def State.dma (s : State) (ch : Nat) : Dma := Tbl.get Dma.reset (s.massif (ch / 4)).dma (ch % 4)

/-- DMA channel updated. -/
def State.updDma (s : State) (ch : Nat) (f : Dma → Dma) : State :=
  s.updMassif (ch / 4) fun m => { m with dma := Tbl.set m.dma (ch % 4) (f (Tbl.get Dma.reset m.dma (ch % 4))) }

/-- Angle domain d. -/
def State.dom (s : State) (d : Nat) : Domain := Tbl.get Domain.reset s.doms d

/-- Angle domain d updated. -/
def State.updDom (s : State) (d : Nat) (f : Domain → Domain) : State :=
  { s with doms := Tbl.set s.doms d (f (s.dom d)) }

/-- Capture unit u. -/
def State.cap (s : State) (u : Nat) : CapUnit := Tbl.get CapUnit.reset s.caps u

/-- Capture unit u updated. -/
def State.updCap (s : State) (u : Nat) (f : CapUnit → CapUnit) : State :=
  { s with caps := Tbl.set s.caps u (f (s.cap u)) }

/-- Scrubber u. -/
def State.scrub (s : State) (u : Nat) : Scrub := Tbl.get Scrub.reset s.scrubs u

/-- Scrubber u updated. -/
def State.updScrub (s : State) (u : Nat) (f : Scrub → Scrub) : State :=
  { s with scrubs := Tbl.set s.scrubs u (f (s.scrub u)) }

/-- Event channel c. -/
def State.chan (s : State) (c : Nat) : Channel := Tbl.get Channel.reset s.chans c

/-- Event channel c updated. -/
def State.updChan (s : State) (c : Nat) (f : Channel → Channel) : State :=
  { s with chans := Tbl.set s.chans c (f (s.chan c)) }

/-- Chain port n. -/
def State.port (s : State) (n : Nat) : ChPort := Tbl.get ChPort.reset s.ports n

/-- Chain port n updated. -/
def State.updPort (s : State) (n : Nat) (f : ChPort → ChPort) : State :=
  { s with ports := Tbl.set s.ports n (f (s.port n)) }

/-- Node at position k of port n's ring. -/
def State.node (s : State) (n k : Nat) : Node := Tbl.get Node.reset s.nodes (n * 64 + k)

/-- Node updated. -/
def State.updNode (s : State) (n k : Nat) (f : Node → Node) : State :=
  { s with nodes := Tbl.set s.nodes (n * 64 + k) (f (s.node n k)) }

/-- Ethernet port p. -/
def State.eth (s : State) (p : Nat) : Eth := Tbl.get Eth.reset s.eths p

/-- Ethernet port p updated. -/
def State.updEth (s : State) (p : Nat) (f : Eth → Eth) : State := { s with eths := Tbl.set s.eths p (f (s.eth p)) }

/-- Receive queue j of an Ethernet port. -/
def Eth.rx (e : Eth) (j : Nat) : Queue := Tbl.get Queue.reset e.rxq j

/-- Transmit queue j of an Ethernet port. -/
def Eth.tx (e : Eth) (j : Nat) : Queue := Tbl.get Queue.reset e.txq j

/-- Station-ring mailbox m. -/
def State.mbox (s : State) (m : Nat) : Mbox := Tbl.get Mbox.reset s.ring.mbs m

/-- Station-ring mailbox m updated. -/
def State.updMbox (s : State) (m : Nat) (f : Mbox → Mbox) : State :=
  { s with ring := { s.ring with mbs := Tbl.set s.ring.mbs m (f (s.mbox m)) } }

/-- GP pin p. -/
def State.gp (s : State) (p : Nat) : GpPin := Tbl.get GpPin.reset s.gps p

/-- GP pin p updated. -/
def State.updGp (s : State) (p : Nat) (f : GpPin → GpPin) : State := { s with gps := Tbl.set s.gps p (f (s.gp p)) }

/-- FCU source n's own state. -/
def State.src (s : State) (n : Nat) : FcuSrc := Tbl.get FcuSrc.reset s.fcu.srcs n

/-- FCU updated. -/
def State.updFcu (s : State) (f : Fcu → Fcu) : State := { s with fcu := f s.fcu }

/-- FCU source updated. -/
def State.updSrc (s : State) (n : Nat) (f : FcuSrc → FcuSrc) : State :=
  s.updFcu fun u => { u with srcs := Tbl.set u.srcs n (f (Tbl.get FcuSrc.reset u.srcs n)) }

/-- Power block updated. -/
def State.updPwr (s : State) (f : Pwr → Pwr) : State := { s with pwr := f s.pwr }

/-- ECC block updated. -/
def State.updEcc (s : State) (f : Ecc → Ecc) : State := { s with ecc := f s.ecc }

/-- Cairn updated. -/
def State.updCairn (s : State) (f : Cairn → Cairn) : State := { s with cairn := f s.cairn }

/-- Station ring updated. -/
def State.updRing (s : State) (f : SRing → SRing) : State := { s with ring := f s.ring }

/-- Non-volatile memory updated. -/
def State.updNvm (s : State) (f : Nvm → Nvm) : State := { s with nvm := f s.nvm }

/-- Massif of core c (R15). -/
def massifOf (c : Nat) : Nat := c / 16

/-- The valid members of a ridge: slot and core (Table 7-9). -/
def Ridge.valid (x : Ridge) : List (Nat × Nat) :=
  (List.range 3).filterMap fun k => match x.members[k]? with
    | some (true, c) => some (k, c)
    | _ => none

/-- The lowest empty slot of a ridge. -/
def Ridge.emptySlot (x : Ridge) : Option Nat := firstBelow x.kind fun k => !(at_ x.members k (false, 0)).1

/-- Cores of massif m in a state. -/
def State.coresIn (s : State) (m : Nat) (st : CoreSt) : List Nat :=
  ((List.range 16).map (· + 16 * m)).filter fun c => (s.core c).st == st

/-- Massif m has neither a SPARE nor a FREE core. -/
def State.noSpareIn (s : State) (m : Nat) : Bool := (s.coresIn m .spare).isEmpty && (s.coresIn m .free).isEmpty

/-- Slots and cores in which a ridge's program runs: its members and, after its cutover, the newcomer of a col in place of
the departing member (R181, R182). -/
def State.runSlots (s : State) (r : Nat) : List (Nat × Nat) :=
  let x := s.ridge r
  match (s.massif x.massif).col with
  | some k =>
    if k.ridge = r ∧ k.phase = 3 then
      (List.range 3).filterMap fun j =>
        if j = k.tslot then some (j, k.newcore) else (x.valid.find? fun m => m.1 == j)
    else x.valid
  | none => x.valid

/-- The cores in which a ridge's program runs. -/
def State.runners (s : State) (r : Nat) : List Nat := (s.runSlots r).map (·.2)

/-- Release slot (R151). -/
def Ridge.release (x : Ridge) : Nat := x.kind - 1

/-- A ridge in which a program runs. -/
def Ridge.running (x : Ridge) : Bool := x.st == .running

/-- The ridge of a core that executes in one (Table 7-1: MEMBER, and SHADOW, which shadows one). -/
def State.ridgeOf (s : State) (c : Nat) : Option Nat :=
  if (s.core c).st == .member || (s.core c).st == .shadow then some (s.core c).ridge else none

/-- A free value is drawn: the value and the state with the counter advanced (log 5). -/
def State.draw (s : State) : Word × State := (Config.freeWord s.free, { s with free := s.free + 1 })

end Sys2Proof.Machine
end

