-- ==== Sys2Proof/Machine/Mem.lean ====
section
/-!
DEFINITION. The on-chip memories (chapter 11): bytes in one canonical list, and the error-correcting codes, a word's stored
check bits kept as their syndrome.
-/

namespace Sys2Proof.Machine

/-- Byte at a key; a key that the list does not name reads 0 (log 8). -/
def Memory.get : List Host.Cell → Nat → Byte
  | [], _ => 0
  | (k, b) :: t, a => if a = k then b else if a < k then 0 else Memory.get t a

/-- The list with key a holding b, in canonical form. -/
def Memory.put : List Host.Cell → Nat → Byte → List Host.Cell
  | [], a, b => if b = 0 then [] else [(a, b)]
  | (k, x) :: t, a, b =>
    if a = k then (if b = 0 then t else (a, b) :: t)
    else if a < k then (if b = 0 then (k, x) :: t else (a, b) :: (k, x) :: t)
    else (k, x) :: Memory.put t a b

/-- The list without the keys of [lo, hi): those bytes read 0 again. -/
def Memory.clear (l : List Host.Cell) (lo hi : Nat) : List Host.Cell :=
  l.filter fun e => e.1 < lo || hi ≤ e.1

/-- Every key of the list is above a. -/
def Memory.above (a : Nat) : List Host.Cell → Bool
  | [] => true
  | (k, _) :: _ => decide (a < k)

/-- Canonical form: keys strictly rising and no entry that an unlisted key would read as. -/
def Memory.wf : List Host.Cell → Bool
  | [] => true
  | (k, b) :: t => b != 0 && Memory.above k t && Memory.wf t

/-- Bytes of an ECC word of memory MEM (R243): 4 in DM, 8 elsewhere. -/
def wordBytes (m : Nat) : Nat := if m < 0x40 then 4 else 8

/-- ECC words of memory MEM (Table 11-6). -/
def memWords (m : Nat) : Nat :=
  if m < 0x40 then 32768 else if m < 0x80 then 12288 else if m < 0x84 then 262144 else if m = 0x84 then 1048576
  else if m = 0x85 then 65536 else if m = 0x86 then 131072 else if m = 0x87 then 65536 else if m = 0x88 then 32768 else 0

/-- Class B memory, whose contents are undefined after a POR (R268). -/
def isClassB (m : Nat) : Bool := decide (0x80 ≤ m ∧ m ≤ 0x84)

/-- Key of a byte. -/
def memKey (m off : Nat) : Nat := m * 2 ^ 23 + off

/-- Key of an ECC word's syndrome. -/
def synKey (m w : Nat) : Nat := m * 2 ^ 20 + w

/-- Byte of memory MEM at an offset, as stored. -/
def State.memByte (s : State) (m off : Nat) : Byte :=
  if isClassB m && !s.pwr.classB then Config.powerOnByte (memKey m off) else Memory.get s.mem (memKey m off)

/-- Syndrome of an ECC word: stored check bits XOR E(stored data) (R261). -/
def State.memSyn (s : State) (m w : Nat) : Byte :=
  if isClassB m && !s.pwr.classB then Config.powerOnSyn (synKey m w) else Memory.get s.syn (synKey m w)

/-- The syndrome P of a poisoned word (R260). -/
def poisonSyn (m : Nat) : Byte := if m < 0x40 then 0x7F else 0xFF

/-- Bits set in a number of at most 8 bits. -/
def popcount (n : Nat) : Nat := ((List.range 8).filter (bitOf n)).length

/-- Columns of the data bits of (39,32): the first 32 seven-bit values with three bits set (R259). -/
def columns39 : List Nat := ((List.range 128).filter fun n => popcount n == 3).take 32

/-- Columns of the data bits of (72,64): 56 values with three bits set, then 8 with five (R259). -/
def columns72 : List Nat :=
  ((List.range 256).filter fun n => popcount n == 3) ++ ((List.range 256).filter fun n => popcount n == 5).take 8

/-- Columns of the data bits of the code of memory MEM. -/
def columns (m : Nat) : List Nat := if m < 0x40 then columns39 else columns72

/-- Check bits of the code of memory MEM. -/
def checkBits (m : Nat) : Nat := if m < 0x40 then 7 else 8

/-- The encoding E(d) (R259): the XOR of the columns of the data bits that are set. -/
def eccEncode (m d : Nat) : Nat :=
  ((columns m).foldl (fun (a : Nat × Nat) c => (if bitOf d a.2 then a.1 ^^^ c else a.1, a.2 + 1)) (0, 0)).1

/-- Outcome of a read (R261): 0 clean, 1 CE, 2 UE, 3 poisoned; the codes of ECC_TCK.RESULT. -/
def eccOutcome (m : Nat) (syn : Nat) : Nat :=
  if syn = 0 then 0 else if syn = (poisonSyn m).toNat then 3
  else if (columns m).contains syn || ((List.range (checkBits m)).map (2 ^ ·)).contains syn then 1 else 2

/-- Data bit that a syndrome names, if it names one. -/
def eccDataBit (m syn : Nat) : Option Nat := (columns m).findIdx? (· == syn)

/-- Data of an ECC word as stored, as a number. -/
def State.wordData (s : State) (m w : Nat) : Nat :=
  ofBytesLE ((List.range (wordBytes m)).map fun i => s.memByte m (w * wordBytes m + i))

/-- What a read of an ECC word delivers (R261): data, poison tag, outcome. -/
def State.eccRead (s : State) (m w : Nat) : Nat × Bool × Nat :=
  let syn := (s.memSyn m w).toNat
  let d := s.wordData m w
  let o := eccOutcome m syn
  let d' := if o = 1 then (match eccDataBit m syn with | some i => d ^^^ 2 ^ i | none => d) else d
  (d', o == 2 || o == 3, o)

/-- Word w stored with this data and syndrome. -/
def State.storeWord (s : State) (m w d syn : Nat) : State :=
  { s with
    mem := (List.range (wordBytes m)).foldl
      (fun l i => Memory.put l (memKey m (w * wordBytes m + i)) (BitVec.ofNat 8 (d / 256 ^ i))) s.mem
    syn := Memory.put s.syn (synKey m w) (BitVec.ofNat 8 syn) }

/-- A stored bit is inverted: data bits first, then check bits (R272). -/
def flipStored (m pos : Nat) (x : Nat × Nat) : Nat × Nat :=
  let n := wordBytes m * 8
  if pos < n then (x.1 ^^^ 2 ^ pos, x.2 ^^^ at_ (columns m) pos 0) else (x.1, x.2 ^^^ 2 ^ (pos - n))

/-- A user's write of an ECC word (R260), with the armed injection (R272). -/
def State.writeWord (s : State) (m w d : Nat) (poison : Bool) : State :=
  let plain := (d, if poison then (poisonSyn m).toNat else 0)
  if s.ecc.injArm && s.ecc.injMem == m && s.ecc.injWord == w then
    let a := if s.ecc.injEna then flipStored m s.ecc.injA plain else plain
    let b := if s.ecc.injEnb then flipStored m s.ecc.injB a else a
    (s.storeWord m w b.1 b.2).updEcc fun e => { e with injArm := false }
  else s.storeWord m w plain.1 plain.2

/-- One stored bit of an ECC word inverted by a fault (R169). -/
def State.flipBit (s : State) (m w pos : Nat) : State :=
  let b := flipStored m pos (s.wordData m w, (s.memSyn m w).toNat)
  s.storeWord m w b.1 b.2

/-- A hardware clear of bytes [lo, hi) of memory MEM (R268): zero data and check bits, and an armed injection into it dies
(R272). -/
def State.clearMem (s : State) (m lo hi : Nat) : State :=
  let wb := wordBytes m
  let s := { s with mem := Memory.clear s.mem (memKey m lo) (memKey m hi),
                    syn := Memory.clear s.syn (synKey m (lo / wb)) (synKey m (hi / wb)) }
  if s.ecc.injArm && s.ecc.injMem == m && decide (lo / wb ≤ s.ecc.injWord ∧ s.ecc.injWord < hi / wb)
  then s.updEcc fun e => { e with injArm := false } else s

/-- The whole of memory MEM cleared. -/
def State.clearAll (s : State) (m : Nat) : State := s.clearMem m 0 (memWords m * wordBytes m)

/-- PM and DM of core c cleared (R150, R268). -/
def State.clearCoreMem (s : State) (c : Nat) : State := (s.clearAll c).clearAll (0x40 + c)

/-- Data of an ECC word with given bytes in place of those stored, by byte index in the word. -/
def mergeBytes (old : Nat) (wb : Nat) (bs : Nat → Option Byte) : Nat :=
  ofBytesLE ((List.range wb).map fun i => (bs i).getD (BitVec.ofNat 8 (old / 256 ^ i)))

/-- Words that bytes [off, off + n) of memory MEM touch. -/
def wordsOf (m off n : Nat) : List Nat :=
  if n = 0 then [] else (List.range ((off + n - 1) / wordBytes m + 1 - off / wordBytes m)).map (· + off / wordBytes m)

/-- Byte i of word w among the bytes written at off. -/
def byteFor (m off : Nat) (data : List PByte) (w i : Nat) : Option PByte :=
  let a := w * wordBytes m + i
  if off ≤ a then data[a - off]? else none

/-- Cairn's or a port's write of bytes, word by word; a word only partly covered keeps its other bytes as stored (R249). -/
def State.loadBytes (s : State) (m off : Nat) (data : List Byte) : State :=
  let pd : List PByte := data.map fun b => (b, false)
  (wordsOf m off data.length).foldl
    (fun s w => s.writeWord m w (mergeBytes (s.wordData m w) (wordBytes m) fun i => (byteFor m off pd w i).map (·.1)) false) s

/-- Bank of an ECC word (Table 11-1). -/
def bankOf (m w : Nat) : Nat :=
  if m < 0x40 then w % 8 else if m < 0x80 then w % 4 else if m < 0x84 then w % 32 else if m = 0x84 then w / 2 % 16
  else if m = 0x85 then w % 4 else if m = 0x86 then w / 2048 else if m = 0x87 then w / 512 % 8 else w % 2

/-- CE source of the bank of an ECC word (Table 17-1). -/
def ceSource (m w : Nat) : Nat :=
  let b := bankOf m w
  if m < 0x40 then 0x20 * m + b else if m < 0x80 then 0x20 * (m - 0x40) + 0x10 + b
  else if m < 0x84 then 0xA00 + 0x80 * (m - 0x80) + b else if m = 0x84 then 0xF20 + b
  else if m = 0x85 then 0xF68 + b else if m = 0x86 then 0xC00 + 8 * b else if m = 0x87 then 0xF50 + b else 0xF78 + b

/-- UE source of the bank of an ECC word (Table 17-1). -/
def ueSource (m w : Nat) : Nat :=
  let b := bankOf m w
  if m < 0x40 then 0x20 * m + 8 + b else if m < 0x80 then 0x20 * (m - 0x40) + 0x14 + b
  else if m < 0x84 then 0xA00 + 0x80 * (m - 0x80) + 0x20 + b else if m = 0x84 then 0xF30 + b
  else if m = 0x85 then 0xF6C + b else if m = 0x86 then 0xC00 + 8 * b + 1 else if m = 0x87 then 0xF58 + b else 0xF7A + b

end Sys2Proof.Machine
end

