-- ==== Sys2Proof/Machine/Penrid.lean ====
section
/-!
DEFINITION. What passes on a Penrid ring (13): characters and code groups, the CRC-32C, the layout of process and management
trains, and the fields that a receiver reads out of them.
-/

namespace Sys2Proof.Machine

/-- One byte of the CRC-32C register (R297). -/
def crcByte (c : Nat) (b : Byte) : Nat :=
  (List.range 8).foldl (fun (c : Nat) _ => if c % 2 = 1 then (c / 2) ^^^ 0x82F63B78 else c / 2) (c ^^^ b.toNat)

/-- CRC-32C of bytes in wire order (R297). -/
def crc32c (l : List Byte) : Nat := (l.foldl crcByte 0xFFFFFFFF) ^^^ 0xFFFFFFFF

/-- A CRC inverted (R297). -/
def invertCrc (c : Nat) : Nat := c ^^^ 0xFFFFFFFF

/-- The CRC-32C of bytes as sent, most significant byte first, inverted or not (R297). -/
def crcField (l : List Byte) (inverted : Bool) : List Byte :=
  bytesBE 4 (if inverted then invertCrc (crc32c l) else crc32c l)

/-- The character that a code group carries (R293, Table 13-1): any other K-code is a code error. -/
def PChar.ofCode (k : Bool) (b : Byte) : PChar :=
  if !k then .data b
  else if b = 0xBC then .idle
  else if b = 0xFB then .sot
  else if b = 0x5C then .sotm
  else if b = 0xFD then .eot
  else if b = 0xFE then .err
  else if b = 0xF7 then .brk
  else .bad

/-- A link's errors, given by the characters that arrive as no code group and those that arrive as another one (R292). -/
def linkErrors (bad : List Nat) (other : List (Nat × Bool × Byte)) : LinkErrors :=
  bad.map (fun i => (i, none)) ++ other.map fun e => (e.1, some e.2)

/-- What the receiver at the end of a link with these errors gets of characters (R292, R293). -/
def received (l : List PChar) (line : LinkErrors) : List PChar :=
  line.foldl (fun l e => setAt l e.1 (match e.2 with
    | some g => PChar.ofCode g.1 g.2
    | none => .bad)) l

/-- A character as a node sends it on: ERR in place of one with a code or disparity error (R305). -/
def PChar.onward (c : PChar) : PChar := if c = .bad then .err else c

/-- The byte of a data character. -/
def PChar.byte? (c : PChar) : Option Byte :=
  match c with
  | .data b => some b
  | _ => none

/-- Bytes as data characters. -/
def dataChars (l : List Byte) : List PChar := l.map .data

/-- The n bytes of a train from character i on; none where one of them is no data character. -/
def bytesAt (l : List PChar) (i n : Nat) : Option (List Byte) :=
  let b := ((l.drop i).take n).filterMap PChar.byte?
  if b.length = n then some b else none

/-- A field of n bytes from character i on, with the CRC-32C that follows it: none where the field is invalid (R297). -/
def fieldAt (l : List PChar) (i n : Nat) : Option (List Byte) :=
  match bytesAt l i (n + 4) with
  | some b => if b.drop n = crcField (b.take n) false then some (b.take n) else none
  | none => none

/-- Characters in a process train of N nodes (R296). -/
def trainLength (N d u : Nat) : Nat := 16 + N * (d + u + 8)

/-- First character of the command block of node k (Table 13-2). -/
def blockAt (d k : Nat) : Nat := 15 + k * (d + 4)

/-- First character of the upstream slot of node k of N (Table 13-2). -/
def slotAt (N d u k : Nat) : Nat := 15 + N * (d + 4) + k * (u + 4)

/-- A process train as the port sends it (Table 13-2, R303): a command block that was captured poisoned has its CRC inverted, and the
upstream slots are zero with their CRCs inverted. -/
def Train.chars (t : Train) : List PChar :=
  .sot :: dataChars (t.header ++ crcField t.header false) ++
    (t.cmds.flatMap fun b => dataChars (b.1 ++ crcField b.1 b.2)) ++
    ((List.range t.n).flatMap fun _ =>
      let z : List Byte := List.replicate t.u 0
      dataChars (z ++ crcField z true)) ++ [.eot]

/-- What a port received of slot k of a train (R304, Table 13-4). -/
def Train.slotRx (t : Train) (rx : List PChar) (fromB : Bool) (k : Nat) : SlotRx :=
  let i := slotAt t.n t.d t.u k
  match bytesAt rx i (t.u + 4) with
  | some b => { present := true, crcOk := (fieldAt rx i t.u).isSome, fromB := fromB, data := b.take t.u }
  | none => { present := false, crcOk := false, fromB := fromB, data := [] }

/-- The slots of a train from its copies on ring A and, of a dual pair, on ring B (R317): A's if it is valid, else B's if that is,
else A's. -/
def Train.slots (t : Train) (a b : List PChar) : List SlotRx :=
  (List.range t.n).map fun k =>
    let x := t.slotRx a false k
    let y := t.slotRx b true k
    if !x.crcOk && y.crcOk then y else x

/-- Bytes 1 to 8 of a management train's header (Table 13-6). -/
def mgmtHeader (t : MgmtTrain) : List Byte :=
  [t.mcmd, t.addr, t.cnt, t.rlen] ++ bytesBE 2 t.plen.toNat ++ [0, 0]

/-- The header CRC of a management train is valid (R297, R310). -/
def mgmtOk (t : MgmtTrain) : Bool := t.hcrc.toNat == crc32c (mgmtHeader t)

/-- The payload of a management train is whole and its CRC valid (R297, R309). -/
def mgmtPayloadOk (t : MgmtTrain) : Bool :=
  t.payload.length == t.plen.toNat && t.pcrc.toNat == crc32c t.payload

/-- A management train with the CRC of its header made new. -/
def mgmtSeal (t : MgmtTrain) : MgmtTrain := { t with hcrc := BitVec.ofNat 32 (crc32c (mgmtHeader t)) }

/-- A management train as the port forms it (R309): N response slots of RLEN zero bytes, their CRCs inverted. -/
def mgmtTrain (mcmd addr rlen : Nat) (payload : List Byte) (N : Nat) : MgmtTrain :=
  let z : List Byte := List.replicate rlen 0
  mgmtSeal { mcmd := BitVec.ofNat 8 mcmd, addr := BitVec.ofNat 8 addr, cnt := 0, rlen := BitVec.ofNat 8 rlen
             plen := BitVec.ofNat 16 payload.length, hcrc := 0, payload := payload, pcrc := BitVec.ofNat 32 (crc32c payload)
             slots := List.replicate N (z, BitVec.ofNat 32 (invertCrc (crc32c z))) }

/-- The characters of a management train (Table 13-6). -/
def mgmtChars (t : MgmtTrain) : List PChar :=
  .sotm :: dataChars (mgmtHeader t ++ bytesBE 4 t.hcrc.toNat ++
    (if t.plen = 0 then [] else t.payload ++ bytesBE 4 t.pcrc.toNat) ++
    t.slots.flatMap fun x => x.1 ++ bytesBE 4 x.2.toNat) ++ [.eot]

/-- Response slot a is filled (R310). -/
def mgmtFill (t : MgmtTrain) (a : Nat) (b : List Byte) : MgmtTrain :=
  { t with slots := setAt t.slots a (b, BitVec.ofNat 32 (crc32c b)) }

/-- What the port receives in response slot a; none where its CRC is not valid. -/
def mgmtResponse (t : MgmtTrain) (a : Nat) : Option (List Byte) :=
  match t.slots[a]? with
  | some x => if x.2.toNat = crc32c x.1 then some x.1 else none
  | none => none

end Sys2Proof.Machine
end

