-- ==== Sys2Proof/Machine/Fabric.lean ====
section
/-!
DEFINITION. Producer pulses (12), interrupt lines and their routing (03, Interrupt controller), and the halt of a ridge as
far as it sets no FCU source (07).
-/

namespace Sys2Proof.Machine

/-- The owner has changed in this tick: what sets MERGE, STORM or MASKED in it is gone at its end (R288). -/
def Channel.clears (c : Channel) (tick : Nat) : Bool := c.clear.map Prod.fst == some tick

/-- MASKED stands in this tick, whose end clears it with the change of owner (R288). -/
def Channel.oldMask (c : Channel) (tick : Nat) : Bool := c.clear == some (tick, true)

/-- A firing that MASKED stops: it counts, and no consumer takes it (R284). -/
def ChFire.stopped (f : ChFire) : ChFire := { f with ckind := 0 }

/-- A firing in this tick: a write of CH_CONFIG in the tick itself does not yet act on it (R288). -/
def Channel.firing (c : Channel) (tick : Nat) : ChFire :=
  let now : ChFire :=
    { tick := tick, ckind := c.ckind, param := c.param, cindex := c.cindex, lim := c.lim, automask := c.automask }
  let f := match c.was with
    | some w => if tick ≤ w.1.tick then { w.1 with tick := tick } else now
    | none => now
  if c.oldMask tick then f.stopped else f

/-- The row as it acts on a pulse in this tick (R288). -/
def Channel.rowAt (c : Channel) (tick : Nat) : BitVec 512 :=
  match c.was with
  | some w => if tick ≤ w.1.tick then w.2 else c.row
  | none => c.row

/-- The refractory intervals that have ended by this tick (R277): a held pulse fires once more, at the end of its interval. -/
def Channel.upTo (c : Channel) (tick : Nat) : Channel :=
  match c.refr with
  | none => c
  | some e =>
    if tick < e then c
    else if c.held then
      { c with held := false, waiting := c.waiting ++ [c.firing e], start := none
               refr := if e + 8 ≤ tick then none else some (e + 8) }
    else { c with refr := none, start := none }

/-- A pulse at the input of a channel (R277, R278): it starts a firing and an interval of 8 ticks, joins the firing that another
pulse of the same tick has started, or is held (log 32). What it sets in a tick in which the owner has changed is gone at the tick's end
(R288). -/
def Channel.pulse (c : Channel) (tick : Nat) : Channel :=
  let c := c.upTo tick
  if c.refr.isNone then { c with waiting := c.waiting ++ [c.firing tick], start := some tick, refr := some (tick + 8) }
  else if c.start = some tick then { c with merge := c.merge || !c.clears tick }
  else if c.held then { c with merge := c.merge || !c.clears tick } else { c with held := !c.oldMask tick }

/-- Producer p fires (R275): every channel whose row enables it takes the pulse. -/
def State.pulse (s : State) (p : Nat) : State :=
  { s with chans := s.chans.map fun e => (e.1, if (e.2.rowAt s.tick).getLsbD p then e.2.pulse s.tick else e.2) }

/-- CH_CONFIG or CH_ROW changes a channel from the next tick on (R288). -/
def Channel.change (c : Channel) (tick : Nat) (f : Channel → Channel) : Channel :=
  let c := c.upTo tick
  f { c with was := match c.was with
    | some w => if w.1.tick = tick then c.was else some (c.firing tick, c.row)
    | none => some (c.firing tick, c.row) }

/-- The owner changes, and MERGE, STORM and MASKED become 0 with it (R288, R284): firings that MASKED has stopped stay stopped, and a
pulse of the tick itself still finds it. -/
def Channel.giveTo (c : Channel) (tick : Nat) (w : Option Nat) : Channel :=
  let c := c.upTo tick
  { c with owner := w, merge := false, storm := false, masked := false, held := c.held && !c.masked
           waiting := if c.masked then c.waiting.map ChFire.stopped else c.waiting
           clear := some (tick, c.masked || c.oldMask tick) }

/-- Ridge block r owns interrupt line l (R72 and the chapters that assign the lines). -/
def State.ownsLine (s : State) (r l : Nat) : Bool :=
  if 0x100 ≤ l ∧ l < 0x180 then (s.port ((l - 0x100) / 2)).owner == some r
  else if 0x180 ≤ l ∧ l < 0x1C0 then (((s.eth ((l - 0x180) / 16)).rx ((l - 0x180) % 16)).owner == some r)
  else if 0x1C0 ≤ l ∧ l ≤ 0x1CE then (s.mbox (l - 0x1C0)).owner == some r
  else if 0x200 ≤ l ∧ l < 0x240 then l == 0x200 + r
  else if 0x240 ≤ l ∧ l < 0x248 then true
  else if 0x250 ≤ l ∧ l < 0x270 then (s.cap (l - 0x250)).owner == some r
  else if 0x280 ≤ l ∧ l < 0x2E0 then (s.gp (l - 0x280)).owner == some r
  else false

/-- A LINE value that a chapter assigns (R72). -/
def lineAssigned (l : Nat) : Bool :=
  decide ((0x100 ≤ l ∧ l ≤ 0x1CE) ∨ (0x200 ≤ l ∧ l < 0x248) ∨ (0x250 ≤ l ∧ l < 0x270) ∨ (0x280 ≤ l ∧ l < 0x2E0))

/-- LINE of source n of a ridge (Table 3-7). -/
def Ridge.route (x : Ridge) (n : Nat) : Nat := Tbl.get 0x3FF x.icuRoute n

/-- Source n, 16 to 63, becomes pending (R70). -/
def Ridge.pendSource (x : Ridge) (n : Nat) : Ridge := { x with icuPend := x.icuPend ||| (1#64 <<< n) }

/-- A pulse of line l at the ridge's controller. -/
def Ridge.takeLine (x : Ridge) (l : Nat) : Ridge :=
  ((List.range 40).map (· + 24)).foldl (fun x n => if x.route n = l then x.pendSource n else x) x

/-- Interrupt line l pulses: every ridge that owns its block and routes it takes the pulse (R70, R72). -/
def State.line (s : State) (l : Nat) : State :=
  { s with ridges := s.ridges.map fun e => (e.1, if s.ownsLine e.1 l then e.2.takeLine l else e.2) }

/-- Fixed source n of ridge r becomes pending (Table 3-6). -/
def State.pendFixed (s : State) (r n : Nat) : State := s.updRidge r (·.pendSource n)

/-- A pulse at task input i of a ridge (R69). -/
def Ridge.taskPulse (x : Ridge) (i : Nat) : Ridge :=
  let n := Tbl.get 0 x.taskCnt i
  if n < 255 then { x with taskCnt := Tbl.set x.taskCnt i (n + 1) }
  else { x with tovf := x.tovf ||| (1#16 <<< i) }.pendSource 19

/-- Interrupt line of chain port n at a change of STATE (13, Registers). -/
def State.portState (s : State) (n st : Nat) : State :=
  if (s.port n).st = st then s else (s.updPort n fun p => { p with st := st }).line (0x100 + 2 * n)

/-- A core leaves its duty for another state: its registers are reset, and BIST_RESULT and the count of quarantines stay
(R150, R190, R194). -/
def Core.renew (x : Core) (st : CoreSt) : Core :=
  { Core.reset with
    st := st, bStatus := x.bStatus, bMfail := x.bMfail, bSlices := x.bSlices, bQcount := x.bQcount, bPatcnt := x.bPatcnt
    quars := if st == .quarantined then x.quars + 1 else x.quars }

/-- Two occupied slots lie in one core quad (Table 7-7, COMMONQ). -/
def Ridge.shareQuad (x : Ridge) : Bool :=
  let qs := x.valid.map fun m => m.2 / 4
  decide (qs.eraseDups.length < qs.length)

/-- COMMONQ of a ridge follows its membership. -/
def State.fixQuad (s : State) (r : Nat) : State := s.updRidge r fun x => { x with commonq := x.shareQuad }

/-- Slot k of RIDGE_MEMBERS is written (Table 7-9). -/
def State.setSlot (s : State) (r k : Nat) (v : Bool) (c : Nat) : State :=
  (s.updRidge r fun x => { x with members := setAt x.members k (v, c) }).fixQuad r

/-- A self-test of a core starts (R194). -/
def Core.startTest (x : Core) (why : TestFor) : Core :=
  { x.renew .test with bStatus := 1, bSlices := 0, bPatcnt := 0, bMfail := false, testFor := some why }

/-- The departing member of a rotation leaves its ridge: to its self-test, or to CLEARING (R183). -/
def State.departing (s : State) (k : Col) : State :=
  match (s.ridge k.ridge).members[k.tslot]? with
  | some (true, c) =>
    (s.setSlot k.ridge k.tslot false c).updCore c fun x => if k.toTest then x.startTest .rotation else x.renew .clearing
  | _ => s

/-- A triad that runs on with an empty slot is degraded. -/
def Ridge.noteEmpty (x : Ridge) : Ridge := { x with degraded := x.degraded || (x.kind == 3 && x.emptySlot.isSome) }

/-- A col of massif m ends without completing: its newcomer goes to the state given (Table 8-4). After the cutover of a
rotation in a running ridge the departing member, which executes no more, leaves, and the slot stays empty (log 29). -/
def State.dropCol (s : State) (m : Nat) (dest : CoreSt) : State :=
  match (s.massif m).col with
  | none => s
  | some c =>
    let s := (s.updMassif m fun x => { x with col := none }).updCore c.newcore fun x => x.renew dest
    let s := if c.phase = 3 ∧ c.rot = true ∧ (s.ridge c.ridge).running = true then s.departing c else s
    s.updRidge c.ridge Ridge.noteEmpty

/-- Cairn logs a note while it runs (R185, R194). -/
def State.logNote (s : State) (n : LogNote) : State :=
  if !s.cairn.halted && s.pwr.st != .off then s.updFcu fun u => { u with notes := u.notes ++ [n] } else s

/-- The newcomer of the col of massif m is lost to QUARANTINED (Table 8-4): the col starts again with another core, a rotation
by ROTATION_STEP and a fill by FILL_COL_START; without one, Cairn logs NO_SPARE. -/
def State.loseNewcomer (s : State) (m : Nat) : State :=
  match (s.massif m).col with
  | none => s
  | some k =>
    let s := s.dropCol m .quarantined
    if s.noSpareIn m then s.logNote (.noSpare m)
    else if k.rot = true ∧ k.phase ≤ 2 then s.updMassif m fun x => { x with rotAgain := x.rotAgain.filter (· != (k.ridge, k.tslot)) ++ [(k.ridge, k.tslot)] } else s

/-- The col of massif m serves ridge r. -/
def State.colOf (s : State) (m r : Nat) : Bool :=
  match (s.massif m).col with
  | some c => c.ridge == r
  | none => false

/-- A DMA channel is told to stop at its next element boundary (R258). -/
def Dma.stop (d : Dma) : Dma := if d.busy then { d with stopReq := true } else d

/-- Every register of a DMA channel but DMA_OWN at its reset value (R258, Table 17-3). -/
def Dma.blockReset (d : Dma) : Dma := { Dma.reset with owner := d.owner }

/-- A member stops issuing: the bundle in X and what it waits for are given up (R163). -/
def Core.stopIssue (c : Core) : Core :=
  { c with open_ := [], held := false, skip := none, wait := [], aerr := none, late := [], landed := [], recs := [], endSel := none,
           pend := none, retiPend := false, fetched := [], refusals := [], eSent := false, eDrop := [] }

/-- Ridge r halts with this cause (R163, Table 7-5), without the FCU source of the cause: what has passed its comparison still
leaves. A ridge that is not RUNNING is unchanged (R375). -/
def State.haltCore (s : State) (r cause : Nat) : State :=
  let x := s.ridge r
  if x.st != .running then s else
  let s := s.setRidge r { x with st := .halted, outen := false, haltcause := cause, draining := true }
  let s := s.updMassif x.massif fun z => { z with rotAgain := z.rotAgain.filter fun e => e.1 != r }
  let s := x.valid.foldl (fun s m => s.updCore m.2 Core.stopIssue) s
  let s := (List.range 4).foldl
    (fun s k => if (s.dma (4 * x.massif + k)).owner == some r then s.updDma (4 * x.massif + k) Dma.stop else s) s
  if s.colOf x.massif r then s.dropCol x.massif .clearing else s

/-- Q bytes of one slot record (R304). -/
def recordSize (u : Nat) : Nat := 8 + (u + 7) / 8 * 8

/-- The status doubleword of a slot record (Table 13-4). -/
def slotStatus (x : SlotRx) (seq : Nat) : List Byte :=
  bytesLE 8 (seq % 256 + 256 * b2n x.present + 512 * b2n x.crcOk + 1024 * b2n x.fromB)

/-- Completion of the train in flight on port n (R301, R304), with what was received of each slot; wr writes the bytes of a
record to the chain buffers. A slot that did not arrive whole writes its status only (log 24). The events of those writes find the
port without the train. -/
def State.completeTrain (s : State) (wr : State → Nat → List Byte → State) (n : Nat) (slots : List SlotRx)
    (timeout : Bool) : State :=
  let p := s.port n
  match p.train with
  | none => s
  | some t =>
    let absent : SlotRx := { present := false, crcOk := false, fromB := false, data := [] }
    let q := recordSize t.u
    let base := n * 0x4000 + t.ubase + t.seq % 2 * t.n * q
    let recs := (List.range t.n).map fun k =>
      let x := at_ slots k absent
      (k, if x.present then x else { x with crcOk := false })
    let s := s.updPort n fun p => { p with train := none, wire := [], rxd := none }
    let s := recs.foldl (fun s kx => wr s (base + kx.1 * q)
      (slotStatus kx.2 t.seq ++ if kx.2.present then kx.2.data.take t.u else [])) s
    let bad := recs.filter fun kx => !kx.2.crcOk
    let map := bad.foldl (fun a kx => a + 2 ^ kx.1) 0
    let err := timeout || !bad.isEmpty
    let s := s.updPort n fun p =>
      { p with done := t.seq, slotmap := BitVec.ofNat 32 map, crce := p.crce || !bad.isEmpty,
               sloterr := min 0xFFFF (p.sloterr + bad.length) }
    let s := s.pulse (176 + n)
    if err then (s.pulse (240 + n)).line (0x101 + 2 * n) else s

/-- Block reset of Ethernet port p (R335). -/
def State.ethBlockReset (s : State) (p : Nat) : State :=
  s.updEth p fun e =>
    { e with rxq := e.rxq.map fun q => (q.1, { q.2 with head := q.2.tail, held := 0 })
             txq := e.txq.map fun q => (q.1, { q.2 with head := q.2.tail, held := 0 })
             link := false }

end Sys2Proof.Machine
end

