-- ==== Sys2Proof/Machine/Fcu.lean ====
section
/-!
DEFINITION. Fault collection: the sources, an event of a source and its reactions (chapter 17), and the halt of a ridge with
the source of its cause.
-/

namespace Sys2Proof.Machine

/-- Class (1 corrected, 2 uncorrected-contained, 3 fatal, 0 reserved) and whether the checker accepts injection (Table 17-1). -/
def srcInfo (n : Nat) : Nat × Bool :=
  if n < 0x800 then
    let o := n % 0x20
    if o < 8 then (1, true) else if o < 0x10 then (2, true) else if o < 0x14 then (1, true) else if o < 0x18 then (2, true)
    else if o = 0x18 then (1, true) else if o = 0x19 then (2, false) else if o < 0x1C then (2, true)
    else if o < 0x1E then (1, false) else (0, false)
  else if n < 0xA00 then
    let o := n % 8
    if o = 0 then (1, false) else if o = 1 then (2, false) else if o = 2 then (2, true) else if o < 5 then (2, false)
    else (0, false)
  else if n < 0xC00 then
    let o := n % 0x80
    if o < 0x20 then (1, true) else if o < 0x46 then (2, true) else if o = 0x46 then (1, false)
    else if o = 0x47 then (2, true) else (0, false)
  else if n < 0xE00 then
    let o := n % 8
    if o = 0 then (1, true) else if o = 1 then (2, true) else if o = 2 then (2, false) else if o = 3 then (1, false)
    else if o = 4 then (2, false) else if o = 5 then (2, true) else (0, false)
  else if n < 0xF00 then (1, false)
  else if n < 0xF20 then
    let o := n % 4
    if o = 0 then (1, false) else if o = 1 then (2, false) else if o = 2 then (1, false) else (3, true)
  else if n < 0xF30 then (1, true)
  else if n < 0xF40 then (2, true)
  else if n < 0xF50 then
    let o := n % 4
    if o = 0 then (1, false) else if o = 1 then (2, false) else if o = 2 then (2, true) else (0, false)
  else if n < 0xF58 then (1, true)
  else if n < 0xF60 then (2, true)
  else if n = 0xF60 then (2, false)
  else if n = 0xF61 then (1, false)
  else if n = 0xF62 then (2, false)
  else if n = 0xF63 then (2, true)
  else if n < 0xF68 then (0, false)
  else if n < 0xF6C then (1, true)
  else if n < 0xF70 then (2, true)
  else if n = 0xF70 then (1, true)
  else if n = 0xF71 then (3, true)
  else if n = 0xF72 then (2, false)
  else if n < 0xF75 then (1, false)
  else if n < 0xF78 then (0, false)
  else if n < 0xF7A then (1, true)
  else if n < 0xF7C then (2, true)
  else if n < 0xF7E then (2, false)
  else if n = 0xF7E then (3, true)
  else if n < 0xF80 then (0, false)
  else if n < 0xF85 then (1, false)
  else if n < 0xF88 then (0, false)
  else if n < 0xF8C then (3, true)
  else if n < 0xF90 then (0, false)
  else if n < 0xFA0 then (if n % 2 = 0 then (2, true) else (3, true))
  else if n < 0xFA6 then (3, true)
  else if n < 0xFA8 then (0, false)
  else if n < 0xFAA then (3, true)
  else if n < 0xFAC then (2, true)
  else if n = 0xFAC then (3, false)
  else (0, false)

/-- Mask of a source after POR (R372). -/
def maskReset (n : Nat) : BitVec 5 :=
  if n = 0xF72 then 0b01000 else
  match (srcInfo n).1 with
  | 1 => 0b00001
  | 2 => 0b00101
  | 3 => 0b10000
  | _ => 0

/-- Mask of a source now. -/
def State.maskOf (s : State) (n : Nat) : BitVec 5 := ((s.src n).mask).getD (maskReset n)

/-- Ridge that INT and NMI of a source reach (Table 17-2). -/
def State.srcRidge (s : State) (n : Nat) : Option Nat :=
  if n < 0x800 then (if (s.core (n / 0x20)).st == .member then some (s.core (n / 0x20)).ridge else none)
  else if n < 0xA00 then some ((n - 0x800) / 8)
  else if n < 0xC00 then
    let m := (n - 0xA00) / 0x80
    let o := n % 0x80
    if o < 0x40 then (s.massif m).bankOwner (o % 0x20)
    else if 0x42 ≤ o ∧ o < 0x46 then (s.dma (4 * m + (o - 0x42))).owner else none
  else if n < 0xE00 then (s.port ((n - 0xC00) / 8)).owner
  else if n < 0xF00 then (s.chan (n - 0xE00)).owner
  else if 0xF40 ≤ n ∧ n < 0xF50 then s.ptp.owner
  else none

/-- A target for a mask bit exists in Table 17-2 for the source: INT or NMI, and BRST. -/
def srcHasRidge (n : Nat) : Bool :=
  decide (n < 0xA00) || (decide (0xA00 ≤ n ∧ n < 0xC00) && decide (n % 0x80 < 0x40 ∨ (0x42 ≤ n % 0x80 ∧ n % 0x80 < 0x46)))
  || decide (0xC00 ≤ n ∧ n < 0xF00) || decide (0xF40 ≤ n ∧ n < 0xF50)

/-- The source has a target for BRST in Table 17-2. -/
def srcHasBrst (n : Nat) : Bool :=
  decide (n < 0xA00) || (decide (0xA00 ≤ n ∧ n < 0xC00) && decide (0x42 ≤ n % 0x80 ∧ n % 0x80 < 0x46))
  || decide (0xC00 ≤ n ∧ n < 0xE00) || decide (0xF40 ≤ n ∧ n < 0xF50)

/-- The INT reaction at a running ridge (R373, R386). -/
def State.fcuInt (s : State) (r n : Nat) : State :=
  if !(s.ridge r).running then s else
  (s.updRidge r fun x =>
    if x.fcuValid then { x with fcuCount := satInc 8 x.fcuCount }
    else { x with fcuValid := true, fcuSource := n, fcuCount := 0 }).line (0x200 + r)

/-- The NMI reaction at a running ridge (R71, R436). -/
def State.fcuNmi (s : State) (r : Nat) : State :=
  if (s.ridge r).running then s.updRidge r fun x => { x with nmiPend := true } else s

/-- The BRST reaction (Table 17-2); a source without a block to reset has none. reset: the block reset of a chain port. -/
def State.fcuBrst (reset : State → Nat → State) (s : State) (n : Nat) : State :=
  if !srcHasBrst n then s
  else if n < 0xA00 then (match s.srcRidge n with | some r => s.haltCore r 6 | none => s)
  else if n < 0xC00 then
    s.updDma (4 * ((n - 0xA00) / 0x80) + (n % 0x80 - 0x42)) fun d =>
      if d.busy then { d with stopReq := true, rstReq := true } else d.blockReset
  else if n < 0xE00 then reset s ((n - 0xC00) / 8)
  else if 0xF40 ≤ n ∧ n < 0xF50 then s.ethBlockReset ((n - 0xF40) / 4)
  else s

/-- FATAL hold is entered (R380): every ridge halts with HALTCAUSE 0x6, what the chain ports were
sending ends, and VRET falls with its pin (R416); pins, ports and ALIVE follow from FATAL. -/
def State.fatalHold (s : State) : State :=
  if s.fcu.fatal then s else
  let s : State := { s.updFcu fun u => { u with fatal := true, crstDue := false } with
    ports := s.ports.map fun (e : Nat × ChPort) => (e.1, { e.2 with wire := [] })
    pwr := { s.pwr with vretAt := if s.pwr.vret then some s.tick else s.pwr.vretAt } }
  (s.ridges.map (·.1)).foldl (fun s r => s.haltCore r 6) s

/-- Cairn writes log records while it runs. -/
def State.cairnRuns (s : State) : Bool := !s.cairn.halted && s.pwr.st != .off

/-- The reactions of R162 are withheld: the source lies in a member of a three-member triad. -/
def State.limited (s : State) (n : Nat) : Bool :=
  decide (n < 0x800) && (match s.srcRidge n with
    | some r => (s.ridge r).kind == 3 && (s.ridge r).valid.length == 3
    | none => false)

/-- What Cairn and the col logic do about a core source (R162, R376, Table 8-4). -/
def State.coreFollowUp (s : State) (n : Nat) (lim : Bool) : State :=
  if n ≥ 0x800 then s else
  let c := n / 0x20
  let x := s.core c
  if x.st == .shadow then s.loseNewcomer (massifOf c)
  else if (srcInfo n).1 != 2 then s
  else if x.st == .member && lim then s.updCore c fun x => { x with removeDue := true }
  else if x.st == .free || x.st == .spare then
    s.updCore c fun x => x.renew .quarantined
  else s

/-- An event of FCU source n (R370 to R376, R380, R385). reset: the block reset of a chain port. -/
def State.fcuEventBy (reset : State → Nat → State) (s : State) (n : Nat) : State :=
  let cls := (srcInfo n).1
  if cls = 0 then s else
  let was := s.src n
  let mask := s.maskOf n
  let lim := s.limited n
  let tgt := s.srcRidge n
  let cnt := satInc 8 was.count
  let s := s.updSrc n fun x => { x with sticky := true, count := cnt }
  let s := s.updFcu fun u =>
    { u with last := some n, first := if u.first.isNone then some n else u.first }
  let applied : BitVec 5 := if lim then mask &&& 0b11001 else mask
  let s := if cls != 1 || !was.sticky then
      (if s.cairnRuns then s.updFcu fun u =>
        { u with logNum := u.logNum + 1
                 pendLog := u.pendLog ++ [{ num := u.logNum, time := s.tick / 320, source := n, cls := cls,
                                            react := applied, target := tgt.getD 0xFF, count := cnt,
                                            flags := b2n (cls == 3) + 2 * b2n lim + 4 * b2n (s.pwr.st == .brownout) }] }
       else s)
    else s
  let s := match tgt with
    | some r =>
      let s := if applied.getLsbD 0 then s.fcuInt r n else s
      if applied.getLsbD 1 then s.fcuNmi r else s
    | none => s
  let s := if applied.getLsbD 2 then s.fcuBrst reset n else s
  let s := if applied.getLsbD 3 && !s.fcu.fatal && cls != 3 then s.updFcu fun u => { u with crstDue := true } else s
  let s := s.coreFollowUp n lim
  if cls = 3 then s.fatalHold else s

/-- Tick at which a CHECKER_TEST job armed its injection (R384). -/
def Fcu.armedAt (u : Fcu) (job : Nat) : Nat := (Tbl.get (0, none) u.injJobs job).1

/-- An injection into the checker of source n is armed (R383); that of a CHECKER_TEST for 100 ms (R384). -/
def Fcu.armed (u : Fcu) (tick n : Nat) : Bool :=
  u.injArm && u.injSrc == n && (match u.injAt with
    | some j => decide (tick ≤ u.armedAt j + 32000000)
    | none => true)

/-- The armed injection hits (R383, R384). -/
def Fcu.hit (u : Fcu) (tick : Nat) : Fcu :=
  { u with injArm := false, injHit := true, injAt := none
           injJobs := match u.injAt with
             | some j => Tbl.set u.injJobs j (u.armedAt j, some (tick - u.armedAt j))
             | none => u.injJobs }

/-- A check by the checker of source n (R383): an armed injection makes a healthy checker report, and a detect-only hit
records nothing else; otherwise a fault is an event. event: what an event of a source does. -/
def State.fcuCheckBy (event : State → Nat → State) (s : State) (n : Nat) (fault : Bool) : State :=
  if s.fcu.armed s.tick n then
    let s := s.updFcu fun u => u.hit s.tick
    if s.fcu.injMode then event s n else s
  else if fault then event s n else s

/-- The check by the checker of source n ends in an event (R383). -/
def State.checkHits (s : State) (n : Nat) (fault : Bool) : Bool := if s.fcu.armed s.tick n then s.fcu.injMode else fault

/-- FCU_FIRST and FCU_LAST record the lowest-numbered of the sources that have had events in one cycle (R370). first: FCU_FIRST
before the cycle. -/
def State.oneCycle (s : State) (first : Option Nat) (l : List Nat) : State :=
  match l.min? with
  | none => s
  | some n => s.updFcu fun u => { u with last := some n, first := first.or (some n) }

/-- The checks of one cycle: sources, and whether each checker found a fault (R370, R383). event: what an event of a source does. -/
def State.fcuChecksBy (event : State → Nat → State) (s : State) (l : List (Nat × Bool)) : State :=
  let r := l.foldl (fun (a : State × List Nat) e =>
    (a.1.fcuCheckBy event e.1 e.2, if a.1.checkHits e.1 e.2 then e.1 :: a.2 else a.2)) (s, ([] : List Nat))
  r.1.oneCycle s.fcu.first r.2

/-- Outcomes of the reads of ECC words, before anything is written. -/
def State.outcomes (s : State) (l : List (Nat × Nat)) : List (Nat × Nat × Nat) :=
  l.map fun e => (e.1, e.2, (s.eccRead e.1 e.2).2.2)

/-- The word to record of the reads of one cycle with outcome o: the one in the lowest MEM (R274). -/
def lowestMem (o : Nat) (l : List (Nat × Nat × Nat)) (old : Option (Nat × Nat)) : Option (Nat × Nat) :=
  l.foldl (fun best e =>
    if e.2.2 ≠ o then best else
    match best with
    | none => some (e.1, e.2.1)
    | some b => if b.1 < e.1 then best else some (e.1, e.2.1)) none <|> old

/-- The events of the reads of one cycle with these outcomes (R261, R274). event: what an event of a source does. -/
def State.eccEventsBy (event : State → Nat → State) (s : State) (l : List (Nat × Nat × Nat)) : State :=
  let s := s.fcuChecksBy event (l.flatMap fun e => [(ceSource e.1 e.2.1, e.2.2 == 1), (ueSource e.1 e.2.1, e.2.2 == 2)])
  s.updEcc fun e => { e with lastCe := lowestMem 1 l e.lastCe, lastUe := lowestMem 2 l e.lastUe }

/-- A state with the outcomes of the ECC reads made on the way to it, whose events are still to come: those of one cycle are
taken together (R274, R370). -/
abbrev WithReads := State × List (Nat × Nat × Nat)

/-- Something more is done, and its reads join. -/
def WithReads.andThen (x : WithReads) (f : State → WithReads) : WithReads :=
  let y := f x.1
  (y.1, x.2 ++ y.2)

/-- Done for each of a list, in order. -/
def State.forEach {α : Type} (s : State) (l : List α) (f : State → α → WithReads) : WithReads :=
  l.foldl (fun (x : WithReads) a => x.andThen fun s => f s a) (s, [])

/-- One of these bytes of an ECC word is poisoned. -/
def tagOf (m : Nat) (bs : Nat → Option PByte) : Bool := (List.range (wordBytes m)).any fun i => ((bs i).map (·.2)).getD false

/-- A merge write of an ECC word (R249, R260, R123): it reads the word first and is poisoned when that read is. -/
def State.mergeWrite (s : State) (m w : Nat) (bs : Nat → Option PByte) : WithReads :=
  let r := s.eccRead m w
  (s.writeWord m w (mergeBytes r.1 (wordBytes m) fun i => (bs i).map (·.1)) (r.2.1 || tagOf m bs), [(m, w, r.2.2)])

/-- One ECC word written with bytes in place of its own (R249): a word wholly written is stored plain; another is a merge write. -/
def State.putBytes (s : State) (m w : Nat) (bs : Nat → Option PByte) : WithReads :=
  if (List.range (wordBytes m)).all fun i => (bs i).isSome then
    (s.writeWord m w (mergeBytes 0 (wordBytes m) fun i => (bs i).map (·.1)) (tagOf m bs), [])
  else s.mergeWrite m w bs

/-- The wires of a port, or of the pair that it leads, carry nothing: what a block reset does to a port without a train (R319). -/
def State.portQuiet (s : State) (n : Nat) : State :=
  let dual := (s.port n).dualNow
  let s := s.updPort n fun p => { p with wire := [] }
  if dual then s.updPort (n + 1) fun p => { p with wire := [], rxd := none } else s

/-- A slot record that a block reset writes (R304, R249), with the events of the merge writes among its words: a port that they reset has no
train any more. -/
def State.resetRecord (s : State) (off : Nat) (b : List Byte) : State :=
  let pd : List PByte := b.map fun x => (x, false)
  let w := s.forEach (wordsOf 0x86 off b.length) fun s w => s.putBytes 0x86 w (byteFor 0x86 off pd w)
  w.1.eccEventsBy (State.fcuEventBy State.portQuiet) w.2

/-- Block reset of chain port n (R319): the train in flight completes at once, as by timeout, with the copies that have been received
whole (R301, R317, log 24), and the port sends IDLE. -/
def State.portBlockReset (s : State) (n : Nat) : State :=
  let got (k : Nat) : List PChar := (s.port k).rxd.getD []
  let slots := match (s.port n).train with
    | some t => t.slots (got n) (if (s.port n).dualNow then got (n + 1) else [])
    | none => []
  (s.completeTrain State.resetRecord n slots true).portQuiet n

/-- An event of FCU source n (R370 to R376, R380, R385). -/
def State.fcuEvent (s : State) (n : Nat) : State := s.fcuEventBy State.portBlockReset n

/-- A check by the checker of source n (R383). -/
def State.fcuCheck (s : State) (n : Nat) (fault : Bool) : State := s.fcuCheckBy State.fcuEvent n fault

/-- The checks of one cycle: sources, and whether each checker found a fault (R370, R383). -/
def State.fcuChecks (s : State) (l : List (Nat × Bool)) : State := s.fcuChecksBy State.fcuEvent l

/-- The events of the reads of one cycle with these outcomes (R261, R274). -/
def State.eccEvents (s : State) (l : List (Nat × Nat × Nat)) : State := s.eccEventsBy State.fcuEvent l

/-- The events of those reads come (R274, R370). -/
def WithReads.told (x : WithReads) : State := x.1.eccEvents x.2

/-- ERR_N is driven low (R378). -/
def State.errLow (s : State) : Bool :=
  s.fcu.fatal || !s.cairn.ready || s.pwr.scanen ||
    s.fcu.srcs.any fun e => e.2.sticky && (e.2.mask.getD (maskReset e.1)).getLsbD 4

/-- FCU source of a halt cause (Table 17-1, ridge sources). -/
def haltSource (cause : Nat) : Option Nat :=
  if cause = 1 ∨ cause = 2 ∨ cause = 3 then some 2 else if cause = 4 then some 3 else if cause = 5 then some 1 else none

/-- Ridge r halts (R163, R167), with events whose own halt cause would be higher (R375): they find the ridge halted. The source of a
comparison halt accepts injection (R383). -/
def State.haltWith (s : State) (r cause : Nat) (events : State → State) : State :=
  if (s.ridge r).st != .running then events s else
  let s := events (s.haltCore r cause)
  match haltSource cause with
  | some o => s.fcuCheck (0x800 + 8 * r + o) true
  | none => s

/-- Ridge r halts (R163, R167). -/
def State.haltRidge (s : State) (r cause : Nat) : State := s.haltWith r cause fun s => s

/-- An error response arrives at ridge r (R46, R47). -/
def State.recordError (s : State) (r kind : Nat) (write : Bool) (addr : Word) : State :=
  s.updRidge r fun x =>
    if x.aeValid then { x with aeCount := satInc 8 x.aeCount }
    else { x with aeValid := true, aeKind := kind, aeWrite := write, aeAddr := addr, aeCount := 0 }

/-- The events of a read of an ECC word with this outcome (R261, R274). -/
def State.eccEvent (s : State) (m w o : Nat) : State :=
  let s := if o = 1 then s.updEcc fun e => { e with lastCe := some (m, w) }
    else if o = 2 then s.updEcc fun e => { e with lastUe := some (m, w) } else s
  (s.fcuCheck (ceSource m w) (o == 1)).fcuCheck (ueSource m w) (o == 2)

/-- A read of an ECC word by a user (R261, R274): data, poison tag and the state with its events. -/
def State.readWord (s : State) (m w : Nat) : Nat × Bool × State :=
  let (d, p, o) := s.eccRead m w
  (d, p, s.eccEvent m w o)

/-- A read of n bytes at an offset of memory MEM, in one cycle: bytes with their tags, and the outcomes of its words. -/
def State.peekBytes (s : State) (m off n : Nat) : List PByte × List (Nat × Nat × Nat) :=
  let ws := (wordsOf m off n).map fun w => (w, s.eccRead m w)
  ((List.range n).map fun i =>
    let e := Tbl.get (0, false, 0) ws ((off + i) / wordBytes m)
    (BitVec.ofNat 8 (e.1 / 256 ^ ((off + i) % wordBytes m)), e.2.1), ws.map fun e => (m, e.1, e.2.2.2))

/-- The same read as a user makes it, with the events of its words (R261, R274, R370). -/
def State.readBytes (s : State) (m off n : Nat) : List PByte × State :=
  let r := s.peekBytes m off n
  (r.1, s.eccEvents r.2)

/-- A write of bytes with their tags (R249, R260, R123), in one cycle. -/
def State.writeBytes (s : State) (m off : Nat) (data : List PByte) : State :=
  (s.forEach (wordsOf m off data.length) fun s w => s.putBytes m w (byteFor m off data w)).told

/-- Byte i of word w among those written at off that a mask keeps; an empty mask keeps all. -/
def maskedByte (m off : Nat) (data : List PByte) (mask : List Bool) (w i : Nat) : Option PByte :=
  if mask.isEmpty || mask[w * wordBytes m + i - off]? == some true then byteFor m off data w i else none

/-- A write of those bytes, in one cycle: each word that keeps one takes them in one write (R249, R272). -/
def State.writeMasked (s : State) (m off : Nat) (data : List PByte) (mask : List Bool) : State :=
  let bytes := maskedByte m off data mask
  let ws := (wordsOf m off data.length).filter fun w => (List.range (wordBytes m)).any fun i => (bytes w i).isSome
  (s.forEach ws fun s w => s.putBytes m w (bytes w)).told

end Sys2Proof.Machine
end

