-- ==== Sys2Proof/Machine/Engine.lean ====
section
/-!
DEFINITION. GP pin levels (19), the launch of a train (13), and what the firing of an occurrence does (10).
-/

namespace Sys2Proof.Machine

/-- Ridge r drives its outputs: RUNNING with OUTEN = 1 (R163, R164). -/
def State.outputsLive (s : State) (r : Nat) : Bool := (s.ridge r).running && (s.ridge r).outen

/-- The level that SAFE gives a pin; none is high impedance (Table 19-11). -/
def GpPin.safeLevel (g : GpPin) : Option Bool :=
  if g.safe = 0 then some false else if g.safe = 1 then some true else none

/-- The level that pin p drives; none is high impedance (R380, R416, R417, R426). -/
def State.gpLevel (s : State) (p : Nat) : Option Bool :=
  let g := s.gp p
  if s.pwr.st == .off then none
  else if g.src = 4 then (if s.fcu.fatal then none else some s.pwr.vret)
  else if s.fcu.fatal || !s.cairn.ready then g.safeLevel
  else if g.src = 0 then none
  else
    let live := match g.owner with
      | some r => s.outputsLive r
      | none => g.src != 1
    if live then some g.out else g.safeLevel

/-- The engine that SRC names may act on pin p (R230, R163, R164). -/
def State.pinLive (s : State) (p src : Nat) : Bool :=
  let g := s.gp p
  let live := match g.owner with
    | some r => s.outputsLive r
    | none => true
  g.src == src && live && !s.fcu.fatal && decide (p < 95)

/-- A level after ACT 0 low, 1 high, 2 toggle (Table 12-3). -/
def actLevel (level : Bool) (act : Nat) : Bool := if act = 0 then false else if act = 1 then true else !level

/-- OUT after an action of a tick that would give it a level: in a tick in which the owner has written OUT, the owner's level stands
(R426, R43). -/
def GpPin.acted (g : GpPin) (tick : Nat) (level : Bool) : Bool := if g.swAt = some tick then g.out else level

/-- A pin action of the fabric (R230, Table 12-3). Answers whether it acted. -/
def State.pinAct (s : State) (p act src : Nat) : State × Bool :=
  if s.pinLive p src then (s.updGp p fun g => { g with out := g.acted s.tick (actLevel g.out act) }, true) else (s, false)

/-- An AST action on a pin (R229): the actions of one tick apply in ascending entry index to the level before that tick. -/
def GpPin.astAct (g : GpPin) (tick entry act : Nat) : GpPin :=
  let old : Bool × List (Nat × Nat) := match g.acts with
    | some (t, base, l) => if t = tick then (base, l) else (g.out, [])
    | none => (g.out, [])
  let l := old.2.filter (fun a => decide (a.1 ≤ entry)) ++ (entry, act) :: old.2.filter (fun a => decide (entry < a.1))
  { g with acts := some (tick, old.1, l), out := g.acted tick (l.foldl (fun v a => actLevel v a.2) old.1) }

/-- A chain port is running (R299). -/
def State.portRunning (s : State) (n : Nat) : Bool :=
  let p := s.port n
  p.en && (p.st == 2 || p.st == 3 || p.st == 5) && !s.fcu.fatal

/-- Ports 2i and 2i + 1 form a dual ring (R315, R435). -/
def State.dualPair (s : State) (n : Nat) : Bool := (s.port (n / 2 * 2)).dualNow

/-- The odd port of a dual ring launches nothing of its own (R315). -/
def State.launches (s : State) (n : Nat) : Bool := s.portRunning n && !(s.dualPair n && n % 2 == 1)

/-- The header of a train says SAFE (R302). -/
def State.trainSafe (s : State) (n : Nat) : Bool :=
  s.pwr.st != .run || (match (s.port n).owner with
    | some r => !s.outputsLive r
    | none => true)

/-- A launch is refused (R300). -/
def State.refuseLaunch (s : State) (n : Nat) : State :=
  (s.updPort n fun p => { p with refused := satInc 16 p.refused, refu := true }).fcuEvent (0xC00 + 8 * n + 3)

/-- Bytes 1 to 10 of a process train's header (Table 13-3). -/
def trainHeader (safe late skip evp : Bool) (desc seq occ lag : Nat) : List Byte :=
  BitVec.ofNat 8 (128 * b2n safe + 64 * b2n late + 32 * b2n skip + 16 * b2n evp + desc % 16) :: BitVec.ofNat 8 seq ::
    (bytesBE 5 occ ++ bytesBE 3 lag)

/-- Entry i is presented to a port before the launch whose train is in flight, in the same tick (R229). -/
def Train.after (t : Train) (tick i : Nat) : Bool := t.tick == tick && decide (i < t.entry) && !t.sent

/-- A word of the chain buffers as it stands before a user's write of this tick is kept for the tick's snapshots (R23). -/
def State.noteChain (s : State) (w : Nat) : State :=
  let old := (s.port (w / 2048)).undo
  let l := if old.1 = s.tick then old.2 else []
  if l.any fun e => e.1 == w then s
  else s.updPort (w / 2048) fun p => { p with undo := (s.tick, (w, s.wordData 0x86 w, (s.memSyn 0x86 w).toNat) :: l) }

/-- The device with port n's buffer as it stood at the start of this tick (R23). -/
def State.chainWas (s : State) (n : Nat) : State :=
  let u := (s.port n).undo
  if u.1 = s.tick then u.2.foldl (fun (s : State) e => s.storeWord 0x86 e.1 e.2.1 e.2.2) s else s

/-- Port n takes a train (R299, R303): the snapshot is taken, without what users write in this tick (R23), and the port becomes busy. -/
def State.takeTrain (s : State) (n desc entry occ lag : Nat) (late skip : Bool) : State :=
  let p := s.port n
  let d := Tbl.get Desc.reset p.descs desc
  let stride := (d.d + 7) / 8 * 8
  let reads := (List.range p.nodes).map fun k => (s.chainWas n).peekBytes 0x86 (n * 0x4000 + d.dbase + k * stride) d.d
  let cmds := reads.map fun b => (b.1.map (·.1), b.1.any (·.2))
  let seq := (p.launched + 1) % 256
  let safe := s.trainSafe n
  let s := (s.eccEvents (reads.flatMap (·.2))).updPort n fun p =>
    { p with launched := seq, evp := false
             train := some { desc := desc, seq := seq, safe := safe, late := late, skip := skip, evp := p.evp, occ := occ,
                             lag := lag, cmds := cmds, sent := false, tick := s.tick, entry := entry, d := d.d, u := d.u,
                             ubase := d.ubase, n := p.nodes,
                             header := trainHeader safe late skip p.evp desc seq occ lag } }
  if cmds.any (·.2) then s.fcuEvent (0xC00 + 8 * n + 4) else s

/-- A CHAIN_TRAIN action fires on port n (R299): the port takes the train or refuses the launch. Of launches in one tick the one of
the lowest entry index is taken, whichever comes first here (R229). -/
def State.launch (s : State) (n desc entry occ lag : Nat) (late skip : Bool) : State :=
  let p := s.port n
  if !s.launches n || !(Tbl.get Desc.reset p.descs desc).en then s.refuseLaunch n
  else match p.train with
    | none => s.takeTrain n desc entry occ lag late skip
    | some t =>
      if t.after s.tick entry then
        ((s.updPort n fun p => { p with train := none, launched := (p.launched + 255) % 256, evp := t.evp }).takeTrain
          n desc entry occ lag late skip).refuseLaunch n
      else s.refuseLaunch n

/-- The held angle of a domain: 40 bits; OFF reads zero (R206). -/
def Domain.held (d : Domain) : Nat := if d.st == .off then 0 else d.phase / 2 ^ 22

/-- FRAC of a domain. -/
def Domain.frac (d : Domain) : Nat := d.held % 2 ^ 24

/-- CYC of a domain. -/
def Domain.cyc (d : Domain) : Nat := d.held / 2 ^ 24

/-- Code of a domain state (Table 9-4). -/
def AdSt.code : AdSt → Nat
  | .off => 0 | .acquire => 1 | .track => 2 | .locked => 3 | .holdover => 4 | .lost => 5 | .free => 6

/-- Angle a lies at or behind angle b, modulo 2^40. -/
def atOrBehind (a b : Nat) : Bool := decide ((b + 2 ^ 40 - a % 2 ^ 40) % 2 ^ 40 < 2 ^ 39)

/-- Angle a lies ahead of FM (R226). -/
def aheadOf (a fm : Nat) : Bool :=
  let x := (a + 2 ^ 40 - fm % 2 ^ 40) % 2 ^ 40
  decide (1 ≤ x ∧ x ≤ 2 ^ 39 - 1)

/-- The firing gate of a domain (R209). -/
def Domain.gate (d : Domain) : Bool := d.st != .off && (d.cfg.fire || d.st == .locked || d.st == .holdover)

/-- Capture unit x has had a trigger in this tick, which it may have taken already (R215). -/
def CapUnit.triggered (x : CapUnit) (tick : Nat) : Bool :=
  (x.trigs.any fun t => t.tick == tick) || x.recTick == some tick || (match x.lost with
    | some e => e.1.tick == tick
    | none => false)

/-- A trigger reaches capture unit u (R215, R216): triggers of one tick count as one. -/
def State.trigger (s : State) (u : Nat) : State :=
  s.updCap u fun x =>
    if x.triggered s.tick then x
    else
      let d := match x.was with
        | some w => if s.tick ≤ w.1 then w.2.2.2 else x.domain
        | none => x.domain
      { x with trigs := x.trigs ++ [{ tick := s.tick, domain := d, rec_ := none }] }

/-- An AST line pulses, once in a tick (R229). -/
def State.astLine (s : State) (l : Nat) : State :=
  if Tbl.find s.ast.lines l = some s.tick then s
  else { s with ast := { s.ast with lines := Tbl.set s.ast.lines l s.tick } }.pulse l

/-- The action of an occurrence of domain d (R219, R228 to R230). -/
def State.astAction (s : State) (d : Nat) (o : Comp) : State :=
  let kind := bitsOf o.w0.toNat 31 28
  let tgt := bitsOf o.w1.toNat 15 0
  let par := bitsOf o.w1.toNat 31 16
  if kind = 1 then s.astLine (tgt % 128)
  else if kind = 2 then
    s.launch (tgt % 64) (par % 16) o.entry o.angle (((s.dom d).held + 2 ^ 40 - o.angle) % 2 ^ 24) o.late o.skip
  else if kind = 3 then
    if s.pinLive (tgt % 128) 2 then s.updGp (tgt % 128) fun g => g.astAct s.tick o.entry (par % 4)
    else s.updDom d fun x => { x with discCnt := satInc 16 x.discCnt }
  else if kind = 4 then s.trigger (tgt % 32)
  else s

/-- What a LATE or SKIP firing records (R228, R242). -/
def State.noteFlags (s : State) (d : Nat) (o : Comp) : State :=
  if o.skip then s.updDom d fun x =>
    { x with skip := true, skipCnt := satInc 16 x.skipCnt, last := some (true, o.entry) }
  else if o.late then
    (s.updDom d fun x => { x with late := true, lateCnt := satInc 16 x.lateCnt, last := some (false, o.entry) }).fcuEvent
      (0xF00 + 4 * d + 2)
  else s

/-- FM as the firings of this tick find it: those of one tick are simultaneous (R226, R229). -/
def Domain.fmAt (d : Domain) (tick : Nat) : Nat := if d.fmTick = some tick then d.fmWas else d.fm

/-- FM after the firing of an occurrence (R226), and the entries that have fired at the angle which FM holds. -/
def Domain.markFired (d : Domain) (tick : Nat) (o : Comp) : Domain :=
  { d with fmWas := d.fmAt tick, fmTick := some tick, fm := if aheadOf o.angle d.fm then o.angle else d.fm
           fmEnts := if aheadOf o.angle d.fm then [o.entry] else if o.angle = d.fm then o.entry :: d.fmEnts else d.fmEnts }

/-- FM lets an occurrence fire (R226). DESIGN CHOICE (log 41): one at the very angle of FM fires too where another entry's firing has
put FM there, as the example of R232 and the last clause of R233 have it. -/
def Domain.unfired (d : Domain) (tick : Nat) (o : Comp) : Bool :=
  aheadOf o.angle (d.fmAt tick) || (o.angle == d.fm && !d.fmEnts.isEmpty && !d.fmEnts.contains o.entry)

/-- Occurrence o of domain d leaves its comparator (R222, R226): one that FM holds back, or met by a closed gate, does nothing. -/
def State.fireOcc (s : State) (d : Nat) (o : Comp) : State :=
  if !(s.dom d).unfired s.tick o then s
  else if !(s.dom d).gate then s
  else ((s.updDom d fun x => x.markFired s.tick o).noteFlags d o).astAction d o

/-- An armed occurrence is loaded into a comparator, or dropped (R226, R227, R233). -/
def State.loadOcc (s : State) (d : Nat) (o : Comp) : State :=
  let x := s.dom d
  let behind := atOrBehind o.angle x.held
  let dist := (x.held + 2 ^ 40 - o.angle) % 2 ^ 40
  if behind && decide (dist > 2 ^ 24) then
    (s.updDom d fun x => { x with drop := true, dropCnt := satInc 16 x.dropCnt }).fcuEvent (0xF00 + 4 * d + 2)
  else
    let inStep := x.steps.any fun r => aheadOf o.angle r.1 && atOrBehind o.angle r.2
    let o := { o with tick := s.tick, late := behind && !inStep, skip := behind && inStep }
    s.updDom d fun x => { x with comps := x.comps ++ [o], peak := max x.peak (x.comps.length + 1) }

end Sys2Proof.Machine
end

