-- ==== Sys2Proof/Machine/Angle.lean ====
section
/-!
DEFINITION. Time and the angle domains (chapter 9): engine ticks, steps, reference events, the tracking loop, states,
offsets and commits.
-/

namespace Sys2Proof.Machine

/-- The accumulator moved by a signed number of sub-au units: boundaries crossed for the first time become due, in tick `at_` or
after the ones that are due already, and a move back across a boundary is remembered (R195, R210). -/
def Domain.move (d : Domain) (delta : Int) (at_ : Nat) : Domain :=
  let x : Int := (d.phase : Int) + delta
  let dc : Int := x / (2 ^ 46 : Int) - ((d.phase / 2 ^ 46 : Nat) : Int)
  let fwd := dc.toNat
  { d with phase := (x % (2 ^ 62 : Int)).toNat
           due := d.due + (fwd - d.back)
           dueTick := if d.due = 0 then at_ else d.dueTick
           turns := d.turns + ((fwd - d.back : Nat) : Int)
           back := if 0 ≤ dc then d.back - fwd else d.back + (-dc).toNat }

/-- k engine ticks of a domain, up to tick now (R195). -/
def Domain.ticks (d : Domain) (k now : Nat) : Domain :=
  if d.st == .off then d
  else
    { d.move ((d.freq * k : Nat) : Int) now with
      heldWas := (d.phase + d.freq * (k - 1)) % 2 ^ 62 / 2 ^ 22
      adv := d.adv + d.freq * k, evs := d.evs.map fun e => { e with adv := e.adv + d.freq * k } }

/-- What the device clock adds at an edge, in units of 2^-32 ns: 8 ns and the adjustment (R326). -/
def Ptp.rate (p : Ptp) : Int := 8 * ((2 ^ 32 : Int) + p.adj.toInt)

/-- k engine ticks of the device clock: at every 8 ns edge what PTP_ADJ gives, and a waiting step at the first (R326). -/
def Ptp.ticks (p : Ptp) (k : Nat) : Ptp :=
  let total := p.phase + 25 * k
  let edges := total / 64
  if edges = 0 then { p with phase := total } else
  let t : Int := (p.frac : Int) + (edges : Int) * p.rate
  let ns : Int := (p.ns : Int) + t / (2 ^ 32 : Int) + p.step
  { p with phase := total % 64
           frac := (t % (2 ^ 32 : Int)).toNat
           ns := (ns % (1000000000 : Int)).toNat
           sec := (((p.sec : Int) + ns / (1000000000 : Int)) % (2 ^ 48 : Int)).toNat
           step := 0 }

/-- Engine ticks until the device clock comes to its next second (R203, R326). -/
def Ptp.untilSecond (p : Ptp) : Nat :=
  let left : Int := (1000000000 - (p.ns : Int) - p.step) * 2 ^ 32 - (p.frac : Int)
  let edges := max 1 ((left + p.rate - 1) / p.rate).toNat
  (64 * edges - p.phase + 24) / 25

/-- A change of a domain's STATE with its two pulses (R208); the run of events starts again. -/
def State.setDom (s : State) (d : Nat) (st : AdSt) : State :=
  if (s.dom d).st == st then s
  else ((s.updDom d fun x => { x with st := st, run := 0 }).pulse (136 + d)).line (0x240 + d)

/-- A domain starts over in ACQUIRE, or in FREE without a source (Table 9-5). -/
def State.domAcquire (s : State) (d : Nat) : State :=
  (s.updDom d fun x => { x with slew := 0, freq := x.cfg.fnom, prevTs := none, adv := 0, run := 0 }).setDom d
    (if (s.dom d).cfg.src = 0 then .free else .acquire)

/-- The fields whose change starts the domain over (Table 9-5). -/
def AdCfg.restartKey (c : AdCfg) : List Nat :=
  [c.src, c.pin, c.edge.toNat, c.evpc, c.feeder, b2n c.fv, c.num, c.den]

/-- A step or a commit of this tick discards the events that wait since an earlier tick; one of this tick is measured against the
angle held after it (R198, R213). -/
def Domain.disturb (d : Domain) (tick : Nat) : Domain :=
  { d with evs := d.evs.map fun e => if e.ts < tick then { e with spoiled := true } else { e with angle := d.held } }

/-- A signed difference of two cycle numbers. -/
def cycDiff (a b : Nat) : Int := ((a : Int) - (b : Int) + 2 ^ 15) % (2 ^ 16 : Int) - 2 ^ 15

/-- CYC is set (R203, Table 9-5). DESIGN CHOICE (log 45): that crosses no boundary, so no pulse, offset or commit comes of it, and no
boundary that follows counts as crossed before; R210 says neither. -/
def Domain.setCyc (d : Domain) (c : Nat) : Domain :=
  { d with phase := c % 2 ^ 16 * 2 ^ 46 + d.phase % 2 ^ 46, back := 0, turns := d.turns - d.back }

/-- The accumulator returns to 0 (Table 9-5). Edges that a commit has discarded still wait for the ticks in which they would have
counted (R198). -/
def Domain.zero (d : Domain) : Domain :=
  { d.setCyc 0 with
    phase := 0, heldWas := 2 ^ 40 - 1, slew := 0, comps := [], hold := none, cur := [], due := 0
    evs := (d.evs.filter fun e => e.spoiled && !e.rev || e.ptp).map fun e => { e with angle := 0 } }

/-- Cycle c is valid under the word W2 of an entry (R221). -/
def validIn (w2 c : Nat) : Bool :=
  decide ((c + 2 ^ 16 - bitsOf w2 15 0) % 2 ^ 16 ≤ (bitsOf w2 31 16 + 2 ^ 16 - bitsOf w2 15 0) % 2 ^ 16)

/-- Cycles of a domain at cycle c to the end of the next one that VALID_UNTIL of an entry names (R221, R240). -/
def AstLink.cyclesLeft (l : AstLink) (c : Nat) : Nat := (bitsOf l.w2.toNat 31 16 + 2 ^ 16 - c) % 2 ^ 16 + 1

/-- The last valid cycle of a linked entry of domain y, whose CYC has been set from c (R240). DESIGN CHOICE (log 45): the next cycle that
VALID_UNTIL names, where the count starts over, where the entry is valid, and where it was still to become so and VALID_FROM
lies at most 32,767 cycles ahead; any other entry has had its last valid cycle. -/
def AstLink.recount (l : AstLink) (y : Domain) (c : Nat) (anew : Bool) : AstLink :=
  let now : Int := y.turns - (y.back : Int)
  let w2 := l.w2.toNat
  { l with ends := l.ends.map fun u =>
      if u ≤ now then u
      else if anew || validIn w2 y.cyc || (!validIn w2 c && decide ((bitsOf w2 15 0 + 2 ^ 16 - y.cyc) % 2 ^ 16 ≤ 32767)) then
        now + Int.ofNat (l.cyclesLeft y.cyc)
      else now }

/-- CYC of domain d has been set from c: its linked entries' last valid cycles follow (R240). -/
def State.recount (s : State) (d c : Nat) (anew : Bool) : State :=
  { s with ast := { s.ast with links := s.ast.links.map fun (e : Nat × AstLink) =>
      (e.1, if bitsOf e.2.w0.toNat 26 24 = d then e.2.recount (s.dom d) c anew else e.2) } }

/-- The whole staged copy becomes active (R212, Table 9-5). -/
def State.adCommit (s : State) (d : Nat) : State :=
  let x := s.dom d
  let old := x.cfg
  let s := s.updDom d fun x => { x.disturb s.tick with cfg := x.stg, commitReq := false }
  if !x.stg.en then
    ((s.updDom d fun y => { y.zero with freq := 0 }).setDom d .off).recount d x.cyc true
  else if x.st == .off then
    ((s.updDom d fun x =>
      { x.zero with fb := x.cfg.fnom, fm := 2 ^ 40 - 1, fmEnts := [], fmTick := none, pos := 2 ^ 28 - 1, rdBin := 2 ^ 28 - 1,
                    steps := [] }).domAcquire d).recount d x.cyc true
  else if old.restartKey != x.stg.restartKey then s.domAcquire d
  else if x.st == .acquire || x.st == .lost || x.st == .free then
    s.updDom d fun x => { x with freq := x.cfg.fnom }
  else s

/-- Engine ticks until a domain has advanced a number of sub-au units. -/
def Domain.ticksFor (d : Domain) (sub : Nat) : Nat := if d.freq = 0 then 0 else (sub + d.freq - 1) / d.freq

/-- FMIN and FMAX (R205). -/
def AdCfg.limits (c : AdCfg) : Nat × Nat :=
  (max 21990 (c.fnom - c.fnom * c.tol / 2 ^ 16), min 1099511628 (c.fnom + c.fnom * c.tol / 2 ^ 16))

/-- A word clamped, and whether the clamp changed it (R205). -/
def AdCfg.clamp (c : AdCfg) (x : Int) : Nat × Bool :=
  let y := (max (c.limits.1 : Int) (min (c.limits.2 : Int) x)).toNat
  (y, (y : Int) != x)

/-- wrap24 of R199. -/
def wrap24 (x : Int) : Int := (x + 2 ^ 23) % (2 ^ 24 : Int) - 2 ^ 23

/-- N, the reference events in a cycle (R197). -/
def AdCfg.n (c : AdCfg) : Nat := c.evpc + 1

/-- The phase error against the nearest expected position, the lower k on a tie (R199). -/
def nearestError (phase frac n : Nat) : Int :=
  (List.range n).foldl (fun best k =>
    let e := wrap24 (((phase + k * 2 ^ 24 / n) % 2 ^ 24 : Nat) - (frac : Int))
    if e.natAbs < best.natAbs then e else best)
    (wrap24 ((phase % 2 ^ 24 : Nat) - (frac : Int)))

/-- Entry to LOST (R204, R208, Table 9-5). -/
def State.domLost (s : State) (d : Nat) : State :=
  ((s.updDom d fun x => { x with slew := 0, freq := x.cfg.fnom }).setDom d .lost).fcuEvent (0xF00 + 4 * d + 1)

/-- fb is given up for FNOM, which Table 9-5 says of HOLDOVER to LOST; DEDUCED (log 12) of TRACK and LOCKED to LOST, which
HOLD = 0 makes one transition of those two. -/
def State.dropBase (s : State) (d : Nat) : State := s.updDom d fun x => { x with fb := x.cfg.fnom }

/-- Entry to HOLDOVER (Table 9-5, R208). -/
def State.domHoldover (s : State) (d : Nat) : State :=
  ((s.updDom d fun x => { x with slew := 0, freq := x.fb, holds := 0 }).setDom d .holdover).fcuEvent (0xF00 + 4 * d)

/-- The effect of a step on the schedule (R233 to R235); before is the angle before it. The step range of a forward step begins behind
the angle held in the tick before, as Table 10-5 has it, which counts what the tick itself adds; DEDUCED (log 41). After a backward
step of the same tick it begins behind the angle which that one left. -/
def Domain.afterStep (d : Domain) (tick before : Nat) (delta : Int) (resync : Bool) : Domain :=
  let d := d.disturb tick
  if resync then
    { d with comps := [], hold := none, cur := [], fm := d.held, fmEnts := [], fmTick := none, resync := true, steps := []
             pos := (d.held / 2 ^ 12 + 2 ^ 28 - 1) % 2 ^ 28, rdBin := (d.held / 2 ^ 12 + 2 ^ 28 - 1) % 2 ^ 28 }
  else if 0 < delta then
    let start := if atOrBehind d.heldWas before then d.heldWas else before
    { d with steps := d.steps ++ [(start, d.held)]
             comps := d.comps.map fun o =>
               if aheadOf o.angle start && atOrBehind o.angle d.held then { o with skip := true } else o }
  else d

/-- A resynchronisation carries the domain of the running batch to bin 4,095 of cycle X - 1 or later (R239). -/
def State.noteOverrun (s : State) (d : Nat) : State :=
  if s.ast.busy && s.ast.editDom == d
      && atOrBehind ((s.ast.xcyc + 2 ^ 16 - 1) % 2 ^ 16 * 2 ^ 24 + 0xFFF000) (s.dom d).held then
    { s with ast := { s.ast with tooFar := true } }
  else s

/-- A step of the angle by delta au (R210, R211); a PTP acquisition also sets CYC. A boundary that it crosses for the first time
is handled in the next tick (R213). -/
def State.stepAngle (s : State) (d : Nat) (delta : Int) (setCyc : Option Nat) : State :=
  let resync := setCyc.isSome || decide (2 ^ 23 ≤ delta.natAbs)
  let c := (s.dom d).cyc
  let s := s.updDom d fun x =>
    let y := x.move (delta * 2 ^ 22) (s.tick + 1)
    (match setCyc with
      | some c => y.setCyc c
      | none => y).afterStep s.tick x.held delta resync
  let s := if setCyc.isSome then s.recount d c false else s
  if resync then s.noteOverrun d else s

/-- The loop update of R204 for an error e and an interval of t ticks. -/
def Domain.loopUpdate (d : Domain) (e : Int) (t : Nat) : Domain :=
  let w : Int := e * 2 ^ 22 / (t : Int)
  let (fb, c1) := d.cfg.clamp ((d.fb : Int) + w / (2 ^ d.cfg.ki : Int))
  let slew : Int := w / (2 ^ d.cfg.kp : Int)
  let (f, c2) := d.cfg.clamp ((fb : Int) + slew)
  { d with fb := fb, slew := slew, freq := f, clamp := d.clamp || c1 || c2 }

/-- The update that an accepted event makes, if it has a predecessor with another timestamp (R204). -/
def Domain.accepted (d : Domain) (e : Int) (ts : Nat) : Domain :=
  let d := match d.prevTs with
    | some p => if ts = p then d else d.loopUpdate e (ts - p)
    | none => d
  { d with prevTs := some ts }

/-- AD_FREQ of a domain that enters TRACK by an acquisition: fb + slew, clamped (R205, Table 9-4). -/
def Domain.resume (d : Domain) : Domain :=
  let f := d.cfg.clamp ((d.fb : Int) + d.slew)
  { d with prevTs := none, freq := f.1, clamp := d.clamp || f.2 }

/-- A reference event with phase error e, timestamp ts and the advance since ts is evaluated (R200, R204, R207, R210). setCyc: a
PTP source's CYC at acquisition. -/
def State.evaluate (s : State) (d : Nat) (e : Int) (ts adv : Nat) (setCyc : Option Nat) : State :=
  let x := s.dom d
  if x.st == .off || x.st == .free then s else
  let acquiring := x.st == .acquire || x.st == .lost
  if !acquiring && decide (x.cfg.acc < e.natAbs) then s.updDom d fun x => { x with rej := satInc 16 x.rej }
  else
    let s := s.updDom d fun x => { x with err := BitVec.ofInt 24 e, adv := adv }
    if acquiring then ((s.stepAngle d e setCyc).updDom d Domain.resume).setDom d .track
    else
      let s := s.updDom d fun x => x.accepted e ts
      let inside := decide (e.natAbs ≤ x.cfg.win)
      let need := max 1 x.cfg.lockn
      if x.st == .holdover then s.setDom d .track
      else
        let hit := if x.st == .track then inside else !inside
        let run := if hit then x.run + 1 else 0
        let s := s.updDom d fun x => { x with run := run }
        if need ≤ run then s.setDom d (if x.st == .track then .locked else .track) else s

/-- A staged offset applies at a boundary (R211). -/
def State.adOffset (s : State) (d : Nat) : State :=
  match (s.dom d).offStg with
  | none => s
  | some o =>
    let shift (p : Nat) : Nat := (((p : Int) + o.toInt) % (2 ^ 24 : Int)).toNat
    (s.updDom d fun x =>
      { x with offset := o, offStg := none, cfg := { x.cfg with phase := shift x.cfg.phase },
               stg := { x.stg with phase := shift x.stg.phase } }).stepAngle d o.toInt none

/-- A cycle boundary crossed for the first time is handled (R208, R213, R227). -/
def State.boundary (s : State) (d : Nat) : State :=
  let s := s.updDom d fun x =>
    let floor := (x.cyc + 2 ^ 16 - 2) % 2 ^ 16 * 2 ^ 24 + 0xFFFFFF
    { x with due := x.due - 1, fm := if aheadOf floor x.fm then floor else x.fm
             fmEnts := if aheadOf floor x.fm then [] else x.fmEnts
             holds := if x.st == .holdover then x.holds + 1 else x.holds }
  let s := { s with ast := { s.ast with
    waiting := s.ast.waiting.map fun (e : Nat × Nat × Nat) => if e.2.2 = d then (e.1, (e.2.1 - 1, e.2.2)) else e } }
  let s := (s.pulse (128 + d)).adOffset d
  if (s.dom d).stg == (s.dom d).cfg then s else s.adCommit d

/-- Step 2 of R213, at most n boundaries. -/
def State.boundaries : Nat → State → Nat → State
  | 0, s, _ => s
  | n + 1, s, d =>
    if (s.dom d).due = 0 || decide (s.tick < (s.dom d).dueTick) then s else (s.boundary d).boundaries n d

/-- A second of the device clock, while it is synchronised, is an event under configuration c (R203, R214). -/
def State.hearsPtp (s : State) (c : AdCfg) : Bool := c.src == 4 && s.ptp.synced && s.pwr.st != .brownout && c.den != 0

/-- The second that the device clock has come to is an instant of the active configuration (R203, R213). -/
def State.isInstant (s : State) (x : Domain) : Bool := x.cfg.src == 4 && x.cfg.den != 0 && s.ptp.sec % x.cfg.den == 0

/-- One event of domain d is evaluated (R198, R199, R201, R203): a second of the device clock is none unless the configuration now
active has it for one. -/
def State.takeEvent (s : State) (d : Nat) (ev : RefEv) : State :=
  let x := s.dom d
  let s := s.updDom d fun x => { x with evs := x.evs.erase ev }
  if ev.rev then s.updDom d fun x => { x with rev := true }
  else if ev.spoiled then s.updDom d fun x => { x with rej := satInc 16 x.rej }
  else if ev.ptp && !s.isInstant x then s
  else
    let frac : Nat := ev.angle % 2 ^ 24
    let e := if ev.index || ev.ptp then wrap24 ((x.cfg.phase : Int) - (frac : Int)) else nearestError x.cfg.phase frac x.cfg.n
    s.evaluate d e ev.ts ev.adv (if ev.ptp then some (s.ptp.sec / x.cfg.den * x.cfg.num) else none)

/-- Step 3 of R213, at most n events. -/
def State.events : Nat → State → Nat → State
  | 0, s, _ => s
  | n + 1, s, d =>
    match (s.dom d).evs.find? fun e => decide (e.due ≤ s.tick) with
    | none => s
    | some ev => (s.takeEvent d ev).events n d

/-- Sub-au units of MISS intervals: MISS × 2^24 / N au, or MISS × NUM × 2^24 for PTP, both taken times N (R207). -/
def AdCfg.missSpan (c : AdCfg) : Nat :=
  if c.src = 4 then max 1 c.miss * c.num * 2 ^ 46 else max 1 c.miss * 2 ^ 46

/-- Events per cycle by which the span of R207 is divided. -/
def AdCfg.missDiv (c : AdCfg) : Nat := if c.src = 4 then 1 else c.n

/-- Sub-au units of MISS intervals, whole (R207). -/
def AdCfg.span (c : AdCfg) : Nat := (c.missSpan + c.missDiv - 1) / c.missDiv

/-- A miss of domain d (R207, Table 9-5). -/
def State.domMiss (s : State) (d : Nat) : State :=
  let x := s.dom d
  let s := s.updDom d fun y => { y with missCnt := satInc 16 y.missCnt, adv := y.adv - y.cfg.span }
  match x.st with
  | .acquire => s.domLost d
  | .track | .locked => if x.cfg.hold = 0 then (s.dropBase d).domLost d else s.domHoldover d
  | _ => s

/-- Step 4 of R213: a miss, and the expiry of holdover. -/
def State.expiry (s : State) (d : Nat) : State :=
  let x := s.dom d
  if x.st == .off || x.st == .free then s else
  let s := if x.cfg.span ≤ x.adv then s.domMiss d else s
  let y := s.dom d
  if y.st == .holdover && decide (y.cfg.hold ≤ y.holds) then (s.dropBase d).domLost d else s

/-- Steps 2 and 3 of R213 for domain d; in OFF there are only the edges to count that its last commit has discarded (R198). -/
def State.angleDom (s : State) (d : Nat) : State :=
  let s := if (s.dom d).st == .off then s else s.boundaries (s.dom d).due d
  s.events (s.dom d).evs.length d

/-- What domain d does in this tick after its accumulator, steps 2 to 4 of R213. -/
def State.settleDom (s : State) (d : Nat) : State := (s.angleDom d).expiry d

/-- What every domain does in this tick after its accumulator (R213). -/
def State.settle (s : State) : State := (s.doms.map (·.1)).foldl (fun s d => s.settleDom d) s

/-- Engine ticks until a domain has something to do: a boundary, an event or a miss. -/
def Domain.untilNext (x : Domain) (tick : Nat) : Nat :=
  let bound := if x.due = 0 then x.ticksFor (2 ^ 46 - x.phase % 2 ^ 46 + x.back * 2 ^ 46) else x.dueTick - tick
  let miss := if x.st == .free then bound else x.ticksFor (x.cfg.span - x.adv)
  max 1 (x.evs.foldl (fun k e => min k (e.due - tick)) (min bound miss))

/-- A domain takes events from the device clock (R203, R214). -/
def State.listens (s : State) (x : Domain) : Bool := x.st != .off && x.st != .free && s.hearsPtp x.cfg

/-- A commit of this domain takes effect in the next tick: it is OFF and Cairn has requested one (R212). -/
def Domain.commitDue (d : Domain) : Bool := d.st == .off && d.commitReq

/-- A domain takes events from the device clock, or may do so after a commit of the tick to come (R213). -/
def State.mayListen (s : State) (x : Domain) : Bool :=
  s.listens x || ((x.st != .off || x.commitReq) && x.stg.en && s.hearsPtp x.stg)

/-- Engine ticks, at most k, until some domain has something to do. -/
def State.untilNext (s : State) (k : Nat) : Nat :=
  s.doms.foldl (fun k e =>
    let x := e.2
    if x.commitDue then min k 1
    else if x.st == .off then x.evs.foldl (fun k e => min k (max 1 (e.due - s.tick))) k
    else min (min k (x.untilNext s.tick)) (if s.mayListen x then max 1 s.ptp.untilSecond else k)) k

/-- A trigger whose tick is past keeps what its domain held at the end of the tick (R213, R215). -/
def State.latch (s : State) (t : CapTrig) : CapTrig :=
  let d := s.dom t.domain
  { t with rec_ := some (t.rec_.getD (BitVec.ofNat 32 d.held, d.st.code, d.cyc)) }

/-- k engine ticks in which no domain has anything to do but to add its frequency word, up to the last: the triggers of this tick
are past, the device clock counts where it has its clock (Table 1-2), and a second of it is an event (R203). -/
def State.advanceBy (s : State) (k : Nat) : State :=
  let ptp := if s.pwr.st == .off || s.pwr.st == .brownout then s.ptp else s.ptp.ticks k
  let now := s.tick + k
  let caps := s.caps.map fun (e : Nat × CapUnit) => (e.1, { e.2 with trigs := e.2.trigs.map s.latch })
  { s with
    tick := now, ptp := ptp, caps := caps
    doms := s.doms.map fun (e : Nat × Domain) =>
      let y := e.2.ticks k now
      (e.1, if s.mayListen y && ptp.sec != s.ptp.sec then
          { y with evs := y.evs ++ [{ ts := now, angle := y.held, due := now, pin := 16, index := false, rev := false,
                                      spoiled := false, ptp := true }] }
        else y) }

/-- The commits that OFF domains wait for take effect (R212). -/
def State.commitDue (s : State) : State :=
  ((s.doms.filter fun e => e.2.commitDue).map (·.1)).foldl (fun s d => s.adCommit d) s

/-- The checker of source n watches work that goes on in every cycle, and so makes a check in each (R383, R384, log 42): the checkers of
ECC words, voter lanes, comparisons, samples and the wipe make theirs where those take place. -/
def State.checkerWorks (s : State) (n : Nat) : Bool :=
  let powered := s.pwr.st != .off
  let nets := s.pwr.st == .run || s.pwr.st == .standby
  if n < 0x800 then
    let c := n / 0x20
    let x := s.core c
    if n % 0x20 = 0x1A then (x.st == .member || x.st == .shadow) && (s.ridge x.ridge).running
    else n % 0x20 == 0x1B && (match (s.massif (massifOf c)).col with
      | some k => k.newcore == c && (k.phase == 1 || k.phase == 2)
      | none => false)
  else if n < 0xA00 then false
  else if n < 0xC00 then
    let x := s.massif ((n - 0xA00) / 0x80)
    let o := n % 0x80
    if 0x42 ≤ o ∧ o < 0x46 then (s.dma (4 * ((n - 0xA00) / 0x80) + (o - 0x42))).busy
    else o == 0x47 && (x.ports.any (fun e => !e.2.isEmpty) || x.dma.any fun e => e.2.busy)
  else if n < 0xE00 then n % 8 == 5 && s.portRunning ((n - 0xC00) / 8)
  else if n < 0xF20 then n % 4 == 3 && decide (0xF00 ≤ n) && (s.dom ((n - 0xF00) / 4)).st != .off
  else if n < 0xF50 then
    n % 4 == 2 && decide (0xF40 ≤ n) && nets && (s.eth ((n - 0xF40) / 4)).en && (s.eth ((n - 0xF40) / 4)).link
  else if n = 0xF63 then nets && s.ring.st != 0
  else if n = 0xF70 ∨ n = 0xF71 then s.cairnRuns
  else powered && (decide (0xF88 ≤ n ∧ n < 0xF8C) || decide (0xFA8 ≤ n ∧ n < 0xFAC))

/-- The check that the checker with an armed injection makes in this tick, where it makes one in each (R383). -/
def State.armedCheck (s : State) : State :=
  if s.fcu.injArm && s.checkerWorks s.fcu.injSrc then s.fcuCheck s.fcu.injSrc false else s

/-- An edge at the ball of a pin to its level IN: where EDGE selects it, the producer fires and the line pulses (R426, R275). -/
def State.ballEdge (s : State) (p : Nat) : State :=
  let g := s.gp p
  if g.edge.getLsbD (if g.inp then 0 else 1) then (s.pulse (384 + p)).line (0x280 + p) else s

/-- The output stage of pin p has brought its ball to another level than IN (R426). -/
def State.ballMoved (s : State) (p : Nat) : Bool :=
  match s.gpLevel p with
  | some l => l != (s.gp p).inp
  | none => false

/-- Each ball is sampled, and the edges that an output stage has brought and that have held for FILT ticks count (R426, R198). -/
def State.sampleBalls (s : State) : State :=
  let ps := s.gps.map (·.1)
  let s := ps.foldl (fun (s : State) p =>
    if s.ballMoved p then s.updGp p fun g => { g with inp := !g.inp, edgeAt := some (s.tick + g.filt) } else s) s
  ps.foldl (fun (s : State) p =>
    match (s.gp p).edgeAt with
    | some t => if t ≤ s.tick then (s.updGp p fun g => { g with edgeAt := none }).ballEdge p else s
    | none => s) s

/-- Engine ticks, at most k, until some ball is to be sampled anew or an edge counts. -/
def State.untilBall (s : State) (k : Nat) : Nat :=
  s.gps.foldl (fun k e => if s.ballMoved e.1 then min k 1 else match e.2.edgeAt with
    | some t => min k (t - s.tick)
    | none => k) k

/-- Time leaves the present tick, in which every domain ends its steps 2 to 4, checkers check and balls are sampled, and advances by at
most k engine ticks, to the next in which a domain or a ball has something to do: the state there, before its steps 2 to 4, and the
ticks taken (R213, R426). -/
def State.span (s : State) (k : Nat) : State × Nat :=
  let s := s.settle.armedCheck.sampleBalls
  let j := max 1 (s.untilBall (s.untilNext k))
  ((s.advanceBy j).commitDue, j)

/-- Time advances by k engine ticks, in at most n spans (R213). The steps 2 to 4 of the last tick are still to come: its commands
come before (log 2). -/
def State.run : Nat → State → Nat → State
  | 0, s, _ => s
  | n + 1, s, k =>
    if k = 0 then s else
    let r := s.span k
    r.1.run n (k - r.2)

/-- Time advances by k engine ticks, with all that the domains do in them (R195, R213, log 2). -/
def State.advance (s : State) (k : Nat) : State := s.run k k

/-- Time is brought forward to a tick, if that lies ahead (log 2). -/
def State.advanceTo (s : State) (t : Nat) : State := s.advance (t - s.tick)

/-- An edge of a pin is an event of a domain: it waits for its evaluation tick (R198). -/
def Domain.takeEdge (d : Domain) (tick pin : Nat) (index rev : Bool) : Domain :=
  { d with evs := d.evs ++
      [{ ts := tick, angle := d.held, due := tick + d.cfg.filt, pin := pin, index := index, rev := rev, spoiled := false }] }

/-- A level change of a pin that does not hold for FILT further ticks was no edge (R198). -/
def Domain.dropUnheld (d : Domain) (tick pin : Nat) : Domain :=
  { d with evs := d.evs.filter fun e => e.pin != pin || decide (e.due < tick) || e.due == e.ts }

/-- What a level change on a pin means to a domain (R198, R201): an edge of the pin that waits and has not held is none, whatever
has been committed since. levels: all pins after the change. DESIGN CHOICE (log 45): an encoder edge's direction is judged by the other
pin's level as sampled in the timestamp tick, not by a filtered one; R201 says neither. -/
def Domain.pinEdge (d : Domain) (tick pin : Nat) (level : Bool) (levels : BitVec 16) : Domain :=
  let d := d.dropUnheld tick pin
  if d.st == .off || d.st == .free then d
  else if d.cfg.src = 1 then
    if d.cfg.pin == pin && ((level && d.cfg.edge.getLsbD 0) || (!level && d.cfg.edge.getLsbD 1)) then
      d.takeEdge tick pin false false
    else d
  else if d.cfg.src = 2 then
    let a := levels.getLsbD d.cfg.pin
    let b := levels.getLsbD (d.cfg.pin + 1)
    if pin = d.cfg.pin then d.takeEdge tick pin false (level == b)
    else if pin = d.cfg.pin + 1 then d.takeEdge tick pin false (level != a)
    else if pin = d.cfg.pin + 2 then (if level then d.takeEdge tick pin true false else d)
    else d
  else d

/-- A capture unit takes this edge of a pin as a trigger (R215, R216). -/
def CapUnit.takesEdge (x : CapUnit) (tick pin : Nat) (level : Bool) : Bool :=
  let c := match x.was with
    | some w => if tick ≤ w.1 then (w.2.1, w.2.2.1) else (x.pin, x.trig)
    | none => (x.pin, x.trig)
  c.1 == pin && (if level then c.2.getLsbD 0 else c.2.getLsbD 1)

/-- Step 2 of R213 for every domain. -/
def State.opened (s : State) : State := (s.doms.map (·.1)).foldl (fun s d => s.boundaries (s.dom d).due d) s

/-- ANG_IN_EDGE: the sampled level of a pin changes (R198, R201, R215, P480 to P495). It meets the configuration of step 2, and an
event of this tick is evaluated with the tick's others (R213). -/
def execAngInEdge (pin : Fin 16) (level : Bool) (s : State) : Host.Outcome State Fault Refusal :=
  if s.pwr.st == .off || s.angIn.getLsbD pin.val == level then .next s else
  let s := s.opened
  let levels : BitVec 16 := if level then s.angIn ||| (1#16 <<< pin.val) else s.angIn &&& ~~~(1#16 <<< pin.val)
  let s := { s with angIn := levels, doms := s.doms.map fun (e : Nat × Domain) => (e.1, e.2.pinEdge s.tick pin.val level levels) }
  let hit := (s.caps.map (·.1)).filter fun u => (s.cap u).takesEdge s.tick pin.val level
  let s := hit.foldl (fun (s : State) u => s.trigger u) s
  .next (if level then s.pulse (480 + pin.val) else s)

/-- REFERENCE_EVENT: the oldest waiting event of domain d reaches its evaluation tick (R198, R199, R213). -/
def execReferenceEvent (d : Fin 8) (s : State) : Host.Outcome State Fault Refusal :=
  match (s.dom d.val).evs with
  | [] => .next s
  | ev :: _ => .next ((s.advanceTo ev.due).angleDom d.val)

/-- Cairn writes the staged copy of domain d: a write in the tick of a commit comes after that commit (R212). -/
def State.stage (s : State) (d : Nat) (f : Domain → Domain) : State := (s.boundaries (s.dom d).due d).updDom d f

/-- The staged feeder of domain d is set or cleared (R202, R352): at once with a request for the commit where the domain is OFF. -/
def State.stageFeeder (s : State) (d : Nat) (w : Option Nat) : State :=
  s.stage d fun x => { x with stg := { x.stg with fv := w.isSome, feeder := w.getD 0 }, commitReq := x.st == .off }

/-- AD_EST_ERR is written by the feeder of domain d: the estimate is evaluated in step 3 of this tick (R202, R213). -/
def State.ridgeEstimate (s : State) (d : Nat) (err : BitVec 24) : State :=
  let s := s.boundaries (s.dom d).due d
  let x := s.dom d
  if x.cfg.src != 3 || x.st == .off then s
  else if x.estCyc = x.cyc || (x.estCyc + 1) % 2 ^ 16 = x.cyc then s.evaluate d err.toInt s.tick 0 none
  else s.updDom d fun x => { x with stale := true }

/-- Time is brought to the next second that is a multiple of DEN, at most n seconds ahead. -/
def State.toInstant : Nat → State → Nat → State
  | 0, s, _ => s
  | n + 1, s, den =>
    let s := s.advance s.ptp.untilSecond
    if s.ptp.sec % den = 0 then s else s.toInstant n den

/-- PTP_EVENT: the device clock reaches the next instant of a PTP-sourced domain (R203, R214). -/
def execPtpEvent (d : Fin 8) (s : State) : Host.Outcome State Fault Refusal :=
  let x := s.dom d.val
  if !s.listens x || s.pwr.st == .off then .next s
  else .next ((s.toInstant x.cfg.den x.cfg.den).angleDom d.val)

/-- Time is brought to the next boundary that a domain crosses for the first time, and that boundary is handled; steps and changes
of the frequency on the way are met at most n times (log 2). -/
def State.toBoundary : Nat → State → Nat → State
  | 0, s, _ => s
  | n + 1, s, d =>
    let x := s.dom d
    if x.st == .off then s
    else if x.due ≠ 0 then (s.advanceTo x.dueTick).angleDom d
    else
      let t := s.advance (x.ticksFor (2 ^ 46 - x.phase % 2 ^ 46 + x.back * 2 ^ 46))
      if (t.dom d).turns = x.turns || (t.dom d).due ≠ 0 then t.toBoundary n d else t

/-- CYCLE_BOUNDARY: domain d first crosses a cycle boundary (R213). -/
def execCycleBoundary (d : Fin 8) (s : State) : Host.Outcome State Fault Refusal := .next (s.toBoundary 1000 d.val)

/-- MISS: the angle has advanced MISS intervals without an accepted event (R207, R213, Table 9-5). -/
def execMiss (d : Fin 8) (s : State) : Host.Outcome State Fault Refusal :=
  let x := s.dom d.val
  if x.st == .off || x.st == .free then .next s
  else .next ((s.advance (x.ticksFor (x.cfg.span - x.adv))).settleDom d.val)

/-- Boundaries pass, at most n, until a domain leaves HOLDOVER. -/
def State.toExpiry : Nat → State → Nat → State
  | 0, s, _ => s
  | n + 1, s, d => if (s.dom d).st == .holdover then ((s.toBoundary 1000 d).settleDom d).toExpiry n d else s

/-- HOLDOVER_EXPIRY: HOLD boundaries have passed in HOLDOVER (R213, Table 9-5). -/
def execHoldoverExpiry (d : Fin 8) (s : State) : Host.Outcome State Fault Refusal :=
  let s := if (s.dom d.val).st == .holdover then s.settleDom d.val else s
  let x := s.dom d.val
  .next (s.toExpiry (x.cfg.hold - x.holds) d.val)

/-- A capture is recorded (R215). -/
def State.record (s : State) (u : Nat) (t : CapTrig) : State :=
  match (s.latch t).rec_ with
  | none => s
  | some (angle, st, cyc) =>
    ((s.updCap u fun x => { x with valid := true, angle := angle, st := st, cyc := cyc, recTick := some t.tick }).pulse
      (144 + u)).line (0x250 + u)

/-- Unit u takes its oldest trigger (R215): one that finds VALID set leaves OVR alone behind. -/
def State.takeTrigger (s : State) (u : Nat) : State :=
  match (s.cap u).trigs with
  | [] => s
  | t :: rest =>
    let s := s.updCap u fun x => { x with trigs := rest }
    if (s.cap u).valid then s.updCap u fun x => { x with ovr := true, lost := some (s.latch t, x.ovr) }
    else s.record u t

/-- CAPTURE_TRIGGER: a trigger that has reached unit u is taken, with what its domain holds after step 3 (R213, R215). -/
def execCaptureTrigger (u : Fin 32) (s : State) : Host.Outcome State Fault Refusal :=
  match (s.cap u.val).trigs with
  | [] => .next s
  | t :: _ => .next ((if t.rec_.isSome then s else s.angleDom t.domain).takeTrigger u.val)

/-- Unit u takes the triggers of earlier ticks, at most n. -/
def State.takeEarlier : Nat → State → Nat → State
  | 0, s, _ => s
  | n + 1, s, u =>
    match (s.cap u).trigs with
    | [] => s
    | t :: _ => if t.tick < s.tick then (s.takeTrigger u).takeEarlier n u else s

/-- A write of CAP_STAT by the owner (R10, R217): a capture of the same tick stands, and one that the tick's write of 1 to VALID
would have let in is recorded. -/
def State.writeCapStat (s : State) (u : Nat) (valid ovr : Bool) : State :=
  let s := s.takeEarlier (s.cap u).trigs.length u
  let x := s.cap u
  let now (t : Option (CapTrig × Bool)) : Bool := match t with
    | some e => e.1.tick == s.tick
    | none => false
  let keep := x.recTick == some s.tick
  if valid && !keep then
    match x.lost with
    | some (t, was) =>
      if t.tick = s.tick then
        (s.updCap u fun x => { x with valid := false, lost := none, ovr := was && !ovr }).record u t
      else s.updCap u fun x => { x with valid := false, ovr := x.ovr && !ovr }
    | none => s.updCap u fun x => { x with valid := false, ovr := x.ovr && !ovr }
  else s.updCap u fun x => { x with ovr := x.ovr && (!ovr || now x.lost) }

/-- A write of CAP_CFG by the owner: it acts on triggers from the next tick on (R216). -/
def State.writeCapCfg (s : State) (u : Nat) (pin : Nat) (trig : BitVec 2) (domain : Nat) : State :=
  s.updCap u fun x =>
    let was := match x.was with
      | some w => if w.1 = s.tick then x.was else some (s.tick, x.pin, x.trig, x.domain)
      | none => some (s.tick, x.pin, x.trig, x.domain)
    { x with pin := pin, trig := trig, domain := domain, was := was }

/-- Heads of the nine lists that serve bin b of a domain (R224). -/
def State.binHeads (s : State) (d b : Nat) : Tbl Nat :=
  (List.range 9).filterMap fun k =>
    (Tbl.find s.ast.heads ((d * 9 + k) * 4096 + b % 4096 % 2 ^ (12 - k))).map fun i => (k, i)

/-- The lane's position moves on when nothing of the bin is left to read (R225); a step range whose last bin it has read is done
with (R233). -/
def Domain.binDone (d : Domain) : Domain :=
  if d.cur.isEmpty && d.hold.isNone then
    { d with pos := d.rdBin, steps := d.steps.filter fun r => !atOrBehind (r.2 / 2 ^ 12 * 2 ^ 12) (d.rdBin * 2 ^ 12) }
  else d

/-- The lane of a domain waits for the angle to enter its position bin (R225). -/
def Domain.laneWaits (x : Domain) : Bool :=
  x.st != .off && x.cur.isEmpty && x.hold.isNone && !atOrBehind (x.pos * 2 ^ 12) x.held

/-- Time is brought to the first tick in which domain d has entered its lane's position bin, meeting whatever changes on the way, at
most n times (R213, R225). -/
def State.toBin : Nat → State → Nat → State
  | 0, s, _ => s
  | n + 1, s, d =>
    let s := s.angleDom d
    let x := s.dom d
    if x.laneWaits then
      let ahead := (x.pos * 2 ^ 12 + 2 ^ 40 - x.held) % 2 ^ 40
      (s.span (max 1 (x.ticksFor (ahead * 2 ^ 22 - x.phase % 2 ^ 22)))).1.toBin n d
    else s

/-- WALKER_BIN_START: the lane of domain d starts the bin after its position (R225); time is brought to it if the angle has not
entered that bin yet (log 2). -/
def execWalkerBinStart (d : Fin 8) (s : State) : Host.Outcome State Fault Refusal :=
  let s := s.toBin 1000 d.val
  let x := s.dom d.val
  if x.st == .off || !x.cur.isEmpty || x.hold.isSome || x.laneWaits then .next s else
  let b := (x.pos + 1) % 2 ^ 28
  let heads := s.binHeads d.val b
  .next (s.updDom d.val fun y => ({ y with rdBin := b, cur := heads }).binDone)

/-- Word k of AST entry i as a read of a user delivers it: data, tag and the state with its events. -/
def State.astHalf (s : State) (i half : Nat) : Nat × Bool × State := s.readWord 0x84 (2 * i + half)

/-- The occurrence angle of entry i of list k in a bin: CYC and FRAC (R220). -/
def occAngle (bin k frac : Nat) : Nat :=
  bin / 4096 % 2 ^ 16 * 2 ^ 24 + bin % 4096 / 2 ^ (12 - k) * 2 ^ (24 - k) + frac

/-- An occurrence is armed (R221, R222). -/
def astArmed (w0 w2 w3 bin : Nat) : Bool :=
  let c := bin / 4096 % 2 ^ 16
  bitOf w0 27 && bitsOf w0 31 28 != 0 && validIn w2 c
    && c % 2 ^ bitsOf w3 26 23 == bitsOf w3 31 27

/-- The list whose next entry the lane takes: the lowest occurrence angle, then the lowest index (R225). -/
def State.nextList (s : State) (d : Nat) : Option (Nat × Nat) :=
  let x := s.dom d
  x.cur.foldl (fun (best : Option (Nat × Nat)) e =>
    let key (f : Nat × Nat) : Nat :=
      occAngle x.rdBin f.1 ((s.eccRead 0x84 (2 * f.2)).1 % 2 ^ 24) * 2 ^ 19 + f.2
    match best with
    | none => some e
    | some f => if key e < key f then some e else some f) none

/-- A comparator is free. -/
def Domain.compFree (d : Domain) : Bool := decide (d.comps.length < 64)

/-- WALKER_ENTRY_READ: the lane of domain d reads one entry, or loads the occurrence it holds (R225, R227, R231). DESIGN CHOICE (log 41):
a held occurrence may load in the very tick in which a comparator fires, as the example of R232 has it, where R227 says the tick after. -/
def execWalkerEntryRead (d : Fin 8) (s : State) : Host.Outcome State Fault Refusal :=
  let s := s.angleDom d.val
  let x := s.dom d.val
  if x.st == .off then .next s else
  match x.hold with
  | some o =>
    if !x.compFree then .next s
    else .next (((s.updDom d.val fun y => { y with hold := none }).loadOcc d.val o).updDom d.val Domain.binDone)
  | none =>
    match s.nextList d.val with
    | none => .next s
    | some (k, i) =>
      let (lo, plo, s) := s.astHalf i 0
      let (hi, phi, s) := s.astHalf i 1
      let w0 := lo % 2 ^ 32
      let w1 := lo / 2 ^ 32
      let w2 := hi % 2 ^ 32
      let w3 := hi / 2 ^ 32
      let next := w3 % 2 ^ 19
      let cur := if phi || next = i then Tbl.del x.cur k else Tbl.set x.cur k next
      let s := s.updDom d.val fun y => { y with cur := cur, broken := y.broken || plo || phi }
      if plo || phi || !astArmed w0 w2 w3 x.rdBin then .next (s.updDom d.val Domain.binDone) else
      let o : Comp := { angle := occAngle x.rdBin k (w0 % 2 ^ 24), entry := i, w0 := BitVec.ofNat 32 w0,
                        w1 := BitVec.ofNat 32 w1, tick := s.tick, late := false, skip := false }
      if x.compFree then .next ((s.loadOcc d.val o).updDom d.val Domain.binDone)
      else .next (s.updDom d.val fun y => { y with hold := some o })

/-- An occurrence fires in a tick whose held angle is at or beyond it, after the tick in which it was loaded (R226). -/
def Domain.compDue (d : Domain) (tick : Nat) (o : Comp) : Bool :=
  decide (o.tick < tick) && (o.late || o.skip || atOrBehind o.angle d.held)

/-- The occurrence of a list that comes first in angle from FM on, then in entry index (R226, R229). -/
def firstOcc (fm : Nat) (l : List Comp) : Option Comp :=
  let key (o : Comp) : Nat := (o.angle + 2 ^ 40 - fm % 2 ^ 40) % 2 ^ 40 * 2 ^ 19 + o.entry
  l.foldl (fun best o => match best with
    | none => some o
    | some b => if key o < key b then some o else some b) none

/-- Ticks until the first comparator of a domain fires, when none is due. -/
def Domain.untilFire (d : Domain) (tick : Nat) : Nat :=
  match firstOcc d.fm d.comps with
  | none => 0
  | some o =>
    let k := if atOrBehind o.angle d.held then 0
      else d.ticksFor ((o.angle + 2 ^ 40 - d.held) % 2 ^ 40 * 2 ^ 22 - d.phase % 2 ^ 22)
    max k (o.tick + 1 - tick)

/-- Time is brought to the first tick in which a comparator of domain d is due, meeting whatever changes on the way, at most n times
(R226, R233). -/
def State.toFire : Nat → State → Nat → State
  | 0, s, _ => s
  | n + 1, s, d =>
    let s := s.angleDom d
    let x := s.dom d
    if x.st == .off || x.comps.isEmpty || x.comps.any (x.compDue s.tick) then s
    else (s.span (max 1 (x.untilFire s.tick))).1.toFire n d

/-- OCCURRENCE_FIRE: the first due occurrence of domain d fires; time is brought to it if none is due yet (R226, log 2). -/
def execOccurrenceFire (d : Fin 8) (s : State) : Host.Outcome State Fault Refusal :=
  let s := s.toFire 1000 d.val
  let y := s.dom d.val
  if y.st == .off then .next s else
  match firstOcc y.fm (y.comps.filter (y.compDue s.tick)) with
  | none => .next s
  | some o => .next ((s.updDom d.val fun z => { z with comps := z.comps.erase o }).fireOcc d.val o)

/-- The whole of an AST entry is written, as one version (R236). -/
def State.writeEntry (s : State) (i : Nat) (w0 w1 w2 w3 : Nat) : State :=
  (s.writeWord 0x84 (2 * i) (w0 + w1 * 2 ^ 32) false).writeWord 0x84 (2 * i + 1) (w2 + w3 * 2 ^ 32) false

/-- Words W2 and W3 of an entry as stored and corrected. -/
def State.entryHi (s : State) (i : Nat) : Nat := (s.eccRead 0x84 (2 * i + 1)).1

/-- Words W0 and W1 of an entry as stored and corrected. -/
def State.entryLo (s : State) (i : Nat) : Nat := (s.eccRead 0x84 (2 * i)).1

/-- What Cairn keeps of a linked entry, updated. -/
def State.updLink (s : State) (i : Nat) (f : AstLink → AstLink) : State :=
  match Tbl.find s.ast.links i with
  | some l => { s with ast := { s.ast with links := Tbl.set s.ast.links i (f l) } }
  | none => s

/-- A word of the AST memory is changed in part: a merge write, which reads the word first and keeps its poison (R249). -/
def State.mergeAst (s : State) (w : Nat) (f : Nat → Nat) : State :=
  let (d, p, s) := s.readWord 0x84 w
  s.writeWord 0x84 w (f d) p

/-- W2 of an entry is written. -/
def State.writeW2 (s : State) (i w2 : Nat) : State :=
  (s.mergeAst (2 * i + 1) fun hi => w2 % 2 ^ 32 + hi / 2 ^ 32 * 2 ^ 32).updLink i fun l => { l with w2 := BitVec.ofNat 32 w2 }

/-- W3.NEXT of an entry is written. -/
def State.writeNext (s : State) (i next : Nat) : State :=
  (s.mergeAst (2 * i + 1) fun hi => hi - hi / 2 ^ 32 % 2 ^ 19 * 2 ^ 32 + next % 2 ^ 19 * 2 ^ 32).updLink i
    fun l => { l with next := next }

/-- AST memory takes Cairn's writes: not in STANDBY and BROWNOUT (R244). -/
def State.astWritable (s : State) : Bool := s.pwr.st == .run && s.cairnRuns

/-- W2 of an entry valid from v to u. -/
def w2Of (u v : Nat) : Nat := u % 2 ^ 16 * 2 ^ 16 + v % 2 ^ 16

/-- INDEFINITE_REWRITE: once its domain has entered X, an indefinite entry becomes valid in every cycle (R236, R238). -/
def execIndefiniteRewrite (i : BitVec 19) (s : State) : Host.Outcome State Fault Refusal :=
  match Tbl.find s.ast.links i.toNat with
  | some l =>
    match l.indef with
    | some x =>
      let d := s.dom (bitsOf l.w0.toNat 26 24)
      if s.astWritable && d.st != .off && decide ((d.cyc + 2 ^ 16 - x) % 2 ^ 16 < 2 ^ 15) then
        .next ((s.writeW2 i.toNat (w2Of (x + 2 ^ 16 - 1) x)).updLink i.toNat fun l => { l with indef := none })
      else .next s
    | none => .next s
  | none => .next s

/-- Key in the head table of the list of an entry (R224). -/
def listKey (w0 w3 : Nat) : Nat := (bitsOf w0 26 24 * 9 + bitsOf w3 22 19) * 4096 + bitsOf w0 23 12

/-- Entries of a list from an index on, at most n. -/
def State.walkList (s : State) : Nat → Nat → List Nat
  | 0, _ => []
  | n + 1, i =>
    let next := s.entryHi i / 2 ^ 32 % 2 ^ 19
    if next = i then [i] else i :: s.walkList n next

/-- Entries of the list with a key. -/
def State.listOf (s : State) (key : Nat) : List Nat :=
  match Tbl.find s.ast.heads key with
  | none => []
  | some h => s.walkList (s.ast.links.length + 1) h

/-- An entry is taken out of its list: its predecessor's NEXT or the head goes to its successor (R237). -/
def State.unlink (s : State) (i : Nat) (l : AstLink) : State :=
  let key := listKey l.w0.toNat l.w3.toNat
  let es := s.listOf key
  let succ := (es[es.idxOf i + 1]?)
  let pred := if es.idxOf i = 0 then none else es[es.idxOf i - 1]?
  let dom := bitsOf l.w0.toNat 26 24
  let s := match pred with
    | some p => s.writeNext p (succ.getD p)
    | none => { s with ast := { s.ast with heads := match succ with
        | some n => Tbl.set s.ast.heads key n
        | none => Tbl.del s.ast.heads key } }
  { s with ast := { s.ast with links := Tbl.del s.ast.links i, waiting := Tbl.set s.ast.waiting i (2, dom) } }

/-- ENTRY_UNLINK: Cairn unlinks an entry after its last valid cycle (R237, R240). -/
def execEntryUnlink (i : BitVec 19) (s : State) : Host.Outcome State Fault Refusal :=
  match Tbl.find s.ast.links i.toNat with
  | some l =>
    match l.ends with
    | some u =>
      let d := s.dom (bitsOf l.w0.toNat 26 24)
      if s.astWritable && d.st != .off && decide (u ≤ d.turns - d.back) then .next (s.unlink i.toNat l)
      else .next s
    | none => .next s
  | none => .next s

/-- ENTRY_REPAIR: Cairn rewrites a poisoned linked entry from the journal: the words it was added with and its place in
its list (R231). -/
def execEntryRepair (i : BitVec 19) (s : State) : Host.Outcome State Fault Refusal :=
  match Tbl.find s.ast.links i.toNat with
  | some l =>
    let bad := (s.eccRead 0x84 (2 * i.toNat)).2.1 || (s.eccRead 0x84 (2 * i.toNat + 1)).2.1
    if s.astWritable && bad then
      .next (s.writeEntry i.toNat l.w0.toNat l.w1.toNat l.w2.toNat
        (l.w3.toNat - l.w3.toNat % 2 ^ 19 + l.next % 2 ^ 19))
    else .next s
  | none => .next s

end Sys2Proof.Machine
end

