-- ==== Sys2Proof/Machine/Net.lean ====
section
/-!
DEFINITION. What a ridge's register writes and the event fabric start in the Ethernet ports, the station ring and the DMA
channels (chapters 11, 12 and 14).
-/

namespace Sys2Proof.Machine

/-- Slots of a queue: two per page (R321). -/
def Queue.slots (q : Queue) : Nat := 2 * q.npage

/-- Offset in the Ethernet buffers of the slot that a pointer of a queue names (R321, R322). -/
def Queue.slotAt (q : Queue) (ptr : Nat) : Nat := (2 * q.page + ptr) * 2048

/-- The slot after one, modulo the slot count (R321). -/
def Queue.after (q : Queue) (ptr : Nat) : Nat := (ptr + 1) % max 1 q.slots

/-- The owner's new TAIL: a receive queue gives up the slots that TAIL passes, a transmit queue takes them in (R321, log 17). None
where TAIL would pass HEAD (R323). -/
def Queue.withTail (q : Queue) (rx : Bool) (v : Nat) : Option Queue :=
  let moved := (v + q.slots - q.tail) % max 1 q.slots
  if v = q.tail then some q
  else if q.slots ≤ v then none
  else if rx then (if q.held < moved then none else some { q with tail := v, held := q.held - moved })
  else if q.slots < q.held + moved then none else some { q with tail := v, held := q.held + moved }

/-- Queue j of port e: receive queues first, then transmit queues as 16 + j. -/
def State.queue (s : State) (e j : Nat) : Queue := if j < 16 then (s.eth e).rx j else (s.eth e).tx (j - 16)

/-- A queue updated. -/
def State.updQueue (s : State) (e j : Nat) (f : Queue → Queue) : State :=
  s.updEth e fun x =>
    if j < 16 then { x with rxq := Tbl.set x.rxq j (f (x.rx j)) } else { x with txq := Tbl.set x.txq (j - 16) (f (x.tx (j - 16))) }

/-- A TAIL write by ridge r to queue j of port e: the state, or KIND 0b100; a halted ridge's is ignored (R323). -/
def State.writeTail (s : State) (r e j v : Nat) : State × Option Nat :=
  if (s.ridge r).st == .halted then (s, none)
  else
    match (s.queue e j).withTail (decide (j < 16)) (v % 256) with
    | none => (s, some 4)
    | some q => (s.updQueue e j fun _ => q, none)

/-- A write of PTP_STEP: a signed step at the next 8 ns edge; SYNCED clears (R326). -/
def State.writePtpStep (s : State) (v : Word) : State :=
  { s with ptp := { s.ptp with step := s.ptp.step + v.toInt, synced := false } }

/-- The ring block runs: it has an address and the power state lets it (R331, R335). -/
def State.ringRunning (s : State) : Bool :=
  s.ring.st == 2 && (s.pwr.st == .run || s.pwr.st == .standby)

/-- The ring block transmits (R380). -/
def State.ringSends (s : State) : Bool := s.ringRunning && !s.fcu.fatal

/-- Bytes 1 to the end of the payload of a ring frame (Table 14-4). -/
def ringBytes (f : RingFrame) : List Byte :=
  [BitVec.ofNat 8 (64 * f.typ.toNat), BitVec.ofNat 8 f.src.toNat, BitVec.ofNat 8 f.dst.toNat, f.seq, f.b5] ++
    bytesBE 2 f.len.toNat ++ f.payload

/-- The LEN and the check bytes that belong to a ring frame (R330, R297): LEN is zero but in mailbox frames. -/
def ringSeal (f : RingFrame) : RingFrame :=
  let f := { f with len := if f.typ.toNat < 2 then BitVec.ofNat 16 f.payload.length else 0 }
  { f with crc := BitVec.ofNat 32 (crc32c (ringBytes f)) }

/-- A ring frame passes its check (R330). -/
def ringOk (f : RingFrame) : Bool := ringSeal f == f

/-- The characters of a ring frame, K-codes marked (Table 14-4). -/
def ringCodes (f : RingFrame) : List (Bool × Byte) :=
  (true, if f.typ.toNat < 2 then 0xFB else if f.typ = 2 then 0x3C else 0x5C) ::
    ((ringBytes f ++ bytesBE 4 f.crc.toNat).map fun b => (false, b)) ++ [(true, 0xFD)]

/-- Sequence numbers already taken, with one more: the latest 128 are kept (log 18). -/
def noteSeq (l : List Nat) (q : Nat) : List Nat := (q :: l).take 128

/-- A frame of this device leaves on direction A, and on B as well where both is true; each copy waits for its return, the latest
128 copies are kept (MODEL). -/
def SRing.send (x : SRing) (f : RingFrame) (both : Bool) : SRing :=
  let f := ringSeal f
  { x with out := ((if both then [f, f] else [f]) ++ x.out).take 128, tx := ringCodes f }

/-- A frame of this device leaves in both directions (R328). -/
def SRing.emit (x : SRing) (f : RingFrame) : SRing := x.send f true

/-- A mailbox's RESULT changes: its interrupt line pulses (14, Registers). -/
def State.mbResult (s : State) (m res : Nat) : State :=
  if (s.mbox m).result = res then s else (s.updMbox m fun b => { b with result := res }).line (0x1C0 + m)

/-- A write of SR_MB_SEND to mailbox m by its owner r (R332, R164, R265): the state, or KIND 0b100. -/
def State.mbSend (s : State) (r m len : Nat) : State × Option Nat :=
  let b := s.mbox m
  if b.busy then (s, some 4)
  else if !s.outputsLive r || !b.en || len = 0 || 256 < len then (s, none)
  else
    let (d, s) := s.readBytes 0x87 (b.page * 4096) len
    if d.any (·.2) then ((s.fcuEvent 0xF62).mbResult m 4, none)
    else
      let seq := (b.seq + 1) % 256
      let f : RingFrame := { typ := 0, src := BitVec.ofNat 6 s.ring.addr, dst := BitVec.ofNat 7 b.peer, seq := BitVec.ofNat 8 seq,
                             b5 := BitVec.ofNat 8 (b.peerMb * 16 + m), payload := d.map (·.1), len := 0, crc := 0 }
      let s := s.updMbox m fun b => { b with busy := true, seq := seq, sent := d.map (·.1) }
      (if s.ringSends then s.updRing (·.emit f) else s, none)

/-- A firing sends one mirror frame of a line (R331). -/
def State.mirrorSend (s : State) (line : Nat) : State × Bool :=
  if !s.ringSends then (s, false) else
  let seq := (Tbl.get 0 s.ring.mseq line + 1) % 256
  (s.updRing fun x => { x with mseq := Tbl.set x.mseq line seq }.emit
    { typ := 2, src := BitVec.ofNat 6 x.addr, dst := 0x40, seq := BitVec.ofNat 8 seq, b5 := BitVec.ofNat 8 line,
      payload := [], len := 0, crc := 0 }, true)

/-- The ridge has halted and is not released again: the DMA channels that it owns stay stopped (Table 7-5). -/
def Ridge.stopped (x : Ridge) : Bool := x.st == .halted || x.st == .restarting || x.st == .dissolving

/-- A start reaches DMA channel ch (R254, R256, Table 7-5): a channel without an owner, or whose owner has halted, ignores it.
DESIGN CHOICE (log 44): OUTEN = 0 in a RUNNING owner stops no channel; whether the row of Table 7-5 holds then, R164 does not say.
Answers whether it started. -/
def State.dmaStart (s : State) (ch : Nat) : State × Bool :=
  let d := s.dma ch
  let live := match d.owner with
    | some r => !(s.ridge r).stopped
    | none => false
  if !live || s.pwr.st != .run then (s, false)
  else if d.busy then (s.updDma ch fun d => { d with ovr := true }, false)
  else
    let n := if d.cnt = 0 then 65536 else d.cnt
    (s.updDma ch fun d =>
      { d with busy := true, left := n, toRead := n, reads := [], writes := [], stopReq := false, rstReq := false }, true)

/-- The owner writes ABORT (R258). -/
def State.dmaAbort (s : State) (ch : Nat) : State := s.updDma ch Dma.stop

/-- One pulse to task input i of ridge r (R282). Answers whether it counts. -/
def State.taskInput (s : State) (r i : Nat) : State × Bool :=
  if (s.ridge r).running then (s.updRidge r fun x => x.taskPulse i, true) else (s, false)

/-- A firing reaches the consumer of a channel (Table 12-3). Answers whether it had an effect. -/
def State.consume (s : State) (ckind cindex param : Nat) : State × Bool :=
  match ckind with
  | 1 => s.taskInput (cindex / 16 % 64) (cindex % 16)
  | 2 => if s.fcu.fatal then (s, false) else s.dmaStart (cindex % 16)
  | 3 =>
    if s.portRunning (cindex % 64) && !(s.port (cindex % 64)).evp then
      (s.updPort (cindex % 64) fun p => { p with evp := true }, true)
    else (s, false)
  | 4 => s.pinAct (cindex % 96) param 3
  | 5 => (s.trigger (cindex % 32), true)
  | 6 => s.mirrorSend (cindex % 16)
  | _ => (s, false)

/-- Number of the storm window of a tick (R283). -/
def State.window (s : State) (tick : Nat) : Nat := (tick - s.winStart) / 3200

/-- A firing in window w counts (R283). -/
def Channel.count (c : Channel) (w : Nat) : Channel :=
  if c.win = w then { c with wcount := c.wcount + 1 } else { c with wcount := 1, win := w }

/-- A storm (R283, R284); what it sets in a tick of a change of owner is gone at that tick's end (R288). -/
def State.storm (s : State) (ch : Nat) (f : ChFire) : State :=
  (s.updChan ch fun c => if c.clears f.tick then c else
    { c with storm := true, masked := c.masked || f.automask, stormAt := some s.tick }).fcuEvent (0xE00 + ch)

/-- A firing of channel ch (R277, R283, R284, R288): it counts in its window, may be a storm, and reaches the consumer that its
own tick's configuration names. -/
def State.fireChannel (s : State) (ch : Nat) (f : ChFire) : State :=
  let s := s.updChan ch fun c => c.count (s.window f.tick)
  let c := s.chan ch
  let hit := f.lim != 0 && c.wcount == f.lim + 1
  let s := if hit then s.storm ch f else s
  if (s.chan ch).masked || (hit && f.automask) then s.updChan ch fun c => { c with drops := satInc 16 c.drops }
  else
    let (s, did) := s.consume f.ckind f.cindex f.param
    s.updChan ch fun c =>
      if did then { c with fires := satInc 16 c.fires } else { c with drops := satInc 16 c.drops }

/-- The oldest firing of channel ch that is on its way reaches its consumer. -/
def State.deliverFiring (s : State) (ch : Nat) : State :=
  match (s.chan ch).waiting with
  | [] => s
  | f :: rest => (s.updChan ch fun c => { c with waiting := rest }).fireChannel ch f

/-- EVENT_CHANNEL_FIRING: the oldest firing of a channel that is on its way reaches the consumer (R277 to R280). -/
def execEventChannelFiring (ch : Fin 256) (s : State) : Host.Outcome State Fault Refusal :=
  .next ((s.updChan ch.val fun c => c.upTo s.tick).deliverFiring ch.val)

/-- REFRACTORY_END: the interval of a channel ends; the firing of a held pulse, and one before it that is still on its way, reach
the consumer (R277). -/
def execRefractoryEnd (ch : Fin 256) (s : State) : Host.Outcome State Fault Refusal :=
  match (s.chan ch.val).refr with
  | none => .next s
  | some t =>
    let s := s.advanceTo t
    let s := s.updChan ch.val fun c => c.upTo s.tick
    .next ((s.chan ch.val).waiting.foldl (fun s _ => s.deliverFiring ch.val) s)

/-- STORM_WINDOW_END: the window of 3,200 ticks ends, and WCOUNT of every channel starts again (R283). -/
def execStormWindowEnd (s : State) : Host.Outcome State Fault Refusal :=
  .next (s.advance (3200 - (s.tick - s.winStart) % 3200))

/-- WCOUNT: the count of the current window (R283). -/
def State.wcountNow (s : State) (c : Channel) : Nat := if c.win = s.window s.tick then c.wcount else 0

end Sys2Proof.Machine
end

