-- ==== Sys2Proof/Machine/Regs.lean ====
section
/-!
DEFINITION. The register map (02 and the register sections of every chapter): what each register reads, and the writes that
a ridge may make to the fields of each.
-/

namespace Sys2Proof.Machine

/-- An optional owner as OWNV at bit v and OWNER at bit o. -/
def ownBits (x : Option Nat) (v o : Nat) : List (Nat × Nat) :=
  match x with
  | some r => [(v, 1), (o, r)]
  | none => []

/-- Code of a ridge state (Table 7-7). -/
def RidgeSt.code : RidgeSt → Nat
  | .free => 0 | .loading => 1 | .ready => 2 | .running => 3 | .halted => 4 | .restarting => 5 | .dissolving => 6

/-- Code of a core state (Table 7-1). -/
def CoreSt.code : CoreSt → Nat
  | .free => 0 | .member => 1 | .spare => 2 | .shadow => 3 | .test => 4 | .quarantined => 5 | .failed => 6 | .clearing => 7

/-- Code of a power state (Table 18-10); OFF reads as its reset value. -/
def PState.code : PState → Nat
  | .run => 0 | .standby => 1 | .brownout => 2 | .off => 1

/-- RIDGE_STATUS (Table 7-7). -/
def Ridge.status (x : Ridge) : Word :=
  pack [(16, x.rstcnt), (12, x.haltcause), (11, b2n x.commonq), (10, b2n x.degraded), (8, x.kind), (6, x.massif), (0, x.st.code)]

/-- RIDGE_MEMBERS (Table 7-9). -/
def Ridge.membersReg (x : Ridge) : Word :=
  let m (k : Nat) : Bool × Nat := at_ x.members k (false, 0)
  pack [(23, b2n (m 2).1), (16, (m 2).2), (15, b2n (m 1).1), (8, (m 1).2), (7, b2n (m 0).1), (0, (m 0).2)]

/-- RIDGE_VOTE_INFO (Table 7-13). -/
def Ridge.voteInfo (x : Ridge) : Word :=
  pack [(31, b2n x.voteValid), (29, b2n x.voteSrc), (26, x.voteSlot), (24, x.voteAction), (8, x.voteCount), (0, x.evicts)]

/-- PEND of all 64 sources: task inputs by their counters (Table 3-7). -/
def Ridge.pend (x : Ridge) : BitVec 64 :=
  (List.range 16).foldl (fun a i => if Tbl.get 0 x.taskCnt i = 0 then a else a ||| (1#64 <<< i))
    (x.icuPend &&& 0xFFFFFFFFFFFF0000#64)

/-- LEVEL of a source. -/
def Ridge.level (x : Ridge) (n : Nat) : Nat := Tbl.get 0 x.icuPrio n

/-- Source n is requested at a priority (R71). -/
def Ridge.requested (x : Ridge) (pri n : Nat) : Bool :=
  x.pend.getLsbD n && x.icuEn.getLsbD n && decide (pri < x.level n)

/-- The winning source: the highest level, then the lowest number (R71). -/
def Ridge.winner (x : Ridge) (pri : Nat) : Option Nat :=
  (List.range 64).foldl (fun best n =>
    if x.requested pri n then
      match best with
      | none => some n
      | some b => if x.level b < x.level n then some n else some b
    else best) none

/-- PSW fields (Table 3-3). -/
def pswPri (w : Word) : Nat := bitsOf w.toNat 3 1

/-- The core whose timeline is that of slot 0 (R71, R151, R182): the one that runs in the first occupied slot. -/
def State.lead (s : State) (r : Nat) : Option Nat := (s.runners r).head?

/-- PSW.PRI of the slot-0 timeline. -/
def State.ridgePri (s : State) (r : Nat) : Nat :=
  match s.lead r with
  | some c => pswPri (s.core c).psw
  | none => 0

/-- A register of ridge block r (03, 02, 07, 12, 17); none where no register is described. -/
def State.ridgeReg (s : State) (r o : Nat) : Option Word :=
  let x := s.ridge r
  if o = 0x00 then some x.status
  else if o = 0x04 then some (pack [(1, b2n x.secure), (0, b2n x.priv)])
  else if o = 0x08 then some x.membersReg
  else if o = 0x0C then some (x.start &&& ~~~3#32)
  else if o = 0x10 then some (pack [(0, b2n x.outen)])
  else if o = 0x14 then some (pack [(4, x.maxrst), (0, b2n x.restart)])
  else if o = 0x18 then some x.voteInfo
  else if o = 0x1C then some x.votePc
  else if o = 0x30 then some (pack [(31, b2n x.aeValid), (28, x.aeKind), (27, b2n x.aeWrite), (8, x.aeCount)])
  else if o = 0x34 then some x.aeAddr
  else if o = 0x40 then some 0
  else if o = 0x50 then some (pack [(31, b2n x.fcuValid), (16, x.fcuCount), (0, x.fcuSource)])
  else if o = 0x100 then some (x.icuEn.setWidth 32)
  else if o = 0x104 then some ((x.icuEn >>> 32).setWidth 32)
  else if o = 0x108 then some (x.pend.setWidth 32)
  else if o = 0x10C then some ((x.pend >>> 32).setWidth 32)
  else if 0x110 ≤ o ∧ o < 0x130 ∧ o % 4 = 0 then
    some (pack ((List.range 8).map fun i => (4 * i, x.level ((o - 0x110) / 4 * 8 + i))))
  else if 0x130 ≤ o ∧ o < 0x140 ∧ o % 4 = 0 then
    some (pack ((List.range 4).map fun i => (8 * i, Tbl.get 0 x.taskCnt ((o - 0x130) + i))))
  else if o = 0x140 then some (x.tovf.setWidth 32)
  else if o = 0x144 then some (match x.winner (s.ridgePri r) with
    | some n => pack [(15, 1), (8, x.level n), (0, n)]
    | none => 0)
  else if 0x180 ≤ o ∧ o < 0x220 ∧ o % 4 = 0 then some (pack [(0, x.route ((o - 0x180) / 4 + 24))])
  else none

/-- A register of watchdog block r (Table 16-3). -/
def State.wdtReg (s : State) (r o : Nat) : Option Word :=
  let w := (s.ridge r).wdt
  if o = 0x00 then some (pack [(16, w.open_), (0, w.period)])
  else if o = 0x04 then some (w.req.setWidth 32)
  else if o = 0x08 then some 0
  else if o = 0x0C then some (pack [(31, b2n w.en), (30, b2n w.warn), (29, b2n w.early), (28, b2n w.repeat_), (27, b2n w.rststg),
    (24, b2n w.miss), (0, w.done.toNat)])
  else if o = 0x10 then some (pack [(0, w.n)])
  else if o = 0x14 then some (pack [(31, b2n w.lastGood), (0, w.lastDone.toNat)])
  else none

/-- BIST_RESULT of a core (Table 8-12). -/
def Core.bist (c : Core) : Word :=
  pack [(29, c.bStatus), (28, b2n c.bMfail), (24, c.bSlices), (22, c.bQcount), (0, c.bPatcnt)]

/-- MCTL_CORE of a core (Table 7-2). -/
def Core.mctl (c : Core) : Word :=
  if c.st == .member || c.st == .shadow then pack [(15, 1), (8, c.ridge), (4, c.slot), (0, c.st.code)]
  else pack [(0, c.st.code)]

/-- COL_STATUS of a massif (Table 8-8). -/
def Massif.colStatus (m : Massif) : Word :=
  match m.col with
  | none => pack [(0, m.restarts)]
  | some c => pack [(31, 1), (28, c.phase), (27, b2n c.prioOn), (26, b2n c.rot), (24, c.tslot), (22, c.sslot), (16, c.ridge),
      (8, c.newcore), (0, m.restarts)]

/-- COL_PROGRESS (Table 8-9). -/
def Massif.colProgress (m : Massif) : Word := pack [(16, m.dmRows), (0, m.pmRows)]

/-- ROT_CFG (Table 8-11). -/
def Massif.rotCfg (m : Massif) : Word := pack [(31, b2n m.rotEn), (16, b2n m.rotPairs), (0, m.rotStep)]

/-- A DMA channel register (Table 11-10). -/
def Dma.reg (d : Dma) (o : Nat) : Option Word :=
  if o = 0x00 then some d.src
  else if o = 0x04 then some d.dst
  else if o = 0x08 then some (pack [(16, d.left % 2 ^ 16), (0, d.cnt)])
  else if o = 0x0C then some (d.esize.setWidth 32)
  else if o = 0x10 then some (pack [(16, d.dstep.toNat), (0, d.sstep.toNat)])
  else if o = 0x14 then some d.sbase
  else if o = 0x18 then some d.slen
  else if o = 0x1C then some d.dbase
  else if o = 0x20 then some d.dlen
  else if o = 0x24 then some 0
  else if o = 0x28 then some (pack [(31, b2n d.busy), (30, b2n d.done), (29, b2n d.err), (28, b2n d.stopped), (27, b2n d.ovr),
    (24, d.ekind)])
  else if o = 0x2C then some d.eaddr
  else if o = 0x30 then some (pack (ownBits d.owner 31 0))
  else none

/-- A register of massif control block m (Tables 7-2, 8-7 to 8-12, 11-3, 11-10). -/
def State.massifReg (s : State) (m o : Nat) : Option Word :=
  let x := s.massif m
  if o < 0x100 then (s.dma (4 * m + o / 0x40)).reg (o % 0x40)
  else if 0x400 ≤ o ∧ o < 0x800 then
    let g := Tbl.get Region.reset x.regions ((o - 0x400) / 0x20)
    match o % 0x20 with
    | 0x00 => some (pack [(31, b2n g.en), (16, g.limit), (0, g.base)])
    | 0x04 => some (g.rd.setWidth 32)
    | 0x08 => some ((g.rd >>> 32).setWidth 32)
    | 0x0C => some (g.wr.setWidth 32)
    | 0x10 => some ((g.wr >>> 32).setWidth 32)
    | _ => none
  else if o % 4 ≠ 0 then none
  else if 0x800 ≤ o ∧ o < 0x880 then let b := Tbl.get (false, 0) x.bankOwn ((o - 0x800) / 4)
    some (pack [(31, b2n b.1), (0, b.2)])
  else if 0x900 ≤ o ∧ o < 0x950 then some (pack [(0, Tbl.get 0 x.confCnt ((o - 0x900) / 4))])
  else if 0x980 ≤ o ∧ o < 0x9D0 then some (pack [(0, Tbl.get 0 x.confMax ((o - 0x980) / 4))])
  else if o = 0xE00 then some (pack [(24, x.prioDelay), (16, x.prio)])
  else if o = 0xE04 then some x.colStatus
  else if o = 0xE08 then some x.colProgress
  else if o = 0xE0C then some (pack [(0, x.colLast)])
  else if o = 0xE10 then some x.rotCfg
  else if 0xE40 ≤ o ∧ o < 0xE80 then some (s.core (16 * m + (o - 0xE40) / 4)).bist
  else if 0xF00 ≤ o ∧ o < 0xF40 then some (s.core (16 * m + (o - 0xF00) / 4)).mctl
  else none

/-- A MEM and WORD with VALID (Table 11-8). -/
def lastReg (x : Option (Nat × Nat)) : Word :=
  match x with
  | some (m, w) => pack [(31, 1), (20, m), (0, w)]
  | none => 0

/-- A register of the ECC block (Table 11-8). -/
def State.eccReg (s : State) (o : Nat) : Option Word :=
  let e := s.ecc
  if o = 0x000 then some (lastReg e.lastCe)
  else if o = 0x004 then some (lastReg e.lastUe)
  else if o = 0x010 then some (pack [(20, e.tMem), (0, e.tWord)])
  else if o = 0x014 then some (e.td.setWidth 32)
  else if o = 0x018 then some ((e.td >>> 32).setWidth 32)
  else if o = 0x01C then some (pack [(16, e.result), (8, e.syn.toNat), (0, e.chk.toNat)])
  else if o = 0x020 then some (pack [(31, b2n e.busy), (0, e.op)])
  else if o = 0x030 then some (pack [(31, b2n e.injArm), (30, b2n e.injEnb), (29, b2n e.injEna), (20, e.injMem), (0, e.injWord)])
  else if o = 0x034 then some (pack [(8, e.injB), (0, e.injA)])
  else if 0x1000 ≤ o ∧ o < 0x1000 + 0x10 * 0x89 then
    let u := s.scrub ((o - 0x1000) / 0x10)
    match o % 0x10 with
    | 0x0 => some (pack [(31, b2n u.en), (16, u.rate), (0, u.limit)])
    | 0x4 => some (pack [(0, u.lap)])
    | 0x8 => some (pack [(16, u.laps), (0, u.poisoned)])
    | _ => none
  else none

/-- AD_CFG to AD_PTP as ten words, active copy (Table 9-8). -/
def Domain.cfgWord (d : Domain) (k : Nat) : Option Word :=
  let c := d.cfg
  match k with
  | 0 => some (pack [(31, b2n c.en), (30, b2n c.fire), (29, b2n c.fv), (24, c.src), (20, c.pin), (18, c.edge.toNat), (12, c.feeder),
      (8, c.kp), (4, c.ki), (0, c.filt)])
  | 1 => some (pack [(0, c.evpc)])
  | 2 => some (pack [(0, c.phase)])
  | 3 => some (pack [(31, b2n d.offStg.isSome), (0, d.offset.toNat)])
  | 4 => some (pack [(24, c.miss), (0, c.hold)])
  | 5 => some (pack [(0, c.fnom)])
  | 6 => some (pack [(0, c.tol)])
  | 7 => some (pack [(24, c.lockn), (0, c.win)])
  | 8 => some (pack [(0, c.acc)])
  | 9 => some (pack [(16, c.num), (0, c.den)])
  | _ => none

/-- AD_STATUS (Table 9-9). A staged offset makes the staged copy of AD_OFFSET differ (R212). DESIGN CHOICE
(log 45): after an offset has applied, the staged OFFSET of zero (R211) does not count as differing from the active OFFSET. -/
def Domain.status (d : Domain) : Word :=
  pack [(31, b2n (d.stg != d.cfg || d.offStg.isSome)), (18, b2n d.stale), (17, b2n d.rev), (16, b2n d.clamp), (0, d.st.code)]

/-- A register of angle domain d (Tables 9-8, 9-9). -/
def State.adReg (s : State) (d o : Nat) : Option Word :=
  let x := s.dom d
  if o % 4 ≠ 0 then none
  else if o < 0x28 then x.cfgWord (o / 4)
  else if o = 0x30 then some (pack [(0, x.estCyc)])
  else if o = 0x34 then some 0
  else if o = 0x40 then some x.status
  else if o = 0x44 then some (pack [(0, x.freq)])
  else if o = 0x48 then some (pack [(0, x.fb)])
  else if o = 0x4C then some (x.err.setWidth 32)
  else if o = 0x50 then some (BitVec.ofNat 32 x.held)
  else if o = 0x54 then some (pack [(0, x.cyc)])
  else if o = 0x58 then some (pack [(16, x.rej), (0, x.missCnt)])
  else none

/-- AST_DSTAT, AST_DCNT, AST_DCNT2 and AST_DLAST of domain d (Tables 10-9 to 10-12). -/
def Domain.astReg (d : Domain) (k : Nat) : Option Word :=
  match k with
  | 0 => some (pack [(31, b2n d.resync), (30, b2n d.broken), (29, b2n d.late), (28, b2n d.skip), (27, b2n d.drop),
      (12, d.pos % 4096), (0, d.peak)])
  | 1 => some (pack [(16, d.lateCnt), (0, d.skipCnt)])
  | 2 => some (pack [(16, d.dropCnt), (0, d.discCnt)])
  | 3 => some (match d.last with
      | some (sk, e) => pack [(31, 1), (19, b2n sk), (0, e)]
      | none => 0)
  | _ => none

/-- AST_INFO (Table 10-7). -/
def State.astInfo (s : State) : Word := pack [(0, s.ast.links.length)]

/-- AST_EDIT (Table 10-8). -/
def State.astEdit (s : State) : Word :=
  pack [(31, b2n s.ast.busy), (28, s.ast.editDom), (24, s.ast.result), (0, s.ast.xcyc)]

/-- A register of the AST block (10, Registers). -/
def State.astReg (s : State) (o : Nat) : Option Word :=
  if o = 0 then some s.astInfo
  else if o = 4 then some s.astEdit
  else if 0x100 ≤ o ∧ o < 0x200 ∧ o % 4 = 0 then ((s.settleDom ((o - 0x100) / 0x20)).dom ((o - 0x100) / 0x20)).astReg (o % 0x20 / 4)
  else none

/-- A register of event channel ch (Table 12-5). -/
def State.chanReg (s : State) (ch o : Nat) : Option Word :=
  let c := (s.chan ch).upTo s.tick
  match o with
  | 0x0 => some (pack (ownBits c.owner 31 16 ++ [(30, b2n c.sec), (29, b2n c.automask), (0, c.lim)]))
  | 0x4 => some (pack [(12, c.ckind), (10, c.param), (0, c.cindex)])
  | 0x8 => some (pack [(31, b2n c.merge), (30, b2n c.storm), (29, b2n c.masked), (28, b2n c.held), (0, s.wcountNow c)])
  | 0xC => some (pack [(16, c.drops), (0, c.fires)])
  | _ => none

/-- Word w of a channel's enable-matrix row (Table 12-6). -/
def Channel.rowWord (c : Channel) (w : Nat) : Word := (c.row >>> (32 * w)).setWidth 32

/-- CHP_STAT (Table 13-12). -/
def ChPort.stat (p : ChPort) : Word :=
  pack [(31, b2n p.brk), (30, b2n p.crce), (29, b2n p.refu), (23, b2n p.evp), (22, b2n p.train.isSome), (21, b2n p.sync),
    (8, p.nodes), (0, p.st)]

/-- Words of a train descriptor (Table 13-18). -/
def Desc.word (d : Desc) (k : Nat) : Option Word :=
  match k with
  | 0 => some (pack [(31, b2n d.en), (8, d.d), (0, d.u)])
  | 1 => some (pack [(16, d.ubase), (0, d.dbase)])
  | 2 => some (pack [(16, d.adly), (0, d.sdly)])
  | _ => none

/-- A register of a chain port (13, Registers). -/
def ChPort.reg (p : ChPort) (o : Nat) : Option Word :=
  if o = 0x00 then some (pack [(31, b2n p.en), (30, b2n p.dual), (16, p.tmo), (0, p.nexp)])
  else if o = 0x04 then some p.stat
  else if o = 0x08 then some (pack [(8, p.locb), (0, p.loca)])
  else if o = 0x0C then some (pack [(8, p.launched), (0, p.done)])
  else if o = 0x10 then some (pack [(16, p.refused), (0, p.sloterr)])
  else if o = 0x14 then some p.slotmap
  else if o = 0x18 then some (pack [(0, p.loop)])
  else if 0x100 ≤ o ∧ o < 0x200 ∧ o % 4 = 0 then (Tbl.get Desc.reset p.descs ((o - 0x100) / 0x10)).word (o % 0x10 / 4)
  else if 0x800 ≤ o ∧ o < 0x880 ∧ o % 4 = 0 then some (Tbl.get 0 p.ntab ((o - 0x800) / 4))
  else none

/-- A register of a queue (Table 14-7). -/
def Queue.reg (q : Queue) (o : Nat) : Option Word :=
  match o with
  | 0x0 => some (pack [(31, b2n q.en), (16, q.owner.getD 0), (8, q.npage), (0, q.page)])
  | 0x4 => some (pack [(0, q.head)])
  | 0x8 => some (pack [(0, q.tail)])
  | 0xC => some (pack [(0, q.drop)])
  | _ => none

/-- Word k of a classifier rule without the bits that Table 14-2 gives no field, which read zero (R12). -/
def ruleFields (k : Nat) (w : Word) : Word :=
  if k = 0 then w &&& 0xFFEFFFFF#32 else if k = 3 then w &&& 0xFFFF0000#32 else w

/-- A word of a classifier rule (Table 14-2). -/
def ruleWord (x : Word × Word × Word × Word) (k : Nat) : Word :=
  match k with
  | 0 => x.1
  | 1 => x.2.1
  | 2 => x.2.2.1
  | _ => x.2.2.2

/-- A register of Ethernet port e (Table 14-7). -/
def State.ethReg (s : State) (e o : Nat) : Option Word :=
  let x := s.eth e
  if o = 0x000 then some (pack [(31, b2n x.en), (2, x.red), (0, x.mode)])
  else if o = 0x004 then some (pack [(16, x.bad), (0, x.nomatch_)])
  else if o = 0x008 then some (pack [(16, x.egress), (0, x.ingress)])
  else if 0x100 ≤ o ∧ o < 0x200 then (x.rx ((o - 0x100) / 0x10)).reg (o % 0x10)
  else if 0x200 ≤ o ∧ o < 0x280 then (x.tx ((o - 0x200) / 0x10)).reg (o % 0x10)
  else if e ≠ 0 then none
  else if o = 0x800 then some (BitVec.ofNat 32 (s.ptp.sec / 2 ^ 32))
  else if o = 0x804 then some (BitVec.ofNat 32 s.ptp.sec)
  else if o = 0x808 then some (BitVec.ofNat 32 s.ptp.ns)
  else if o = 0x80C then some s.ptp.adj
  else if o = 0x810 then some 0
  else if o = 0x814 then some (pack [(0, b2n s.ptp.synced)])
  else if 0x2000 ≤ o ∧ o < 0x3000 ∧ o % 4 = 0 then
    let n := (o - 0x2000) / 0x10
    let k := o % 0x10 / 4
    some (ruleFields k (if n < 8 then Config.fixedRule n k else ruleWord (Tbl.get (0, 0, 0, 0) s.rules n) k))
  else none

/-- SR_STAT (Table 14-8). -/
def SRing.stat (x : SRing) : Word :=
  pack [(31, b2n x.brka), (30, b2n x.brkb), (16, x.st), (8, x.addr), (0, x.count % 128)]

/-- A register of the station ring (Table 14-8). -/
def State.ringReg (s : State) (o : Nat) : Option Word :=
  if o = 0x000 then some s.ring.stat
  else if o = 0x004 then some (pack [(0, s.ring.crce)])
  else if 0x040 ≤ o ∧ o < 0x080 ∧ o % 4 = 0 then
    let x := Tbl.get (false, 0, 0) s.ring.min ((o - 0x040) / 4)
    some (pack [(31, b2n x.1), (8, x.2.1), (0, x.2.2)])
  else if 0x100 ≤ o ∧ o < 0x1F0 then
    let b := s.mbox ((o - 0x100) / 0x10)
    match o % 0x10 with
    | 0x0 => some (pack [(31, b2n b.en), (24, b.owner.getD 0), (16, b.peer), (8, b.peerMb), (0, b.page)])
    | 0x4 => some 0
    | 0x8 => some (pack [(31, b2n b.busy), (24, b.result), (8, b.ihead), (0, b.full.toNat)])
    | _ => none
  else none

/-- FCU_FIRST or FCU_LAST. -/
def srcReg (x : Option Nat) : Word :=
  match x with
  | some n => pack [(31, 1), (0, n)]
  | none => 0

/-- Number of sticky bits set. -/
def State.stickySet (s : State) : Nat := (s.fcu.srcs.filter fun e => e.2.sticky).length

/-- ALIVE toggles (R379). -/
def State.aliveOn (s : State) : Bool :=
  (s.pwr.st == .run || s.pwr.st == .standby) && !s.fcu.fatal && !s.pwr.scanen && s.cairn.ready && s.fcu.keep

/-- A register of the FCU (Table 17-5). -/
def State.fcuReg (s : State) (o : Nat) : Option Word :=
  if o % 4 ≠ 0 then none
  else if o < 0x200 then
    some (pack ((List.range 32).map fun j => (j, b2n (s.src (o / 4 * 32 + j)).sticky)))
  else if o = 0x200 then
    some (pack [(31, b2n s.fcu.fatal), (30, b2n s.errLow), (29, b2n s.aliveOn), (24, s.fcu.crstcnt), (0, s.stickySet)])
  else if o = 0x204 then some (srcReg s.fcu.first)
  else if o = 0x208 then some (srcReg s.fcu.last)
  else if o = 0x210 then
    some (pack [(31, b2n s.fcu.injArm), (30, b2n s.fcu.injHit), (29, b2n s.fcu.injMode), (0, s.fcu.injSrc)])
  else if 0x4000 ≤ o ∧ o < 0x8000 then
    let n := (o - 0x4000) / 4
    some (pack [(16, (s.src n).count), (8, (srcInfo n).1), (0, (s.maskOf n).toNat)])
  else none

/-- A register of the GP pin and capture block (Tables 19-11, 19-12, 9-10 to 9-12). -/
def State.gpReg (s : State) (o : Nat) : Option Word :=
  if o < 0x600 then
    let p := o / 0x10
    let g := s.gp p
    match o % 0x10 with
    | 0x0 => some (pack [(20, g.safe), (16, g.drv), (14, g.pull), (12, g.edge.toNat), (8, g.filt), (0, g.src)])
    | 0x4 => some (pack [(2, b2n (s.gpLevel p).isSome), (1, b2n g.inp), (0, b2n g.out)])
    | _ => none
  else if 0x8000 ≤ o ∧ o < 0x8200 then
    let u := s.cap ((o - 0x8000) / 0x10)
    match o % 0x10 with
    | 0x0 => some (pack [(8, u.pin), (4, u.trig.toNat), (0, u.domain)])
    | 0x4 => some u.angle
    | 0x8 => some (pack [(31, b2n u.valid), (30, b2n u.ovr), (16, u.st), (0, u.cyc)])
    | _ => none
  else none

/-- A sample with VALID (Table 19-13). -/
def monReg (x : Option (BitVec 16)) : Word :=
  match x with
  | some v => pack [(31, 1), (0, v.toNat)]
  | none => 0

/-- A monitor register (Table 19-13). -/
def State.monReg (s : State) (o : Nat) : Option Word :=
  if o % 4 ≠ 0 then none
  else if o < 0x20 then some (Sys2Proof.Machine.monReg (Tbl.get none s.mon.temps (o / 4)))
  else if 0x40 ≤ o ∧ o < 0x58 then some (Sys2Proof.Machine.monReg (Tbl.get none s.mon.volts ((o - 0x40) / 4)))
  else none

/-- PWR_STAT (Table 18-10). -/
def State.pwrStat (s : State) : Word :=
  pack [(31, b2n s.pwr.scanen), (30, b2n s.pwr.wipeBusy), (29, b2n s.pwr.wiped), (24, s.nvm.lc), (19, b2n s.pwr.pfail),
    (18, b2n s.pwr.tamp1), (17, b2n s.pwr.tamp0), (16, b2n s.pwr.brdok), (8, s.nvm.tepoch), (0, s.pwr.st.code)]

/-- NVM_STAT (Table 18-10). -/
def State.nvmStat (s : State) : Word := pack [(24, s.pwr.flashA), (16, s.pwr.flashB), (0, s.pwr.refused)]

/-- A register of the power, lifecycle and NVM block (Table 18-10). -/
def State.pwrReg (s : State) (o : Nat) : Option Word :=
  if o = 0x00 then some s.pwrStat
  else if o = 0x04 then some (pack [(0, s.pwr.code)])
  else if o = 0x08 then some (pack [(0, s.pwr.eavail)])
  else if o = 0x0C then some (pack [(0, s.pwr.eres)])
  else if o = 0x10 then some (pack [(0, s.pwr.ecommit)])
  else if o = 0x14 then some s.nvmStat
  else if o = 0x18 then some (pack [(0, s.pwr.jseq)])
  else if o = 0x1C then some s.pwr.fwVer
  else none

/-- DEVICE_ID (R2). -/
def deviceId : Word := 0x91600101

/-- The register at an offset of the register space (Table 2-2), the own-ridge aliases already resolved; none where no
register lies (log 15). -/
def State.regRead (s : State) (o : Nat) : Option Word :=
  if o = 0 then some deviceId
  else if 0x10000 ≤ o ∧ o < 0x20000 then s.ridgeReg ((o - 0x10000) / 0x400) (o % 0x400)
  else if 0x20000 ≤ o ∧ o < 0x24000 then s.wdtReg ((o - 0x20000) / 0x100) (o % 0x100)
  else if 0x40000 ≤ o ∧ o < 0x44000 then s.massifReg ((o - 0x40000) / 0x1000) (o % 0x1000)
  else if 0x50000 ≤ o ∧ o < 0x60000 then s.eccReg (o - 0x50000)
  else if 0x100000 ≤ o ∧ o < 0x100800 then (s.settleDom ((o - 0x100000) / 0x100)).adReg ((o - 0x100000) / 0x100) (o % 0x100)
  else if 0x101000 ≤ o ∧ o < 0x102000 then s.astReg (o - 0x101000)
  else if 0x110000 ≤ o ∧ o < 0x111000 then s.chanReg ((o - 0x110000) / 0x10) (o % 0x10)
  else if 0x114000 ≤ o ∧ o < 0x118000 ∧ o % 4 = 0 then
    some ((s.chan ((o - 0x114000) / 0x40)).rowWord (o % 0x40 / 4))
  else if 0x200000 ≤ o ∧ o < 0x240000 then (s.port ((o - 0x200000) / 0x1000)).reg (o % 0x1000)
  else if 0x300000 ≤ o ∧ o < 0x310000 then s.ethReg ((o - 0x300000) / 0x4000) (o % 0x4000)
  else if 0x310000 ≤ o ∧ o < 0x311000 then s.ringReg (o - 0x310000)
  else if 0x400000 ≤ o ∧ o < 0x408000 then s.fcuReg (o - 0x400000)
  else if 0x500000 ≤ o ∧ o < 0x509000 then s.gpReg (o - 0x500000)
  else if 0x600000 ≤ o ∧ o < 0x601000 then s.monReg (o - 0x600000)
  else if 0x700000 ≤ o ∧ o < 0x701000 then s.pwrReg (o - 0x700000)
  else none

/-- Who may use a register (Table 2-2, R38, R45). -/
inductive RegView where
  | every                                 -- every ridge reads and, where a field lets it, writes
  | everyRo                               -- every ridge, read only
  | priv                                  -- privileged view
  | own (r : Option Nat)                  -- a block with this owner
  | ownAny (rs : List Nat)                -- a block whose parts have owners: any of these
  deriving DecidableEq, Repr

/-- Ridges that own a queue of an Ethernet port. -/
def Eth.owners (e : Eth) : List Nat := (e.rxq.map (·.2) ++ e.txq.map (·.2)).filterMap (·.owner)

/-- View and owner of the register at an offset, and whether Cairn alone writes it (R40). ETH_CFG, ETH_CNT and ETH_TSCORR of a
port, and SR_STAT, SR_CNT and SR_MIN, belong to no queue or mailbox: DESIGN CHOICE (log 15), the owner of any queue of the port,
or of any mailbox, uses them through the unprivileged view. -/
def State.regView (s : State) (o : Nat) : RegView × Bool :=
  if o = 0 then (.everyRo, false)
  else if 0x10000 ≤ o ∧ o < 0x20000 then
    let q := o % 0x400
    (.own (some ((o - 0x10000) / 0x400)), q == 0 || q == 4 || q == 8 || q == 0xC || q == 0x14)
  else if 0x20000 ≤ o ∧ o < 0x24000 then (.own (some ((o - 0x20000) / 0x100)), false)
  else if 0x40000 ≤ o ∧ o < 0x44000 then
    let q := o % 0x1000
    if q < 0x100 ∧ q % 0x40 ≠ 0x30 then (.own (s.dma (4 * ((o - 0x40000) / 0x1000) + q / 0x40)).owner, false)
    else (.priv, true)
  else if 0x50000 ≤ o ∧ o < 0x60000 then (.priv, true)
  else if 0x100000 ≤ o ∧ o < 0x100800 then (.every, o % 0x100 != 0x30 && o % 0x100 != 0x34)
  else if 0x101000 ≤ o ∧ o < 0x102000 then (.everyRo, true)
  else if 0x110000 ≤ o ∧ o < 0x111000 then
    (.own (s.chan ((o - 0x110000) / 0x10)).owner, o % 0x10 == 0 || o % 0x10 == 4)
  else if 0x114000 ≤ o ∧ o < 0x118000 then (.own (s.chan ((o - 0x114000) / 0x40)).owner, true)
  else if 0x200000 ≤ o ∧ o < 0x240000 then
    let q := o % 0x1000
    (.own (s.port ((o - 0x200000) / 0x1000)).owner, q == 0 || q == 0x10 || q == 0x18 || decide (0x100 ≤ q))
  else if 0x300000 ≤ o ∧ o < 0x310000 then
    let e := (o - 0x300000) / 0x4000
    let q := o % 0x4000
    if 0x100 ≤ q ∧ q < 0x200 then (.own ((s.eth e).rx ((q - 0x100) / 0x10)).owner, q % 0x10 == 0)
    else if 0x200 ≤ q ∧ q < 0x280 then (.own ((s.eth e).tx ((q - 0x200) / 0x10)).owner, q % 0x10 == 0)
    else if 0x800 ≤ q ∧ q < 0x820 then (.own s.ptp.owner, false)
    else if 0x2000 ≤ q then (.priv, true)
    else (.ownAny (s.eth e).owners, q == 0)
  else if 0x310000 ≤ o ∧ o < 0x311000 then
    let q := o - 0x310000
    if 0x100 ≤ q then (.own (s.mbox ((q - 0x100) / 0x10)).owner, q % 0x10 == 0)
    else (.ownAny ((s.ring.mbs.map (·.2)).filterMap (·.owner)), decide (0x040 ≤ q))
  else if 0x400000 ≤ o ∧ o < 0x408000 then (.priv, true)
  else if 0x500000 ≤ o ∧ o < 0x508000 then (.own (s.gp ((o - 0x500000) / 0x10)).owner, o % 0x10 == 0)
  else if 0x508000 ≤ o ∧ o < 0x509000 then (.own (s.cap ((o - 0x508000) / 0x10)).owner, false)
  else if 0x600000 ≤ o ∧ o < 0x601000 then (.everyRo, false)
  else (.priv, true)

/-- Own-ridge aliases resolved (Table 2-2). -/
def regAlias (r o : Nat) : Nat :=
  if 0x30000 ≤ o ∧ o < 0x30400 then 0x10000 + r * 0x400 + (o - 0x30000)
  else if 0x30400 ≤ o ∧ o < 0x30500 then 0x20000 + r * 0x100 + (o - 0x30400)
  else o

/-- Ridge r owns the block of a register. -/
def RegView.owns (v : RegView) (r : Nat) : Bool :=
  match v with
  | .every | .everyRo => true
  | .priv => false
  | .own o => o == some r
  | .ownAny l => l.contains r

/-- A write of a ridge-block register by its ridge (Tables 2-4, 3-7, 7-11, 7-13, 12-2, 17-6; R72, R164, R276). -/
def State.writeRidgeReg (s : State) (r o : Nat) (w : Word) : State × Option Nat :=
  let x := s.ridge r
  if o = 0x10 then (s.setRidge r { x with outen := x.outen || (w.getLsbD 0 && x.running) }, none)
  else if o = 0x18 then (s.setRidge r { x with voteValid := x.voteValid && !w.getLsbD 31 }, none)
  else if o = 0x30 then (s.setRidge r { x with aeValid := x.aeValid && !w.getLsbD 31 }, none)
  else if o = 0x40 then (if w.getLsbD 0 && x.outen && x.running then s.pulse (320 + r) else s, none)
  else if o = 0x50 then (s.setRidge r { x with fcuValid := x.fcuValid && !w.getLsbD 31 }, none)
  else if o = 0x100 then (s.setRidge r { x with icuEn := (x.icuEn >>> 32 <<< 32) ||| w.setWidth 64 }, none)
  else if o = 0x104 then
    (s.setRidge r { x with icuEn := ((x.icuEn.setWidth 32).setWidth 64) ||| (w.setWidth 64 <<< 32) }, none)
  else if o = 0x108 then
    (s.setRidge r { x with icuPend := x.icuPend &&& ~~~((w &&& 0xFFFF0000#32).setWidth 64) }, none)
  else if o = 0x10C then (s.setRidge r { x with icuPend := x.icuPend &&& ~~~(w.setWidth 64 <<< 32) }, none)
  else if 0x110 ≤ o ∧ o < 0x130 then
    let prio := (List.range 8).foldl
      (fun t i => Tbl.set t ((o - 0x110) / 4 * 8 + i) (bitsOf w.toNat (4 * i + 2) (4 * i))) x.icuPrio
    (s.setRidge r { x with icuPrio := prio }, none)
  else if o = 0x140 then (s.setRidge r { x with tovf := x.tovf &&& ~~~(w.setWidth 16) }, none)
  else if 0x180 ≤ o ∧ o < 0x220 then
    let l := w.toNat % 0x400
    if l ≠ 0x3FF ∧ lineAssigned l = false then (s, some 0)
    else if l ≠ 0x3FF ∧ s.ownsLine r l = false then (s, some 1)
    else (s.setRidge r { x with icuRoute := Tbl.set x.icuRoute ((o - 0x180) / 4 + 24) l }, none)
  else (s, none)

/-- A write of a watchdog register by its ridge (R360, R361, R364, R368). -/
def State.writeWdtReg (s : State) (r o : Nat) (w : Word) : State × Option Nat :=
  let x := (s.ridge r).wdt
  if o = 0x00 then
    if x.en then (s, some 4)
    else (s.updWdt r fun x => { x with open_ := bitsOf w.toNat 19 16, period := bitsOf w.toNat 15 0, en := true, reqLock := true,
                                        n := 0, fresh := true, done := 0, miss := false, failed := false, checkins := [] }, none)
  else if o = 0x04 then
    if x.reqLock then (s, some 4) else (s.updWdt r fun x => { x with req := w.setWidth 16, reqLock := true }, none)
  else if o = 0x08 then
    (if x.en && (s.ridge r).running && w.setWidth 16 != (0 : BitVec 16)
      then s.updWdt r fun x => { x with checkins := x.checkins ++ [w.setWidth 16] } else s, none)
  else if o = 0x0C then
    (s.updWdt r fun x => { x with warn := x.warn && !w.getLsbD 30, early := x.early && !w.getLsbD 29,
                                   repeat_ := x.repeat_ && !w.getLsbD 28, rststg := x.rststg && !w.getLsbD 27 }, none)
  else (s, none)

/-- A write of a DMA channel register by its owner (R256, Table 11-10). -/
def State.writeDmaReg (s : State) (ch o : Nat) (w : Word) : State × Option Nat :=
  let d := s.dma ch
  if d.busy && (decide (o ≤ 0x20) && decide (o % 4 = 0)) then (s, some 4)
  else if o = 0x00 then (s.updDma ch fun d => { d with src := w }, none)
  else if o = 0x04 then (s.updDma ch fun d => { d with dst := w }, none)
  else if o = 0x08 then (s.updDma ch fun d => { d with cnt := bitsOf w.toNat 15 0 }, none)
  else if o = 0x0C then (s.updDma ch fun d => { d with esize := w.setWidth 2 }, none)
  else if o = 0x10 then (s.updDma ch fun d => { d with sstep := w.setWidth 16, dstep := (w >>> 16).setWidth 16 }, none)
  else if o = 0x14 then (s.updDma ch fun d => { d with sbase := w }, none)
  else if o = 0x18 then (s.updDma ch fun d => { d with slen := w }, none)
  else if o = 0x1C then (s.updDma ch fun d => { d with dbase := w }, none)
  else if o = 0x20 then (s.updDma ch fun d => { d with dlen := w }, none)
  else if o = 0x24 then
    let s := if w.getLsbD 1 then s.dmaAbort ch else s
    (if w.getLsbD 0 then (s.dmaStart ch).1 else s, none)
  else if o = 0x28 then
    (s.updDma ch fun d => { d with done := d.done && !w.getLsbD 30, err := d.err && !w.getLsbD 29,
                                    stopped := d.stopped && !w.getLsbD 28, ovr := d.ovr && !w.getLsbD 27 }, none)
  else (s, none)

/-- A write of AD_EST_CYC or AD_EST_ERR by ridge r (R202): that of the feeder has no effect while SRC is not RIDGE. It meets the
configuration that step 2 of its tick leaves (R213). -/
def State.writeAdReg (s : State) (r d o : Nat) (w : Word) : State × Option Nat :=
  let s := s.boundaries (s.dom d).due d
  let x := s.dom d
  if !(x.cfg.fv && x.cfg.feeder == r) then (s, some 1)
  else if x.cfg.src != 3 then (s, none)
  else if o = 0x30 then (s.updDom d fun x => { x with estCyc := bitsOf w.toNat 15 0 }, none)
  else (s.ridgeEstimate d (w.setWidth 24), none)

/-- A write of CH_STAT by the owner (R284, Table 12-5): a storm in this tick leaves STORM and MASKED set (R10). -/
def Channel.writeStat (c : Channel) (tick : Nat) (w : Word) : Channel :=
  let c := c.upTo tick
  let now := c.stormAt == some tick
  { c with merge := c.merge && !w.getLsbD 31, storm := c.storm && (now || !w.getLsbD 30)
           masked := c.masked && (now || !w.getLsbD 29), held := c.held && !(c.masked && w.getLsbD 29 && !now) }

/-- A write that the filtering lets through, to the block's own fields: the state, or the KIND with which the block refuses
it (R9, R13). -/
def State.regWrite (s : State) (r o : Nat) (w : Word) : State × Option Nat :=
  if 0x10000 ≤ o ∧ o < 0x20000 then s.writeRidgeReg ((o - 0x10000) / 0x400) (o % 0x400) w
  else if 0x20000 ≤ o ∧ o < 0x24000 then s.writeWdtReg ((o - 0x20000) / 0x100) (o % 0x100) w
  else if 0x40000 ≤ o ∧ o < 0x44000 then s.writeDmaReg (4 * ((o - 0x40000) / 0x1000) + o % 0x1000 / 0x40) (o % 0x40) w
  else if 0x100000 ≤ o ∧ o < 0x100800 then s.writeAdReg r ((o - 0x100000) / 0x100) (o % 0x100) w
  else if 0x110000 ≤ o ∧ o < 0x111000 then
    (if o % 0x10 = 8 then s.updChan ((o - 0x110000) / 0x10) fun c => c.writeStat s.tick w else s, none)
  else if 0x200000 ≤ o ∧ o < 0x240000 then
    (if o % 0x1000 = 4 then s.updPort ((o - 0x200000) / 0x1000) fun p =>
        { p with brk := p.brk && !w.getLsbD 31, crce := p.crce && !w.getLsbD 30, refu := p.refu && !w.getLsbD 29 }
      else s, none)
  else if 0x300000 ≤ o ∧ o < 0x310000 then
    let e := (o - 0x300000) / 0x4000
    let q := o % 0x4000
    if 0x100 ≤ q ∧ q < 0x280 ∧ q % 0x10 = 8 then s.writeTail r e ((q - 0x100) / 0x10) (w.toNat % 256)
    else if q = 0x80C then ({ s with ptp := { s.ptp with adj := w } }, none)
    else if q = 0x810 then (s.writePtpStep w, none)
    else if q = 0x814 then ({ s with ptp := { s.ptp with synced := w.getLsbD 0 } }, none)
    else (s, none)
  else if 0x310000 ≤ o ∧ o < 0x311000 then
    let q := o - 0x310000
    if q = 0 then (s.updRing fun x => { x with brka := x.brka && !w.getLsbD 31, brkb := x.brkb && !w.getLsbD 30 }, none)
    else if 0x100 ≤ q ∧ q % 0x10 = 4 then s.mbSend r ((q - 0x100) / 0x10) (bitsOf w.toNat 8 0)
    else if 0x100 ≤ q ∧ q % 0x10 = 8 then
      (s.updMbox ((q - 0x100) / 0x10) fun b => { b with full := b.full &&& ~~~(w.setWidth 7) }, none)
    else (s, none)
  else if 0x500000 ≤ o ∧ o < 0x508000 then
    (if o % 0x10 = 4 then s.updGp ((o - 0x500000) / 0x10) fun g => { g with out := w.getLsbD 0, swAt := some s.tick } else s, none)
  else if 0x508000 ≤ o ∧ o < 0x509000 then
    let u := (o - 0x508000) / 0x10
    if o % 0x10 = 0 then
      (s.writeCapCfg u (bitsOf w.toNat 11 8) ((w >>> 4).setWidth 2) (bitsOf w.toNat 2 0), none)
    else if o % 0x10 = 8 then (s.writeCapStat u (w.getLsbD 31) (w.getLsbD 30), none)
    else (s, none)
  else (s, none)

/-- Blocks of Table 2-2 whose registers the manual does not describe: the host port and the vault control (log 15). -/
def inHostBlock (o : Nat) : Bool := decide (0x320000 ≤ o ∧ o < 0x330000)

/-- The Harcy vault control block (log 15). -/
def inVaultBlock (o : Nat) : Bool := decide (0x800000 ≤ o ∧ o < 0x810000)

/-- The register at an offset has a field that a ridge can write (access codes RW, W1C, W1S, WO and WL of Table 0-3). -/
def hasWritable (o : Nat) : Bool :=
  let q := if o < 0x20000 then o % 0x400 else if o < 0x40000 then o % 0x100 else if o < 0x44000 then o % 0x40 else o % 0x10
  if o < 0x10000 then false
  else if o < 0x20000 then
    [0x10, 0x18, 0x30, 0x40, 0x50, 0x100, 0x104, 0x108, 0x10C, 0x140].contains q || decide (0x110 ≤ q ∧ q < 0x130)
      || decide (0x180 ≤ q ∧ q < 0x220)
  else if o < 0x24000 then [0x00, 0x04, 0x08, 0x0C].contains q
  else if 0x40000 ≤ o ∧ o < 0x44000 then decide (o % 0x1000 < 0x100) && decide (q ≤ 0x28)
  else if 0x100000 ≤ o ∧ o < 0x100800 then o % 0x100 == 0x30 || o % 0x100 == 0x34
  else if 0x110000 ≤ o ∧ o < 0x111000 then q == 8
  else if 0x200000 ≤ o ∧ o < 0x240000 then o % 0x1000 == 4
  else if 0x300000 ≤ o ∧ o < 0x310000 then
    let k := o % 0x4000
    (decide (0x100 ≤ k ∧ k < 0x280) && q == 8) || [0x80C, 0x810, 0x814].contains k
  else if 0x310000 ≤ o ∧ o < 0x311000 then o == 0x310000 || (decide (0x310100 ≤ o) && (q == 4 || q == 8))
  else if 0x500000 ≤ o ∧ o < 0x508000 then q == 4
  else if 0x508000 ≤ o ∧ o < 0x509000 then q == 0 || q == 8
  else false

/-- KINDs of Table 2-6 that apply before the block: filtering of the view for a read or a write (R13, R38 to R40). Through the
privileged view the vault control block needs SECURE (R39), a register that Cairn writes answers KIND 0b010 and any other that
has no field to write answers normally (R13). DESIGN CHOICE (log 15): through it, a write of a register with a writable field in a
block that the ridge does not own, or that nobody owns, answers KIND 0b001; R39 allows none and names no response. -/
def State.regKinds (s : State) (r : Nat) (privView write : Bool) (o : Nat) : List Nat :=
  let (v, cairn) := s.regView o
  if !privView && (inHostBlock o || inVaultBlock o) then [2]
  else if inVaultBlock o && !(s.ridge r).secure then [3]
  else if (s.regRead o).isNone then [0] else
  let filter :=
    if privView then (if write && !v.owns r && !cairn && hasWritable o then [1] else [])
    else match v with
      | .every => []
      | .everyRo => if write then [4] else []
      | .priv => [2]
      | .own _ | .ownAny _ => if v.owns r then [] else [1]
  filter ++ (if write && cairn then [2] else [])

/-- The lowest KIND of a list (R47). -/
def lowestKind (l : List Nat) : Option Nat :=
  l.foldl (fun a k => match a with
    | none => some k
    | some b => some (min b k)) none

/-- A register access of ridge r that passed the ridge's check, at an offset of a view (R37 to R44, R47): the word read, the
state, and the KIND of an error response; of a poisoned write, 0b110 or the lower KIND of the write without the poison. -/
def State.regAccess (s : State) (r : Nat) (privView write : Bool) (o : Nat) (w : Word) (poison : Bool) :
    Word × State × Option Nat :=
  let o := regAlias r o
  let ks := s.regKinds r privView write o
  if !write then
    match lowestKind ks with
    | some k => (0, s, some k)
    | none => ((s.regRead o).getD 0, s, none)
  else if poison then
    let block := if ks.isEmpty then ((s.regWrite r o w).2).toList else []
    (0, s.fcuEvent (0x800 + 8 * r + 4), lowestKind (ks ++ block ++ [6]))
  else
    match lowestKind ks with
    | some k => (0, s, some k)
    | none =>
      let (s', k) := s.regWrite r o w
      (0, s', k)

end Sys2Proof.Machine
end

