-- ==== Sys2Proof/Machine/Bus.lean ====
section
/-!
DEFINITION. The core address map, the ridge's check of an address before a request leaves it, and what a request does at its
target (chapter 02; R251, R252; R330 to R335 for the buffers).
-/

namespace Sys2Proof.Machine

/-- Rows of Table 2-1. -/
inductive Row where
  | pm | dm | massif (n : Nat) | ownMassif | ast | uview | pview | chain | eth | vault
  deriving DecidableEq, Repr

/-- The row of Table 2-1 that holds an address; none where the table lists none (R26). -/
def rowOf (a : Nat) : Option Row :=
  if a < 0x18000 then some .pm
  else if 0x10000000 ≤ a ∧ a < 0x10020000 then some .dm
  else if 0x20000000 ≤ a ∧ a < 0x24000000 then
    (if a % 0x1000000 < 0x200000 then some (.massif ((a - 0x20000000) / 0x1000000)) else none)
  else if 0x2F000000 ≤ a ∧ a < 0x2F200000 then some .ownMassif
  else if 0x30000000 ≤ a ∧ a < 0x30800000 then some .ast
  else if 0x40000000 ≤ a ∧ a < 0x41000000 then some .uview
  else if 0x41000000 ≤ a ∧ a < 0x42000000 then some .pview
  else if 0x50000000 ≤ a ∧ a < 0x50100000 then some .chain
  else if 0x60000000 ≤ a ∧ a < 0x60080000 then some .eth
  else if 0x70000000 ≤ a ∧ a < 0x70040000 then some .vault
  else none

/-- Bytes of an access lie in more than one doubleword (R55). -/
def isSplit (a size : Nat) : Bool := decide (8 < a % 8 + size)

/-- Memory identifier and offset of an address in a memory region other than PM and DM (Table 2-1, Table 11-6). -/
def State.memOf (s : State) (r a : Nat) : Option (Nat × Nat) :=
  match rowOf a with
  | some (.massif n) => some (0x80 + n, a % 0x200000)
  | some .ownMassif => some (0x80 + (s.ridge r).massif, a % 0x200000)
  | some .ast => some (0x84, a % 0x800000)
  | some .chain => some (0x86, a % 0x100000)
  | some .eth => some (0x87, a % 0x80000)
  | some .vault => some (0x88, a % 0x40000)
  | _ => none

/-- Region n covers the page of an offset and permits ridge r (R251). -/
def Region.covers (g : Region) (r : Nat) (write : Bool) (off : Nat) : Bool :=
  g.en && decide (g.base ≤ off / 4096 ∧ off / 4096 ≤ g.limit) && (if write then g.wr.getLsbD r else g.rd.getLsbD r)

/-- The region and bank check of massif memory (R251, R252): bytes in banks with an owner go by the owner, and some one
region covers every other byte. -/
def State.massifAllowed (s : State) (m r : Nat) (write : Bool) (off size : Nat) : Bool :=
  let x := s.massif m
  let owner (a : Nat) : Option Nat := x.bankOwner (a / 8 % 32)
  let offs := (List.range size).map (· + off)
  let owned := offs.filter fun a => (owner a).isSome
  let others := offs.filter fun a => (owner a).isNone
  owned.all (fun a => owner a == some r) &&
    (others.isEmpty || (List.range 32).any fun n => others.all fun a => (Tbl.get Region.reset x.regions n).covers r write a)

/-- The vault window is open to a ridge (R33). -/
def State.vaultOpen (s : State) (r : Nat) : Bool :=
  (s.ridge r).secure && (s.nvm.lc == 1 || s.nvm.lc == 2) && !s.pwr.wipeBusy

/-- KINDs of Table 2-6 with which the ridge's check refuses a request (R434), lowest first not required. mode: the core
executes in privileged mode; vec: a vector access. -/
def State.checkKinds (s : State) (r : Nat) (mode write : Bool) (addr size : Nat) (vec : Bool) : List Nat :=
  let last := (addr + size - 1) % 2 ^ 32
  match rowOf addr, rowOf last with
  | some a, some b =>
    if a ≠ b then [7, 5] ++ (if (s.ridge r).priv && mode then [] else [2]) else   -- only the two register views adjoin
    match a with
    | .pm | .dm => []
    | .massif n => if s.massifAllowed n r write (addr % 0x200000) size then [] else [1]
    | .ownMassif => if s.massifAllowed (s.ridge r).massif r write (addr % 0x200000) size then [] else [1]
    | .ast => if write then [4] else []
    | .uview => if vec || size != 4 || addr % 4 != 0 then [5] else []
    | .pview =>
      (if vec || size != 4 || addr % 4 != 0 then [5] else []) ++ (if (s.ridge r).priv && mode then [] else [2])
    | .chain => if (s.port (addr % 0x100000 / 0x4000)).owner == some r &&
        (s.port (last % 0x100000 / 0x4000)).owner == some r then [] else [1]
    | .eth => if Tbl.get none s.pages (addr % 0x80000 / 4096) == some r &&
        Tbl.get none s.pages (last % 0x80000 / 4096) == some r then [] else [1]
    | .vault => if !s.vaultOpen r then [3] else if write && decide (0x3FE00 ≤ last % 0x40000) then [4] else []
  | _, _ => [0]

/-- The check of a request (R434): none lets it leave. -/
def State.check (s : State) (r : Nat) (mode write : Bool) (addr size : Nat) (vec : Bool) : Option Nat :=
  lowestKind (s.checkKinds r mode write addr size vec)

/-- The massif whose ports a request enters (R246). -/
def State.massifOfAddr (s : State) (r a : Nat) : Option Nat :=
  match rowOf a with
  | some (.massif n) => some n
  | some .ownMassif => some (s.ridge r).massif
  | _ => none

/-- The checkers of massif m check an access to its memory (R251, R252, R383): those of regions and bank owners each one, that of ports
and fabric one that is sent. -/
def State.accessCheck (s : State) (m : Nat) (sent : Bool) : State :=
  if !s.fcu.injArm then s else
  let s := (s.fcuCheck (0xA40 + 0x80 * m) false).fcuCheck (0xA41 + 0x80 * m) false
  if sent then s.fcuCheck (0xA47 + 0x80 * m) false else s

/-- The check of an access of ridge r that is refused, where its address lies in massif memory. -/
def State.refusedCheck (s : State) (r a : Nat) : State :=
  match s.massifOfAddr r a with
  | some m => s.accessCheck m false
  | none => s

/-- Bytes as the little-endian word that they hold, and whether any is poisoned. -/
def wordOfBytes (l : List PByte) : Word × Bool := (BitVec.ofNat 32 (ofBytesLE (l.map (·.1))), l.any (·.2))

/-- Bytes of a number with one tag. -/
def taggedLE (k x : Nat) (p : Bool) : List PByte := (bytesLE k x).map fun b => (b, p)

/-- Runs of consecutive bytes that a mask keeps, each with its offset; an empty mask keeps all. -/
def byteRuns (data : List PByte) (mask : List Bool) : List (Nat × List PByte) :=
  if mask.isEmpty then [(0, data)] else
  ((List.range data.length).foldl (fun (a : List (Nat × List PByte)) i =>
    if mask[i]? = some true then
      let b := at_ data i (0, false)
      match a with
      | (o, l) :: t => if o + l.length = i then (o, l ++ [b]) :: t else (i, [b]) :: a
      | [] => [(i, [b])]
    else a) []).reverse

/-- Bytes of a list replaced from a place on. -/
def replaceAt {α : Type} (l : List α) (i : Nat) (xs : List α) : List α := l.take i ++ xs ++ l.drop (i + xs.length)

/-- The vault refuses an access that reaches it while R33 closes it: a wipe may have begun since the ridge's check (R33). -/
def State.vaultShut (s : State) (r a : Nat) : Bool := rowOf a == some .vault && !s.vaultOpen r

/-- A checked read of ridge r at its target, massif memory included: bytes, KIND of an error response, and the state. Bytes
that the request does not act on are not read (R109). -/
def State.targetRead (s : State) (r : Nat) (q : Req) : List PByte × Option Nat × State :=
  let a := q.addr.toNat
  let zeros : List PByte := List.replicate q.size (0, false)
  if s.vaultShut r a then (zeros, some 3, s) else
  match s.memOf r a with
  | some (m, off) =>
    let (b, s) := (byteRuns zeros q.mask).foldl (fun (x : List PByte × State) run =>
      let (b, s) := x.2.readBytes m (off + run.1) run.2.length
      (replaceAt x.1 run.1 b, s)) (zeros, s)
    (b, none, s)
  | none =>
    let (w, s, k) := s.regAccess r (rowOf a == some .pview) false (a % 0x1000000) 0 false
    (taggedLE 4 (if k.isSome then 0 else w.toNat) false, k, s)

/-- A checked write of ridge r at its target: KIND of an error response, and the state. -/
def State.targetWrite (s : State) (r : Nat) (q : Req) : Option Nat × State :=
  let a := q.addr.toNat
  if s.vaultShut r a then (some 3, s) else
  match s.memOf r a with
  | some (m, off) => (none, (if m = 0x86 then (wordsOf m off q.size).foldl State.noteChain s else s).writeMasked m off q.data q.mask)
  | none =>
    let (w, p) := wordOfBytes q.data
    let (_, s, k) := s.regAccess r (rowOf a == some .pview) true (a % 0x1000000) w p
    (k, s)

/-- ACCESS_ERROR waits at the next bundle boundary of every core in which the ridge runs (R58, R182), the earliest address
first. -/
def State.boundaryError (s : State) (r : Nat) (addr : Word) : State :=
  if !(s.ridge r).running then s else
  (s.runners r).foldl (fun s c => s.updCore c fun x => { x with aerr := x.aerr.or (some addr) }) s

/-- Register offset that an address of either view names, own-block aliases resolved (R37, R39). -/
def regOffset (r : Nat) (addr : Word) : Option Nat :=
  match rowOf addr.toNat with
  | some .uview | some .pview => some (regAlias r (addr.toNat % 0x1000000))
  | _ => none

/-- PSW.MODE of the slot-0 timeline. -/
def State.leadMode (s : State) (r : Nat) : Bool :=
  match s.lead r with
  | some c => (s.core c).psw.getLsbD 4
  | none => false

/-- A register write of ridge r that has passed the vote: checked, filtered, applied, and an error response recorded and
waiting as ACCESS_ERROR (R38 to R47, R58). A ridge without a program writes nothing. -/
def State.ridgeWrite (s : State) (r : Nat) (addr data : Word) (p : Bool) : State :=
  if !(s.ridge r).running then s else
  let k := s.check r (s.leadMode r) true addr.toNat 4 false
  match k with
  | some k => (s.recordError r k true addr).boundaryError r addr
  | none =>
    match s.targetWrite r { write := true, addr := addr, size := 4, data := taggedLE 4 data.toNat p } with
    | (some k, s) => (s.recordError r k true addr).boundaryError r addr
    | (none, s) => s

/-- The register write of a row that names its register: nothing happens where the address names another. -/
def State.namedWrite (s : State) (r : Nat) (addr data : Word) (p : Bool) (names : Nat → Bool) : State :=
  match regOffset r addr with
  | some o => if names o then s.ridgeWrite r addr data p else s
  | none => s

/-- REGISTER_WRITE (R38). -/
def execRegisterWrite (r : Fin 64) (addr data : Word) (p : Bool) (s : State) : Host.Outcome State Fault Refusal :=
  .next (s.namedWrite r addr data p fun _ => true)

/-- ICU_ROUTE_WRITE (R72). -/
def execIcuRouteWrite (r : Fin 64) (addr data : Word) (p : Bool) (s : State) : Host.Outcome State Fault Refusal :=
  .next (s.namedWrite r addr data p fun o => decide (0x10000 ≤ o ∧ o < 0x20000 ∧ 0x180 ≤ o % 0x400 ∧ o % 0x400 < 0x220))

/-- OUTEN_SET (R164): a write of RIDGE_CTRL. -/
def execOutenSet (r : Fin 64) (addr data : Word) (p : Bool) (s : State) : Host.Outcome State Fault Refusal :=
  .next (s.namedWrite r addr data p fun o => decide (0x10000 ≤ o ∧ o < 0x20000) && o % 0x400 == 0x10)

/-- RIDGE_EVSIG_FIRE (R276): a write of RIDGE_EVSIG. -/
def execRidgeEvsigFire (r : Fin 64) (addr data : Word) (p : Bool) (s : State) : Host.Outcome State Fault Refusal :=
  .next (s.namedWrite r addr data p fun o => decide (0x10000 ≤ o ∧ o < 0x20000) && o % 0x400 == 0x40)

/-- WDT_CFG_WRITE (R360). -/
def execWdtCfgWrite (r : Fin 64) (addr data : Word) (p : Bool) (s : State) : Host.Outcome State Fault Refusal :=
  .next (s.namedWrite r addr data p fun o => decide (0x20000 ≤ o ∧ o < 0x24000) && o % 0x100 == 0)

/-- WDT_REQ_WRITE (R361). -/
def execWdtReqWrite (r : Fin 64) (addr data : Word) (p : Bool) (s : State) : Host.Outcome State Fault Refusal :=
  .next (s.namedWrite r addr data p fun o => decide (0x20000 ≤ o ∧ o < 0x24000) && o % 0x100 == 4)

/-- WDT_CHK_WRITE (R364). -/
def execWdtChkWrite (r : Fin 64) (addr data : Word) (p : Bool) (s : State) : Host.Outcome State Fault Refusal :=
  .next (s.namedWrite r addr data p fun o => decide (0x20000 ≤ o ∧ o < 0x24000) && o % 0x100 == 8)

/-- AD_EST_ERR_WRITE (R202). -/
def execAdEstErrWrite (r : Fin 64) (addr data : Word) (p : Bool) (s : State) : Host.Outcome State Fault Refusal :=
  .next (s.namedWrite r addr data p fun o => decide (0x100000 ≤ o ∧ o < 0x100800) && o % 0x100 == 0x34)

/-- Q_TAIL_WRITE (R323). -/
def execQTailWrite (r : Fin 64) (addr data : Word) (p : Bool) (s : State) : Host.Outcome State Fault Refusal :=
  .next (s.namedWrite r addr data p fun o =>
    decide (0x300000 ≤ o ∧ o < 0x310000 ∧ 0x100 ≤ o % 0x4000 ∧ o % 0x4000 < 0x280) && o % 0x10 == 8)

/-- PTP_STEP (R326). -/
def execPtpStep (r : Fin 64) (addr data : Word) (p : Bool) (s : State) : Host.Outcome State Fault Refusal :=
  .next (s.namedWrite r addr data p fun o => decide (0x300000 ≤ o ∧ o < 0x310000) && o % 0x4000 == 0x810)

/-- SR_MB_SEND (R332). -/
def execSrMbSend (r : Fin 64) (addr data : Word) (p : Bool) (s : State) : Host.Outcome State Fault Refusal :=
  .next (s.namedWrite r addr data p fun o => decide (0x310100 ≤ o ∧ o < 0x310200) && o % 0x10 == 4)

/-- GP_IO_WRITE (R415). -/
def execGpIoWrite (r : Fin 64) (addr data : Word) (p : Bool) (s : State) : Host.Outcome State Fault Refusal :=
  .next (s.namedWrite r addr data p fun o => decide (0x500000 ≤ o ∧ o < 0x500600) && o % 0x10 == 4)

end Sys2Proof.Machine
end

