-- ==== Sys2Proof/Machine/Flags.lean ====
section
/-!
DEFINITION. What a core computes beside the plain result: saturation, reduction, rounding and the saturation flag (chapters
04 and 05). A core has no condition flags (03, Branches).
-/

namespace Sys2Proof.Machine

/-- Reduction of an exact component to 40 bits (R85). -/
def reduce40 (sat : Bool) (x : Int) : BitVec 40 := BitVec.ofInt 40 (if sat then satS 40 x else x)

/-- PSW.SAT of a status word (Table 3-3). -/
def pswSat (w : Word) : Bool := w.getLsbD 9

/-- Bit i of an exact value. -/
def intBit (x : Int) (i : Nat) : Bool := x / 2 ^ i % 2 == 1

/-- Rounding increment of a right shift by d (Table 5-3). -/
def roundInc (rm : BitVec 2) (x : Int) (d : Nat) : Int :=
  if d = 0 then 0
  else if rm = 0 then 0
  else if rm = 1 then (if intBit x (d - 1) then 1 else 0)
  else if rm = 2 then (if intBit x (d - 1) && (x % 2 ^ (d - 1) != 0 || intBit x d) then 1 else 0)
  else (if !intBit x d && x % 2 ^ d != 0 then 1 else 0)

/-- Shift right by d and round (05, Fixed-point arithmetic). -/
def roundShift (rm : BitVec 2) (x : Int) (d : Nat) : Int := x / 2 ^ d + roundInc rm x d

/-- A saturating result of width w: the value, and whether it clamped (R112). -/
def satFlag (w : Nat) (x : Int) : Int × Bool := (satS w x, satS w x != x)

/-- Number of consecutive bits from bit top downward that equal the bit above it (R89, R91). -/
def signRun : Nat → Nat → Nat
  | 0, x => if bitOf x 0 == bitOf x 1 then 1 else 0
  | n + 1, x => if bitOf x (n + 1) == bitOf x (n + 2) then 1 + signRun n x else 0

end Sys2Proof.Machine
end

