-- ==== Sys2Proof/Machine/Words.lean ====
section
/-!
DEFINITION. The operation word (chapter 06): building one from its fields, the slot set of its class, and the test for an
undefined encoding.
-/

namespace Sys2Proof.Machine

/-- A word of a class from its fields (R124, R130). -/
def mkWord (e : Bool) (cls : Nat) (fs : List (Nat × Nat)) : Word := pack ((31, b2n e) :: (26, cls) :: fs)

/-- Class ALU (Table 6-3). -/
def aluWord (e : Bool) (func : Nat) (rd ra rb : BitVec 5) : Word :=
  mkWord e 0x01 [(21, rd.toNat), (16, ra.toNat), (11, rb.toNat), (0, func)]

/-- Class ALUI. -/
def aluiWord (e : Bool) (func : Nat) (rd ra : BitVec 5) (imm : BitVec 12) : Word :=
  mkWord e 0x02 [(21, rd.toNat), (16, ra.toNat), (12, func), (0, imm.toNat)]

/-- Class MOVI. -/
def moviWord (e : Bool) (func : Nat) (rd : BitVec 5) (imm : BitVec 16) : Word :=
  mkWord e 0x03 [(21, rd.toNat), (18, func), (0, imm.toNat)]

/-- Classes BR and BRI. -/
def brWord (e i : Bool) (cond : Nat) (ra rb : BitVec 5) (off : BitVec 13) : Word :=
  mkWord e (if i then 0x05 else 0x04) [(21, ra.toNat), (16, rb.toNat), (13, cond), (0, off.toNat)]

/-- Class JMP. -/
def jmpWord (e l : Bool) (off : BitVec 25) : Word := mkWord e 0x06 [(25, b2n l), (0, off.toNat)]

/-- Class JREG. -/
def jregWord (e : Bool) (func : Nat) (ra : BitVec 5) : Word := mkWord e 0x07 [(21, ra.toNat), (18, func)]

/-- Class LOOP. -/
def loopWord (e i : Bool) (idx : BitVec 2) (cnt : BitVec 12) (endw : BitVec 11) : Word :=
  mkWord e 0x08 [(25, b2n i), (23, idx.toNat), (if i then (11, cnt.toNat) else (18, cnt.toNat % 32)), (0, endw.toNat)]

/-- Class SYS. -/
def sysWord (e : Bool) (func : Nat) (rd ra : BitVec 5) (imm : Nat) : Word :=
  mkWord e 0x09 [(21, rd.toNat), (16, ra.toNat), (11, func), (0, imm)]

/-- Class CMAC. -/
def cmacWord (e : Bool) (func : Nat) (k : BitVec 3) (ra rb : BitVec 5) : Word :=
  mkWord e 0x10 [(23, k.toNat), (18, ra.toNat), (13, rb.toNat), (10, func)]

/-- Class MACC. -/
def maccWord (e : Bool) (func d a b g part c sh : Nat) : Word :=
  mkWord e 0x11 [(22, func), (19, d), (16, a), (13, b), (8, g), (6, part), (5, c), (0, sh)]

/-- Code of an accumulator part (R137). -/
def partCode : AccPart → Nat
  | .rl => 0 | .rh => 1 | .il => 2 | .ih => 3

/-- MODE and OFS of an addressing mode (Table 6-8). -/
def memFields : MemMode → Nat × Nat
  | .imm o => (0, o.toNat)
  | .postMod mk => (1, mk.toNat)
  | .postImm o => (2, o.toNat)
  | .circMod mk => (3, mk.toNat)
  | .circImm o => (4, o.toNat)
  | .brev mk => (5, mk.toNat)

/-- Classes LD and ST. -/
def memWord (e st : Bool) (type : Nat) (r : BitVec 5) (pk : BitVec 3) (m : MemMode) : Word :=
  mkWord e (if st then 0x19 else 0x18)
    [(21, r.toNat), (18, pk.toNat), (15, (memFields m).1), (12, type), (0, (memFields m).2)]

/-- SCS: RB in OFS[11:7] and a short immediate or the modifier below it (R138). -/
def scsWord (e : Bool) (ra rb : BitVec 5) (pk : BitVec 3) (m : MemMode) : Word :=
  mkWord e 0x19 [(21, ra.toNat), (18, pk.toNat), (15, (memFields m).1), (12, 5), (7, rb.toNat), (0, (memFields m).2 % 128)]

/-- MODE and OFS of a vector mode (R139). -/
def vecFields : VecMode → Nat × Nat
  | .base => (0, 0)
  | .postMod mk => (1, mk.toNat)
  | .postImm o => (2, o.toNat)
  | .postVl => (6, 0)

/-- Class VLS. -/
def vlsWord (e st : Bool) (vr : BitVec 5) (pk : BitVec 3) (mode : VecMode) (m : Bool) : Word :=
  mkWord e 0x1A [(21, vr.toNat), (18, pk.toNat), (15, (vecFields mode).1), (14, b2n st), (13, b2n m), (0, (vecFields mode).2)]

/-- Class VLX. -/
def vlxWord (e st x : Bool) (vr : BitVec 5) (pk : BitVec 3) (ix : BitVec 5) (m : Bool) : Word :=
  mkWord e 0x1B [(21, vr.toNat), (18, pk.toNat), (17, b2n st), (16, b2n x), (15, b2n m), (10, ix.toNat)]

/-- Class VOP. -/
def vopWord (e : Bool) (func : Nat) (x : Bool) (vd va vb : BitVec 5) (m : Bool) : Word :=
  mkWord e 0x1C [(21, vd.toNat), (16, va.toNat), (11, vb.toNat), (10, b2n m), (9, b2n x), (0, func)]

/-- Class FOP. -/
def fopWord (e : Bool) (func : Nat) (d a b c : BitVec 5) : Word :=
  mkWord e 0x1D [(21, d.toNat), (16, a.toNat), (11, b.toNat), (6, c.toNat), (0, func)]

/-- Field [hi:lo] of a word. -/
def fld (w : Word) (hi lo : Nat) : Nat := bitsOf w.toNat hi lo

/-- CLASS of a word (R124). -/
def wordClass (w : Word) : Nat := fld w 30 26

/-- Slots of a class, in slot order: 0 to 5 for L0, L1, M0, M1, A, V (Table 6-1); a reserved class takes any (R126). -/
def slotSet (cls : Nat) : List Nat :=
  if 0x01 ≤ cls ∧ cls ≤ 0x09 then [4]
  else if cls = 0x10 ∨ cls = 0x11 then [2, 3]
  else if cls = 0x18 ∨ cls = 0x19 ∨ cls = 0x1A then [0, 1]
  else if cls = 0x1B then [0]
  else if cls = 0x1C ∨ cls = 0x1D then [5]
  else [0, 1, 2, 3, 4, 5]

/-- The slot of an operation after one in slot prev; 6 where none remains (R50). -/
def nextSlot (prev : Option Nat) (cls : Nat) : Nat :=
  ((slotSet cls).find? fun k => match prev with
    | none => true
    | some p => decide (p < k)).getD 6

/-- A control register number of Table 6-6. -/
def cregListed (n : Nat) : Bool := decide (n ≤ 0x06 ∨ (0x10 ≤ n ∧ n ≤ 0x1B) ∨ (0x20 ≤ n ∧ n ≤ 0x24))

/-- Undefined encodings of class SYS (R135, R136). -/
def undefSys (w : Word) : Bool :=
  let f := fld w 15 11
  let rd := fld w 25 21
  let ra := fld w 20 16
  let imm := fld w 10 0
  if f ≤ 2 then rd != 0 || ra != 0 || imm != 0
  else if f = 3 then rd != 0 || ra != 0
  else if f = 4 then ra != 0 || decide (256 ≤ imm) || !cregListed (imm % 256)
  else if f = 5 then rd != 0 || decide (256 ≤ imm) || !cregListed (imm % 256)
  else if f = 6 then rd != 0 || decide (32 ≤ imm)
  else if f = 7 then ra != 0 || decide (32 ≤ imm)
  else if f = 8 then false
  else if f = 9 then decide (32 ≤ imm)
  else true

/-- Undefined encodings of class MACC (Table 6-7). -/
def undefMacc (w : Word) : Bool :=
  let f := fld w 25 22
  let nz (hi lo : Nat) : Bool := fld w hi lo != 0
  let d := nz 21 19
  let a := nz 18 16
  let b := nz 15 13
  let g := nz 12 8
  let part := nz 7 6
  let c := nz 5 5
  let sh := nz 4 0
  if f = 0 then a || b || g || part || c || sh
  else if f = 1 ∨ f = 2 then g || part || c || sh
  else if f = 3 then a || b || part || c || sh
  else if f = 4 then d || b || part
  else if f = 5 then d || b || part || c || sh
  else if f = 6 then d || b || c || sh
  else if f = 7 then a || b || c || sh
  else true

/-- Undefined encodings of classes LD and ST (R138). -/
def undefMem (st : Bool) (w : Word) : Bool :=
  let mode := fld w 17 15
  let type := fld w 14 12
  let r := fld w 25 21
  let scs := st && type == 5
  let mk := mode == 1 || mode == 3 || mode == 5
  decide (6 ≤ mode) || (if st then decide (6 ≤ type) else type == 6)
    || (mk && (if scs then fld w 6 3 != 0 else fld w 11 3 != 0))
    || ((if st then type == 3 else type == 5) && r % 2 == 1)
    || (!st && type == 7 && (r != 0 || mode == 0))

/-- Undefined encodings of class VLS (R139). -/
def undefVls (w : Word) : Bool :=
  let mode := fld w 17 15
  let ofs := fld w 11 0
  fld w 12 12 != 0 ||
    (if mode = 0 ∨ mode = 6 then ofs != 0 else if mode = 1 then decide (8 ≤ ofs) else mode != 2)

/-- Undefined encodings of class VOP (R140, R113). -/
def undefVop (w : Word) : Bool :=
  let f := fld w 5 0
  let x := fld w 9 9
  let wantX1 := f == 0x0A || f == 0x18 || f == 0x19 || f == 0x1B || f == 0x1C
  let either := decide (0x0B ≤ f ∧ f ≤ 0x0E)
  decide (0x1D < f) || fld w 8 6 != 0 || (!either && x != b2n wantX1) || (f == 0x17 && fld w 10 10 == 1)
    || (f == 0x09 && fld w 21 21 == 1) || (f == 0x0A && fld w 16 16 == 1)
    || ((f == 0x18 || f == 0x19) && fld w 20 16 != 0) || (f == 0x1A && fld w 15 11 != 0)

/-- Undefined encodings of class FOP (R141). -/
def undefFop (w : Word) : Bool :=
  let f := fld w 5 0
  let two := decide (f ≤ 6) || decide (0x0D ≤ f)
  decide (0x0F < f) || (f != 3 && f != 4 && fld w 10 6 != 0) || (!two && fld w 15 11 != 0)

/-- The word is an undefined encoding (R126). -/
def undefWord (w : Word) : Bool :=
  let cls := wordClass w
  if cls = 0x01 then fld w 10 6 != 0 || decide (0x12 < fld w 5 0) || (fld w 5 0 == 0x0E && fld w 15 11 != 0)
  else if cls = 0x02 then
    decide (0xA < fld w 15 12) || (decide (4 ≤ fld w 15 12 ∧ fld w 15 12 ≤ 6) && fld w 11 5 != 0)
  else if cls = 0x03 then decide (2 < fld w 20 18) || fld w 17 16 != 0
  else if cls = 0x04 ∨ cls = 0x05 then decide (6 ≤ fld w 15 13)
  else if cls = 0x06 then false
  else if cls = 0x07 then decide (2 < fld w 20 18) || fld w 17 0 != 0 || (fld w 20 18 == 2 && fld w 25 21 != 0)
  else if cls = 0x08 then fld w 25 25 == 0 && fld w 17 11 != 0
  else if cls = 0x09 then undefSys w
  else if cls = 0x10 then fld w 12 10 == 7 || fld w 9 0 != 0
  else if cls = 0x11 then undefMacc w
  else if cls = 0x18 then undefMem false w
  else if cls = 0x19 then undefMem true w
  else if cls = 0x1A then undefVls w
  else if cls = 0x1B then fld w 9 0 != 0
  else if cls = 0x1C then undefVop w
  else if cls = 0x1D then undefFop w
  else true

end Sys2Proof.Machine
end

