-- ==== Sys2Proof/Machine/Operands.lean ====
section
/-!
DEFINITION. Operands of a core's operations: registers, addressing modes and pointer updates (R96 to R99), and what a scalar
load or store reaches (R54 to R58, R434).
-/

namespace Sys2Proof.Machine

/-- An operation without any effect; the fields that it has are set over this. -/
def OpEff.nil : OpEff :=
  { slot := 6, word := 0, early := [], late := [], link := false, reads := [], accs := [], stores := [], reqs := [],
    parts := [], elems := [], trap := none, refused := none, vstart := none, branch := none, loop := none, reti := false,
    fence := false, lbinv := false, stall := 0 }

/-- A value without a tag. -/
def TW.plain (w : Word) : TW := ⟨w, false⟩

/-- General register i: g0 reads zero. -/
def Core.g (x : Core) (i : BitVec 5) : TW := if i = 0 then TW.plain 0 else Tbl.get (TW.plain 0) x.gr i.toNat

/-- Pointer-file register n (R135). -/
def Core.ptr (x : Core) (n : Nat) : TW := Tbl.get (TW.plain 0) x.pf n

/-- Accumulator k. -/
def Core.ac (x : Core) (k : BitVec 3) : Acc := Tbl.get Acc.reset x.acc k.toNat

/-- Vector register i. -/
def Core.v (x : Core) (i : BitVec 5) : VReg := Tbl.get VReg.reset x.vr i.toNat

/-- Floating-point register i: lane 0 of v(i) (R103). -/
def Core.f (x : Core) (i : BitVec 5) : TW := ⟨(x.v i).v.setWidth 32, (x.v i).t.getLsbD 0⟩

/-- The landing of a scalar floating-point result (R103): the whole register. -/
def wbF (i : BitVec 5) (r : TW) : Wb :=
  .vec i.toNat (BitVec.allOnes 256) (r.v.setWidth 256) (if r.p then 1 else 0)

/-- POISON_USE by an operation (R61). -/
def OpEff.poisonUse (word : Word) : OpEff := { OpEff.nil with trap := some (0x86, word) }

/-- ILLEGAL_OP by an operation (Table 3-9). -/
def OpEff.illegal (word : Word) : OpEff := { OpEff.nil with trap := some (0x82, word) }

/-- The n low bits of x in reverse order. -/
def revBits : Nat → Nat → Nat
  | 0, _ => 0
  | n + 1, x => x % 2 * 2 ^ n + revBits n (x / 2)

/-- The circular update of a pointer by a step (R97); a length of zero is linear. DESIGN CHOICE (log 39): the pointer is
compared with the exact sum b + l, which does not wrap. -/
def circular (p step b l : Word) : Word :=
  let q := p + step
  if l = 0 then q else if b.toNat + l.toNat ≤ q.toNat then q - l else if q.toNat < b.toNat then q + l else q

/-- The bit-reversed update (R98), z = log2 of the access size. -/
def bitReversed (p m b l : Word) (z : Nat) : Word :=
  let k := Nat.log2 l.toNat
  if l = 0 ∨ k ≤ z then p + m else
  let o := (p - b).toNat
  let n := k - z
  let i := o / 2 ^ z % 2 ^ n
  let d := m.toNat / 2 ^ z % 2 ^ n
  let i' := revBits n ((revBits n i + revBits n d) % 2 ^ n)
  b + BitVec.ofNat 32 (o / 2 ^ k * 2 ^ k + i' * 2 ^ z + o % 2 ^ z)

/-- The pointer pk after an access in a mode (Table 4-5, R99); none where the mode leaves it unchanged. -/
def Core.update (x : Core) (pk : BitVec 3) (m : MemMode) (z : Nat) : Option TW :=
  let k := pk.toNat
  let p := x.ptr k
  let b := x.ptr (16 + k)
  let l := x.ptr (24 + k)
  let md (i : BitVec 3) : TW := x.ptr (8 + i.toNat)
  match m with
  | .imm _ => none
  | .postMod i => some ⟨p.v + (md i).v, p.p || (md i).p⟩
  | .postImm o => some ⟨p.v + o.signExtend 32, p.p⟩
  | .circMod i => some ⟨circular p.v (md i).v b.v l.v, p.p || (md i).p || b.p || l.p⟩
  | .circImm o => some ⟨circular p.v (o.signExtend 32) b.v l.v, p.p || b.p || l.p⟩
  | .brev i => some ⟨bitReversed p.v (md i).v b.v l.v z, p.p || (md i).p || b.p || l.p⟩

/-- The landing of a pointer update. -/
def wbPtr (pk : BitVec 3) (u : Option TW) : List Wb :=
  match u with
  | some t => [.pf pk.toNat t]
  | none => []

/-- The address that a mode accesses (Table 4-5): the pointer before the update. -/
def Core.address (x : Core) (pk : BitVec 3) (m : MemMode) : Word :=
  match m with
  | .imm o => (x.ptr pk.toNat).v + o.signExtend 32
  | _ => (x.ptr pk.toNat).v

/-- Memory identifier of a core's PM or DM (Table 11-6). -/
def ownMem (c : Nat) (pm : Bool) : Nat := if pm then 0x40 + c else c

/-- Byte i of DM word w that the merge buffer forwards (R56, R100): the entries first, then one being completed. -/
def Core.forward (x : Core) (w i : Nat) : Option PByte :=
  let pick (m : Merge) : Option PByte :=
    if m.word = w ∧ m.mask.getLsbD i = true then some (BitVec.ofNat 8 (m.data.toNat / 256 ^ i), m.tags.getLsbD i) else none
  ((x.merge.findSome? pick).orElse fun _ => x.evicted.bind pick)

/-- A core's read of its own PM or DM at an offset: the bytes with tags, and the ECC words read. -/
def State.ownRead (s : State) (c : Nat) (pm : Bool) (off n : Nat) : List PByte × List (Nat × Nat) :=
  let m := ownMem c pm
  let ws := wordsOf m off n
  let t : Tbl (Nat × Bool × Nat) := ws.map fun w => (w, s.eccRead m w)
  let wb := wordBytes m
  ((List.range n).map fun i =>
    let a := off + i
    let e := Tbl.get (0, false, 0) t (a / wb)
    let plain : PByte := (BitVec.ofNat 8 (e.1 / 256 ^ (a % wb)), e.2.1)
    if pm then plain else ((s.core c).forward (a / 4) (a % 4)).getD plain,
   ws.map fun w => (m, w))

/-- What an access of a core reaches. -/
inductive Reach where
  | own (pm : Bool) (off : Nat)   -- the core's own PM or DM
  | remote                        -- another region, and the ridge's check lets it leave
  | refused (kind : Nat)          -- the ridge's check refuses it (R434)
  deriving DecidableEq, Repr

/-- What an access reaches (R27, R35, R434). -/
def State.reach (s : State) (c : Nat) (write : Bool) (a size : Nat) (vec : Bool) : Reach :=
  let x := s.core c
  match s.check x.ridge (x.psw.getLsbD 4) write a size vec with
  | some k => .refused k
  | none => match rowOf a with
    | some .pm => .own true a
    | some .dm => .own false (a - 0x10000000)
    | _ => .remote

/-- Stall cycles of a scalar access to the core's own memories (Table 3-2). -/
def scalarStall (pm : Bool) (off size : Nat) : Nat :=
  if isSplit off size then (if pm then 2 else 1) else if pm then 1 else 0

/-- A scalar value of 1, 2 or 4 bytes extended to a word. -/
def extendTo (signed : Bool) (size n : Nat) : Word :=
  if signed then (if size = 1 then (BitVec.ofNat 8 n).signExtend 32
    else if size = 2 then (BitVec.ofNat 16 n).signExtend 32 else BitVec.ofNat 32 n)
  else BitVec.ofNat 32 n

/-- The landing of a scalar load (R95, R138): a doubleword fills the pair rd, rd + 1. -/
def loadWbs (rd : Nat) (size : Nat) (signed : Bool) (b : List PByte) : List Wb :=
  if size = 8 then
    let (lo, lp) := wordOfBytes (b.take 4)
    let (hi, hp) := wordOfBytes (b.drop 4)
    [.g rd ⟨lo, lp⟩, .g (rd + 1) ⟨hi, hp⟩]
  else [.g rd ⟨extendTo signed size (ofBytesLE (b.map (·.1))), b.any (·.2)⟩]

/-- A scalar load (R96, R138, R55, R57). -/
def State.loadEff (s : State) (c : Nat) (word : Word) (size : Nat) (signed : Bool) (rd : BitVec 5) (pk : BitVec 3)
    (m : MemMode) : OpEff :=
  let x := s.core c
  if (x.ptr pk.toNat).p then OpEff.poisonUse word else
  let a := x.address pk m
  let base := { OpEff.nil with early := wbPtr pk (x.update pk m (Nat.log2 size)) }
  match s.reach c false a.toNat size false with
  | .own pm off =>
    let (b, ws) := s.ownRead c pm off size
    { base with late := loadWbs rd.toNat size signed b, reads := ws, accs := [(pm, off, false)],
                stall := scalarStall pm off size }
  | .remote =>
    let q : Req := { write := false, addr := a, size := size, data := [] }
    { base with reqs := [q]
                parts := [{ req := q, rd := rd.toNat, isVec := false, bit := 0, signed := signed, keep := [] }] }
  | .refused k =>
    { base with late := loadWbs rd.toNat size signed (List.replicate size (0, false)), refused := some (k, false, a) }

/-- A scalar store of these bytes (R88, R95, R96, R100, R58). -/
def State.storeEff (s : State) (c : Nat) (word : Word) (data : List PByte) (pk : BitVec 3) (m : MemMode) : OpEff :=
  let x := s.core c
  let size := data.length
  if (x.ptr pk.toNat).p then OpEff.poisonUse word else
  let a := x.address pk m
  let base := { OpEff.nil with early := wbPtr pk (x.update pk m (Nat.log2 size)) }
  match s.reach c true a.toNat size false with
  | .own pm off =>
    { base with stores := [{ pm := pm, off := off, data := data, narrow := !pm && decide (size < 4) }]
                accs := [(pm, off, true)], stall := scalarStall pm off size }
  | .remote => { base with reqs := [{ write := true, addr := a, size := size, data := data }] }
  | .refused k => { base with refused := some (k, true, a) }

end Sys2Proof.Machine
end

