-- ==== Sys2Proof/Machine/Ops.lean ====
section
/-!
DEFINITION. The bundle: operations collect until the E bit, then their effects land together; traps and the entry sequence;
stores and the merge buffer; fetch, loops, delay bundles and the return from an entry (chapter 03, R50, R94, R100).
-/

namespace Sys2Proof.Machine

/-- The cores that receive the write stream of core c (R174): the newcomer of a col whose source is c, before cutover. -/
def State.streamTo (s : State) (c : Nat) : List Nat :=
  match (s.massif (massifOf c)).col with
  | some k =>
    let x := s.ridge k.ridge
    if k.phase ≤ 2 ∧ x.members[k.sslot]? = some (true, c) then [k.newcore] else []
  | none => []

/-- Words of memory MEM that the runs of an access touch. -/
def runWords (m : Nat) (l : List MStore) : List Nat := (l.flatMap fun t => wordsOf m t.off t.data.length).eraseDups

/-- Byte i of word w of memory MEM among the runs of an access. -/
def runByte (m : Nat) (l : List MStore) (w i : Nat) : Option PByte := l.findSome? fun t => byteFor m t.off t.data w i

/-- The runs of an access written to the PM of a core and of the newcomer that shadows it (R174, R68). -/
def State.writePm (s : State) (c : Nat) (l : List MStore) : WithReads :=
  s.forEach (c :: s.streamTo c) fun s k =>
    s.forEach (runWords (ownMem k true) l) fun s w => s.putBytes (ownMem k true) w (runByte (ownMem k true) l w)

/-- The bytes of a merge entry by index (R100). -/
def Merge.byte (m : Merge) (i : Nat) : Option PByte :=
  if m.mask.getLsbD i then some (BitVec.ofNat 8 (m.data.toNat / 256 ^ i), m.tags.getLsbD i) else none

/-- A merge entry goes to DM (R249, R263): whole as a plain word, partial as a merge write. -/
def State.mergeToDm (s : State) (c : Nat) (m : Merge) : WithReads :=
  s.forEach (c :: s.streamTo c) fun s k => s.putBytes k m.word m.byte

/-- The bytes of a merge entry and of a direct store that covers its word in part go to DM in one merge write (R100, R116, R249). -/
def State.mergedToDm (s : State) (c : Nat) (m : Merge) : WithReads :=
  s.forEach (c :: s.streamTo c) fun s k => s.mergeWrite k m.word m.byte

/-- The evicted entry of a core is completed (R100, R263). -/
def State.completeEvicted (s : State) (c : Nat) : WithReads :=
  match (s.core c).evicted with
  | some m => (s.updCore c fun x => { x with evicted := none }).mergeToDm c m
  | none => (s, [])

/-- A merge entry with one byte set. DESIGN CHOICE (log 14): an entry keeps one tag per byte, that of the byte's latest store. -/
def Merge.put (m : Merge) (i : Nat) (b : PByte) : Merge :=
  { m with data := BitVec.ofNat 32 (ofBytesLE ((List.range 4).map fun j =>
             if j = i then b.1 else BitVec.ofNat 8 (m.data.toNat / 256 ^ j)))
           mask := m.mask ||| (1#4 <<< i)
           tags := if b.2 then m.tags ||| (1#4 <<< i) else m.tags &&& ~~~(1#4 <<< i) }

/-- Bytes of a narrow store to one DM word enter the merge buffer; an evicted entry is written in the same phase (R100,
R263). -/
def State.mergeStore (s : State) (c w : Nat) (bs : List (Nat × PByte)) : WithReads :=
  let x := s.core c
  let old := x.merge.find? fun m => m.word == w
  let e := bs.foldl (fun m b => m.put b.1 b.2) (old.getD { word := w, data := 0, mask := 0, tags := 0 })
  let rest := x.merge.filter fun m => m.word != w
  let full := old.isNone && decide (2 ≤ rest.length)
  let s := if (x.evicted.map (·.word)) == some w then s.completeEvicted c else (s, [])
  let s := s.andThen fun s => (s.updCore c fun x => { x with merge := if full then rest.drop 1 else rest }, [])
  let s := s.andThen fun s => match (if full then rest.head? else none) with
    | some v => s.mergeToDm c v
    | none => (s, [])
  s.andThen fun s => if e.mask = 15 then s.mergeToDm c e else (s.updCore c fun x => { x with merge := x.merge ++ [e] }, [])

/-- A direct store to one DM word (R100, R116): an entry of that word is released, and its bytes, with the store's own on top,
go to the word in one merge write unless the store itself covers the word. -/
def State.directStore (s : State) (c w : Nat) (bs : List (Nat × PByte)) : WithReads :=
  let x := s.core c
  let m := (x.merge.find? fun m => m.word == w).getD { word := w, data := 0, mask := 0, tags := 0 }
  let s := if (x.evicted.map (·.word)) == some w then s.completeEvicted c else (s, [])
  let s := s.andThen fun s => (s.updCore c fun x => { x with merge := x.merge.filter fun m => m.word != w }, [])
  s.andThen fun s =>
    let e := bs.foldl (fun m b => m.put b.1 b.2) m
    if bs.length = 4 then s.mergeToDm c e else s.mergedToDm c e

/-- A store to the core's own memory takes place, given as its runs (R56, R68, R94, R100). -/
def State.applyRuns (s : State) (c : Nat) (l : List MStore) : WithReads :=
  match l with
  | [] => (s, [])
  | t :: _ =>
    if t.pm then s.writePm c l else
    s.forEach (runWords 0 l) fun s w =>
      let bs := (List.range 4).filterMap fun i => (runByte 0 l w i).map fun b => (i, b)
      if t.narrow then s.mergeStore c w bs else s.directStore c w bs

/-- Stores in order, each with all its runs. -/
def storeRuns : List MStore → List (List MStore)
  | [] => []
  | t :: rest =>
    match t.more, storeRuns rest with
    | true, l :: ls => (t :: l) :: ls
    | _, ls => [t] :: ls

/-- The stores of a bundle to the core's own memory take place in slot order (R56). -/
def State.applyStores (s : State) (c : Nat) (l : List MStore) : WithReads := s.forEach (storeRuns l) fun s r => s.applyRuns c r

/-- The mask bits of lane j. -/
def laneMask (j : Nat) : BitVec 256 := (BitVec.allOnes 32).setWidth 256 <<< (32 * j)

/-- A vector result lands (R109, R121): only its bits, and a lane keeps its old tag with the new one where it keeps a bit. -/
def VReg.land (r : VReg) (mask v : BitVec 256) (tags : Byte) : VReg :=
  { v := (r.v &&& ~~~mask) ||| (v &&& mask)
    t := (List.range 8).foldl (fun t j =>
      let m := mask &&& laneMask j
      if m = 0 then t else
      let b := tags.getLsbD j || (m != laneMask j && r.t.getLsbD j)
      if b then t ||| (1#8 <<< j) else t &&& ~~~(1#8 <<< j)) r.t }

/-- The RW fields of PSW that a write changes (Table 3-3, R59): SAT, MODE, PRI and IE. -/
def pswWritable : Word := 0x21F

/-- Loop register number n of LS, LE or LC set. -/
def setWordAt (l : List Word) (i : Nat) (w : Word) : List Word := setAt l i w

/-- A control-register write lands (Table 6-6, R59, R106). -/
def Core.setCreg (x : Core) (n : Nat) (w : Word) : Core :=
  if n = 0x00 then { x with psw := (x.psw &&& ~~~pswWritable) ||| (w &&& pswWritable) }
  else if n = 0x01 then { x with epc := w }
  else if n = 0x02 then { x with epsw := w }
  else if n = 0x03 then { x with ecause := w.setWidth 8 }
  else if n = 0x04 then { x with eval := w }
  else if n = 0x05 then { x with ivb := w &&& ~~~0x3FF#32 }
  else if n = 0x06 then { x with etgt := w }
  else if 0x10 ≤ n ∧ n ≤ 0x13 then { x with ls := setWordAt x.ls (n - 0x10) w }
  else if 0x14 ≤ n ∧ n ≤ 0x17 then { x with le := setWordAt x.le (n - 0x14) w }
  else if 0x18 ≤ n ∧ n ≤ 0x1B then { x with lc := setWordAt x.lc (n - 0x18) w }
  else if n = 0x20 then { x with vl := bitsOf w.toNat 5 0 }
  else if n = 0x21 then { x with vinv := w.getLsbD 31, vew := w.setWidth 2 }
  else if n = 0x22 then { x with vstart := bitsOf w.toNat 4 0 }
  else if n = 0x23 then { x with vxrm := w.setWidth 2 }
  else if n = 0x24 then { x with vxsat := w.getLsbD 0 }
  else x

/-- A control register as MOVC reads it (Table 6-6). -/
def Core.creg (x : Core) (n : Nat) : Word :=
  if n = 0x00 then x.psw
  else if n = 0x01 then x.epc
  else if n = 0x02 then x.epsw
  else if n = 0x03 then x.ecause.setWidth 32
  else if n = 0x04 then x.eval
  else if n = 0x05 then x.ivb
  else if n = 0x06 then x.etgt
  else if 0x10 ≤ n ∧ n ≤ 0x13 then at_ x.ls (n - 0x10) 0
  else if 0x14 ≤ n ∧ n ≤ 0x17 then at_ x.le (n - 0x14) 0
  else if 0x18 ≤ n ∧ n ≤ 0x1B then at_ x.lc (n - 0x18) 0
  else if n = 0x20 then BitVec.ofNat 32 x.vl
  else if n = 0x21 then pack [(31, b2n x.vinv), (0, x.vew.toNat)]
  else if n = 0x22 then BitVec.ofNat 32 x.vstart
  else if n = 0x23 then x.vxrm.setWidth 32
  else if n = 0x24 then pack [(0, b2n x.vxsat)]
  else 0

/-- A result lands (R51 to R53). -/
def Core.land (x : Core) : Wb → Core
  | .g i t => if i % 32 = 0 then x else { x with gr := Tbl.set x.gr (i % 32) t }
  | .pf i t => { x with pf := Tbl.set x.pf i t }
  | .acc k a => { x with acc := Tbl.set x.acc k a }
  | .vec i m v t => { x with vr := Tbl.set x.vr i ((Tbl.get VReg.reset x.vr i).land m v t) }
  | .creg n w => x.setCreg n w
  | .vxsat => { x with vxsat := true }

/-- Results land in order; the later stands (R53). -/
def Core.landAll (x : Core) (l : List Wb) : Core := l.foldl Core.land x

/-- A vector result to the same register stands among these (R53, R104): the register counts as a whole. -/
def Wb.lostTo (w : Wb) (l : List Wb) : Bool :=
  match w with
  | .vec i _ _ _ => l.any fun k => match k with
    | .vec j m _ _ => j == i && m != 0
    | _ => false
  | _ => false

/-- The results of one cycle that are not lost to a later one (R53). -/
def standing : List Wb → List Wb
  | [] => []
  | w :: t => if w.lostTo t then standing t else w :: standing t

/-- The late results of the bundle before, as they land (R51, R53). -/
def Core.due (x : Core) : List Wb := standing x.late

/-- They land, and what has landed waits for the next record (R53, R154). -/
def Core.landDue (x : Core) : Core := { x.landAll x.due with late := [], landed := x.landed ++ x.due }

/-- PSW.LD (Table 3-3). -/
def pswLd (w : Word) : Nat := bitsOf w.toNat 8 6

/-- PSW with LD. -/
def pswWithLd (w : Word) (n : Nat) : Word := (w &&& ~~~0x1C0#32) ||| BitVec.ofNat 32 (n % 8 * 64)

/-- PSW with DLY. -/
def pswWithDly (w : Word) (b : Bool) : Word := if b then w ||| 0x400#32 else w &&& ~~~0x400#32

/-- The loop registers of a core (R63). -/
def Core.loops (x : Core) : Loops := { ls := x.ls, le := x.le, lc := x.lc, ld := pswLd x.psw }

/-- A core with these loop registers. -/
def Core.withLoops (x : Core) (t : Loops) : Core := { x with ls := t.ls, le := t.le, lc := t.lc }

/-- The end-of-body test at an address, from the innermost active loop outward (R63, R64): the loop start that is fetched
next, if any, and the loop registers after the end bundle. DESIGN CHOICE (log 16): a count of zero, which only MOVS gives an
active loop, ends the loop as a count of one does. -/
def Loops.endTest (pc : Word) : Nat → Loops → Option Word × Loops
  | 0, t => (none, t)
  | fuel + 1, t =>
    if t.ld = 0 then (none, t) else
    let k := t.ld - 1
    if at_ t.le k 0 ≠ pc then (none, t)
    else if 1 < (at_ t.lc k 0).toNat then
      (some (at_ t.ls k 0), { t with lc := setAt t.lc k (at_ t.lc k 0 - 1) })
    else Loops.endTest pc fuel { t with ld := k }

/-- The depth that a taken branch to a target leaves (R65): loops end from the innermost outward until one contains it. -/
def Loops.branchDepth (t : Loops) (target : Word) : Nat → Nat
  | 0 => 0
  | k + 1 => if (at_ t.ls k 0).toNat ≤ target.toNat ∧ target.toNat ≤ (at_ t.le k 0).toNat then k + 1
             else t.branchDepth target k

/-- The six words from an address in PM as F delivers them, up to the end of the bundle (R49, R124, R127), and the
doublewords that the fetch reads. -/
def State.fetchPm (s : State) (c : Nat) (pc : Nat) : List TW × List (Nat × Nat) :=
  if 0x18000 ≤ pc then ([], []) else
  let ws := (List.range 4).filterMap fun k => if pc / 8 + k < 12288 then some (pc / 8 + k) else none
  let t : Tbl (Nat × Bool × Nat) := ws.map fun w => (w, s.eccRead (0x40 + c) w)
  let words : List TW := (List.range 6).filterMap fun i =>
    let a := pc + 4 * i
    (Tbl.find t (a / 8)).map fun e => ⟨BitVec.ofNat 32 (e.1 / 2 ^ (a % 8 * 8)), e.2.1⟩
  let stop := (words.findIdx? fun w => w.p || w.v.getLsbD 31).map (· + 1)
  (words.take (stop.getD 6), ws.map fun w => (0x40 + c, w))

/-- The loop buffer holds the body of loop k, and the address lies in it (R67). -/
def Core.inBuffer (x : Core) (t : Loops) (a : Word) : Bool :=
  match x.lbLoop with
  | some k => decide ((at_ t.ls k 0).toNat ≤ a.toNat ∧ a.toNat ≤ (at_ t.le k 0).toNat)
  | none => false

/-- F fetches the bundle at an address with these loop registers (R49, R67): words, PM doublewords read, and the loop buffer
after it. The first iteration is captured, and later ones read from the buffer. -/
def State.fetch (s : State) (c : Nat) (x : Core) (t : Loops) (a : Word) :
    List TW × List (Nat × Nat) × Option Nat × List (Word × List (Word × Bool)) :=
  let kept := if x.inBuffer t a && x.lbOn then x.lbuf.find? fun e => e.1 == a else none
  match kept with
  | some e => (e.2.map fun w => ⟨w.1, w.2⟩, [], x.lbLoop, x.lbuf)
  | none =>
    let (ws, rd) := s.fetchPm c a.toNat
    (ws, rd, x.lbLoop,
      if x.inBuffer t a && !x.lbOn then (x.lbuf.filter fun e => e.1 != a) ++ [(a, ws.map fun w => (w.v, w.p))] else x.lbuf)

/-- The bundles from an address to an end bundle, as they stand in PM, are at most n (R67). -/
def State.bodyFits (s : State) (c e : Nat) : Nat → Nat → Bool
  | 0, _ => false
  | n + 1, a => a == e || (decide (a < e) && s.bodyFits c e n (a + 4 * (s.fetchPm c a).1.length))

/-- Core c stands for its ridge in what happens once for the ridge: it is the first occupied slot (R151). -/
def State.isLead (s : State) (c : Nat) : Bool := s.lead (s.core c).ridge == some c

/-- Requests enter the posted-store queue and the loads of their ridge (R18, R42, R56, R58, R154): a load waits for the
stores that were issued before it, not for those of its own bundle. -/
def State.leave (s : State) (r : Nat) (l : List Req) : State :=
  s.updRidge r fun x =>
    { x with queue := x.queue ++ l.filter (·.write)
             loads := x.loads ++ (l.filter fun q => !q.write).map fun q =>
               { req := q, data := [], err := none, behind := x.queue.length, sent := false, ready := false } }

/-- Banks of massif memory that a request touches (Table 11-1). -/
def banksOf (q : Req) : List Nat :=
  let offs := (List.range q.size).filter fun i => q.mask.isEmpty || q.mask[i]? == some true
  (offs.map fun i => (q.addr.toNat + i) / 8 % 32).eraseDups

/-- A request enters its port of a massif (R246), which its region, bank-owner and port parity checkers have checked (R251, R252, R383). -/
def State.enterPort (s : State) (m port : Nat) (who : Requester) (q : Req) : State :=
  (s.accessCheck m true).updMassif m fun x =>
    { x with ports := Tbl.set x.ports port (Tbl.get [] x.ports port ++
        [{ who := who, req := q, banks := banksOf q, got := [], waited := 0 }]) }

/-- The remote loads of a ridge whose earlier stores have left go to their targets (R42, R56, R248). -/
def State.launchLoads (s : State) (r : Nat) : State :=
  (List.range (s.ridge r).loads.length).foldl (fun s i =>
    match (s.ridge r).loads[i]? with
    | some l =>
      if l.sent || l.behind != 0 then s else
      match s.massifOfAddr r l.req.addr.toNat with
      | some m =>
        (s.enterPort m (r % 16) (.load r) l.req).updRidge r fun x => { x with loads := setAt x.loads i { l with sent := true } }
      | none =>
        let (b, k, s) := s.targetRead r l.req
        s.updRidge r fun x => { x with loads := setAt x.loads i { l with sent := true, ready := true, data := b, err := k } }
    | none => s) s

/-- The oldest store of ridge r's queue leaves for its target, and the loads that waited for it alone follow (R42, R58). -/
def State.storeLeaves (s : State) (r : Nat) : State :=
  match (s.ridge r).queue with
  | [] => s
  | q :: rest =>
    let s := s.updRidge r fun x =>
      { x with queue := rest, loads := x.loads.map fun l => { l with behind := l.behind - 1 } }
    let s := match s.massifOfAddr r q.addr.toNat with
      | some m =>
        (s.updRidge r fun x => { x with flying := x.flying ++ [(⟨q, none, false⟩ : Posted)] }).enterPort m (r % 16) (.store r) q
      | none =>
        let (k, s) := s.targetWrite r q
        s.updRidge r fun x => { x with flying := x.flying ++ [(⟨q, k, true⟩ : Posted)] }
    s.launchLoads r

/-- The queue of ridge r drains (R58, R163). -/
def State.drainQueue (s : State) (r : Nat) : State := (s.ridge r).queue.foldl (fun s _ => s.storeLeaves r) s

/-- A record that core c has closed (R154, R156): it waits for the comparison; that of a simplex ridge is not compared, and
its requests leave at once. -/
def State.post (s : State) (c : Nat) (k : Record) : State :=
  let r := (s.core c).ridge
  if (s.ridge r).kind = 1 then (if k.reqs.isEmpty then s else (s.leave r k.reqs).launchLoads r)
  else s.updCore c fun x => { x with recs := x.recs ++ [k] }

/-- PSW in an entry (Table 3-8, R73): IE, LD and DLY clear, MODE from PRIV, and the level or NMIA. -/
def entryPsw (psw : Word) (priv : Bool) (level : Option Nat) (nmi : Bool) : Word :=
  let w := psw &&& ~~~0x5D1#32
  let w := if priv then w ||| 0x10#32 else w
  let w := match level with
    | some l => (w &&& ~~~0xE#32) ||| BitVec.ofNat 32 (l % 8 * 2)
    | none => w
  if nmi then w ||| 0x20#32 else w

/-- Taking an entry, trap or interrupt, in core c (R73, R77 to R79, Table 3-8): the results of completed bundles land, EPC,
EPSW, ETGT, ECAUSE and EVAL are saved, PSW changes, and the handler address is read from IVB + 4 × ECAUSE in PM. An address
outside PM is not read, and a handler address that R77 refuses is not fetched: the ridge halts, with the lowest cause where the
read brings another (R375). An error response of a refused store that arrives within the 12 cycles waits at the first handler
bundle (R58). level: PSW.PRI of an interrupt; nmi: the entry is that of the NMI. DESIGN CHOICE (log 16): the entry record holds
the vector address IVB + 4 × ECAUSE and the write-backs that land during the entry. DESIGN CHOICE (log 4): an entry over the
delay bundle of a RETI drops the restore of PSW that was to come at its end; EPSW is overwritten by the entry. -/
def State.enter (s : State) (c cause : Nat) (ev : Word) (level : Option Nat) (nmi : Bool) : State :=
  let x0 := s.core c
  let x := x0.landAll x0.due
  let r := x.ridge
  let dly := x.psw.getLsbD 10
  let vec := x.ivb.toNat + 4 * cause
  let inPm := decide (vec + 4 ≤ 0x18000)
  let rd := if inPm then s.ownRead c true vec 4 else ([], [])
  let (h, poison) := wordOfBytes rd.1
  let good := inPm && !poison && decide (h.toNat < 0x18000) && h.toNat % 4 == 0
  let psw := entryPsw x.psw (s.ridge r).priv level nmi
  let due := fun (k : Nat × Word) => decide (k.1 ≤ x.cycles + 12)
  let y := { x with
    epc := x.pc, epsw := x.psw, etgt := if dly then x.pend.getD x.etgt else x.etgt, psw := psw
    ecause := BitVec.ofNat 8 cause, eval := ev, late := [], open_ := [], held := false, skip := none, eSent := false, endSel := none
    pend := none, retiPend := false, lbLoop := none, lbOn := false, lbuf := [], pc := h, landed := []
    aerr := x.aerr.or ((x.refusals.filter due).head?.map Prod.snd), refusals := x.refusals.filter fun k => !due k
    cycles := x.cycles + 12 }
  let y := { y with testLoops := y.loops }
  let f := if good then s.fetchPm c h.toNat else ([], [])
  let outs := s.outcomes rd.2 ++ s.outcomes f.2
  let rec_ : Record := { entry := true, pc := x.pc, wbs := x0.landed ++ x0.due,
                         cregs := [(0x01, y.epc), (0x02, y.epsw), (0x03, y.ecause.setWidth 32), (0x06, y.etgt), (0x04, y.eval),
                                   (0x00, y.psw)],
                         reqs := [], accs := [(true, vec, false)] }
  let s := (s.setCore c { y with fetched := f.1 }).post c rec_
  if good then s.eccEvents outs else s.haltWith r 4 fun s => s.eccEvents outs

/-- Core c executes the program of a running ridge (R145, R149, R181). -/
def State.executes (s : State) (c : Nat) : Bool :=
  match s.ridgeOf c with
  | some r => (s.ridge r).running && (s.runners r).contains c
  | none => false

/-- Stores that a core has posted and the vote has not yet released (R153). -/
def Core.posted (x : Core) : Nat :=
  (x.recs.map fun k => (k.reqs.filter (·.write)).length).foldl (· + ·) 0

/-- Stores posted before the bundle and not yet answered, in the vote, in the queue or on their way (R58). -/
def State.storesOut (s : State) (c : Nat) : Nat :=
  let x := s.core c
  x.posted + (s.ridge x.ridge).queue.length + (s.ridge x.ridge).flying.length

/-- All results, stores and requests of an operation, those of its elements included, in order; the vector results of the
elements land as one. -/
def OpEff.flat (o : OpEff) (es : List Elem) : OpEff :=
  let vecs := es.flatMap (·.wbs)
  let joined := vecs.foldl (fun (a : List Wb) w => match a, w with
    | [.vec i m v t], .vec _ m' v' t' => [.vec i (m ||| m') ((v &&& ~~~m') ||| (v' &&& m')) (t ||| t')]
    | a, w => a ++ [w]) ([] : List Wb)
  { o with late := o.late ++ joined, reads := o.reads ++ es.flatMap (·.reads), accs := o.accs ++ es.flatMap (·.accs)
           stores := o.stores ++ es.flatMap (·.stores), reqs := o.reqs ++ es.flatMap (·.reqs)
           parts := o.parts ++ es.flatMap (·.parts) }

/-- The trap that the bundle takes: the lowest ECAUSE (R79). DESIGN CHOICE (log 43): of operations that raise the same ECAUSE, EVAL is that
of the first. -/
def lowestTrap (l : List (Nat × Word × Option OpEff)) : Option (Nat × Word × Option OpEff) :=
  l.foldl (fun a t => match a with
    | none => some t
    | some b => if t.1 < b.1 then some t else some b) none

/-- Traps of the open bundle of a core (R50, R62, R63, R126, R134). -/
def Core.traps (x : Core) : List (Nat × Word × Option OpEff) :=
  let ops := x.open_
  let len := ops.length
  let first := (ops.head?.map (·.word)).getD 0
  let noEnd := !((ops.getLast?.map fun o => o.word.getLsbD 31).getD false)
  let bad := ops.any (fun o => o.slot == 6) || noEnd || decide (0x18000 < x.pc.toNat + 4 * len)
  let start := x.pc.toNat + 4 * len
  (if bad then [(0x81, first, none)] else [])
    ++ ops.filterMap (fun o => o.trap.map fun t => (t.1, t.2, some o))
    ++ ops.filterMap (fun o => match o.loop with
      | some (e, _) => if e.toNat < start ∨ 0x18000 ≤ e.toNat then some (0x82, o.word, none) else none
      | none => none)
    ++ (match x.pend, (Loops.endTest x.pc 4 x.testLoops).1 with
      | none, some a => if a.toNat < 0x18000 ∧ a.toNat % 4 = 0 then [] else [(0x84, a, none)]
      | _, _ => [])

/-- The bundle in X is held (Table 3-2): a remote load of the bundle before it, a FENCE, or a full posted-store queue. -/
def State.bundleHeld (s : State) (c : Nat) : Bool :=
  let x := s.core c
  let need := (x.open_.map fun o => ((o.flat o.elems).reqs.filter (·.write)).length).foldl (· + ·) 0
  let used := x.posted + (s.ridge x.ridge).queue.length
  !x.wait.isEmpty
    || (x.open_.any (·.fence) && (s.storesOut c != 0 || !x.merge.isEmpty || x.evicted.isSome))
    || (need != 0 && decide (8 < used + need))

/-- Elements with the first one that still has a request served: these are its results (R117). -/
def servedElems (wbs : List Wb) : List Elem → List Elem
  | [] => []
  | e :: t => if e.reqs.isEmpty then e :: servedElems wbs t else { e with wbs := wbs, reqs := [], parts := [] } :: t

/-- The first element outside PM and DM that the open bundle has not served yet (R117). -/
def Core.remote (x : Core) : Option Elem := (x.open_.flatMap (·.elems)).find? fun e => !e.reqs.isEmpty

/-- That element is served (R117). -/
def Core.serve (x : Core) (wbs : List Wb) : Core :=
  let k := x.open_.findIdx? fun o => o.elems.any fun e => !e.reqs.isEmpty
  { x with open_ := x.open_.mapIdx fun i o => if some i = k then { o with elems := servedElems wbs o.elems } else o
           eSent := false }

/-- The record of one request, or of several, that a bundle makes before its own record (R117, log 38). -/
def Core.elemRecord (x : Core) (l : List Req) : Record :=
  { entry := false, pc := x.pc, wbs := [], cregs := [], reqs := l, accs := [] }

/-- Before a store element leaves, the loads of its bundle issue, so that they return the bytes as they were before it (R56):
the requests that go now, and the operations without them. -/
def firstLoads (ops : List OpEff) : List Req × List OpEff :=
  if ops.any fun o => o.elems.any fun e => !e.reqs.isEmpty && e.parts.isEmpty then
    (ops.flatMap fun o => o.reqs.filter fun q => !q.write, ops.map fun o => { o with reqs := o.reqs.filter (·.write) })
  else ([], ops)

/-- They issue (R56). -/
def State.issueLoads (s : State) (c : Nat) : State :=
  let x := s.core c
  let f := firstLoads x.open_
  if f.1.isEmpty then s else (s.updCore c fun x => { x with open_ := f.2 }).post c (x.elemRecord f.1)

/-- A load of the open bundle that has issued before its bundle ends: its response waits for that end (R57). -/
def Core.notYet (x : Core) (q : Req) : Bool := x.open_.any fun o => !o.reqs.contains q && o.parts.any fun p => p.req == q

/-- The elements of the open bundle outside PM and DM are served in order (R117): a store element once the posted-store queue
accepts it, a load element when its response arrives. Each request passes the comparison in a record of its own, before the
bundle ends (log 38). The answer says whether none is left. -/
def State.serveElems (s : State) (c : Nat) : Nat → State × Bool
  | 0 => (s, true)
  | n + 1 =>
    let x := s.core c
    match x.remote with
    | none => (s, true)
    | some e =>
      let rec_ := x.elemRecord e.reqs
      if e.parts.isEmpty then
        if 8 < x.posted + (s.ridge x.ridge).queue.length + e.reqs.length then (s, false)
        else State.serveElems ((s.updCore c fun x => x.serve []).post c rec_) c n
      else (if x.eSent then s else (s.updCore c fun x => { x with eSent := true }).post c rec_, false)

/-- The refused accesses of a bundle are recorded, once for the ridge (R47, R434). -/
def State.recordRefusals (s : State) (c : Nat) (l : List (Nat × Bool × Word)) : State :=
  if s.isLead c then l.foldl (fun s e =>
    (s.refusedCheck (s.core c).ridge e.2.2.toNat).recordError (s.core c).ridge e.1 e.2.1 e.2.2) s else s

/-- A bundle that traps (R78, R118): it has no effect but that of the elements served before a faulting one. Their reads come before
the entry's, which follows unless their events halt the ridge (R274, R163). DESIGN CHOICE (log 43): such a bundle closes no record of
its own, and the entry's record holds the accesses of those elements to PM and DM. -/
def State.trapBundle (s : State) (c : Nat) (t : Nat × Word × Option OpEff) : State :=
  match t.2.2 with
  | some o =>
    match o.vstart with
    | some i =>
      let f := o.flat o.elems
      let outs := s.outcomes f.reads
      let x := s.core c
      let s := s.setCore c { x.landDue with late := f.late, vstart := i }
      let w := s.applyStores c f.stores
      let s := (w.1.recordRefusals c f.refused.toList).eccEvents (outs ++ w.2)
      if !s.executes c then s else
      (s.enter c t.1 t.2.1 none false).updCore c fun y =>
        { y with recs := match y.recs.reverse with
            | k :: rest => if k.entry then (({ k with accs := k.accs ++ f.accs } : Record) :: rest).reverse else y.recs
            | [] => [] }
    | none => s.enter c t.1 t.2.1 none false
  | none => s.enter c t.1 t.2.1 none false

/-- Length in words of the bundle at an address (R62). -/
def State.bundleLen (s : State) (c : Nat) (a : Word) : Nat := (s.fetchPm c a.toNat).1.length

/-- Where fetch goes after the open bundle and what the loop hardware does (R60 to R66, R80). -/
structure Flow where
  /-- Address of the next bundle. -/
  next : Word
  /-- Pending target after the bundle (R60). -/
  pend : Option Word
  /-- The loop registers after the hardware actions of the bundle, the new loop of a LOOP included. -/
  after : Loops
  /-- The loop registers that the next end-of-body test uses (R63). -/
  test : Loops
  /-- LOOP set a loop. -/
  newLoop : Option Nat
  /-- The end-of-body test starts a new iteration of this loop, whose count goes down (R63): no branch has ended it (R65). -/
  again : Option Nat
  /-- Address of the body bundle that a LOOP with count zero turns into one of no effect (R62). -/
  skip : Option Word
  deriving DecidableEq, Repr

/-- The flow of the open bundle of a core. The loop that the test sends back to its start counts down, whichever loops a LOOP has
set since the test (R63). DESIGN CHOICE (log 4): a LOOP with count zero skips no body in a delay bundle, where the pending target
comes next, and none in the end bundle of a loop that goes on, where that loop's start comes next; a LOOP in the end bundle of a
loop that ends there sets the registers of the index PSW.LD had at the bundle's start, while LD goes down by the ended loops and
up by one; a taken branch in the delay bundle of a RETI that restores DLY gives the pending target, and ETGT is not followed. -/
def State.flow (s : State) (c : Nat) : Flow :=
  let x := s.core c
  let ops := x.open_
  let start := x.pc + BitVec.ofNat 32 (4 * ops.length)
  let br := ops.findSome? (·.branch)
  let lp := ops.findSome? (·.loop)
  let reti := ops.any (·.reti)
  let isDelay := x.pend.isSome
  let t := Loops.endTest x.pc 4 x.testLoops
  let now := x.loops
  -- hardware actions: the tested loop counts down, ended loops leave (R63), then a taken branch ends loops (R65)
  let endedLd := if isDelay then now.ld else now.ld - (x.testLoops.ld - t.2.ld)
  let ld := match br with
    | some a => now.branchDepth a endedLd
    | none => endedLd
  let k := t.2.ld - 1
  let goesOn := !isDelay && t.1.isSome && decide (k < ld)
  let lc := if goesOn then setAt now.lc k (at_ now.lc k 0 - 1) else now.lc
  let hw : Loops := { now with lc := lc, ld := ld }
  let seq := match lp with
    | some (e, n) => if n = 0 then e + BitVec.ofNat 32 (4 * s.bundleLen c e) else start
    | none => start
  let next := match x.pend with
    | some a => a
    | none => t.1.getD seq
  let withLoop (h : Loops) : Loops × Option Nat := match lp with
    | some (e, n) => if n = 0 then (h, none) else
        ({ ls := setAt h.ls now.ld start, le := setAt h.le now.ld e, lc := setAt h.lc now.ld n, ld := h.ld + 1 }, some now.ld)
    | none => (h, none)
  let (aft, nl) := withLoop hw
  let useNew := match lp with
    | some (e, _) => e == next
    | none => false
  let restored := pswLd x.epsw
  let aft := if x.retiPend then { aft with ld := restored } else aft
  let pend := match br with
    | some a => some a
    | none => if reti then some x.epc else if x.retiPend && x.epsw.getLsbD 10 then some x.etgt else none
  { next := next, pend := pend, after := aft
    test := if x.retiPend then { hw with ld := restored } else if useNew then aft else hw, newLoop := nl
    again := if goesOn then some k else none
    skip := match lp with
      | some (_, n) => if n = 0 ∧ x.pend.isNone ∧ t.1.isNone then some start else none
      | none => none }

/-- Half cycles in which an element ends that starts after p of them (R115, R117): one outside PM and DM has its cycle alone. -/
def Elem.ends (e : Elem) (p : Nat) : Nat := if e.out then (p + 1) / 2 * 2 + 2 else p + e.units

/-- Stall cycles of an operation (Table 3-2); of a strided or indexed access by Table 5-7, l1: the L1 operation accesses DM. -/
def OpEff.cycles (o : OpEff) (l1 : Bool) : Nat :=
  if o.elems.isEmpty then o.stall else (o.elems.foldl (fun p e => e.ends p) (b2n l1) + 1) / 2 - 1

/-- What stands among the results of a bundle for a remote load until its response: it writes nothing. -/
def RPart.hole (p : RPart) : List Wb :=
  if p.isVec then [.vec p.rd 0 0 0] else List.replicate (if p.req.size = 8 then 2 else 1) (.g 0 (TW.plain 0))

/-- Late results of the operations in slot order, with a place for each remote load, and the parts with their places: the parts
of one vector load share theirs. -/
def lateOf (ops : List OpEff) : List Wb × List RPart :=
  ops.foldl (fun a o =>
    let l := a.1 ++ o.late
    (l ++ (match o.parts.head? with
        | some p => p.hole
        | none => []), a.2 ++ o.parts.map fun p => { p with pos := l.length })) ([], [])

/-- What F delivers for the next bundle: words, PM doublewords read, and the loop buffer after it. -/
abbrev Fetched := List TW × List (Nat × Nat) × Option Nat × List (Word × List (Word × Bool))

/-- The results that land when the bundle of these operations completes: the late ones of the bundle before it, then its early
ones in slot order, g31 of a JAL or JALR among them (R51, R53, R60). -/
def Core.landing (x : Core) (ops : List OpEff) (next : Word) (words : List TW) : List Wb :=
  x.due ++ ops.flatMap fun o =>
    o.early ++ if o.link then [Wb.g 31 (TW.plain (next + BitVec.ofNat 32 (4 * words.length)))] else []

/-- X cycles that the bundle of these operations takes (R48, Table 3-2). -/
def bundleCycles (ops : List OpEff) : Nat :=
  1 + (ops.map fun o => OpEff.cycles o (ops.any fun k => k.slot == 1 && k.accs.any fun a => !a.1)).foldl max 0

/-- The core after its bundle but for the responses to refused accesses and the record: registers, status, loop buffer,
pending target and the next bundle (R48, R51 to R53, R60, R63, R67). DESIGN CHOICE (log 4): a MOVS to LCk in the end bundle of
loop k stands over the count-down; a RETI's restore takes EPSW and ETGT as they stand before its delay bundle's own MOVS. -/
def Core.advanced (x : Core) (ops : List OpEff) (fl : Flow) (f : Fetched) : Core :=
  let y := (x.withLoops fl.after).landAll (x.landing ops fl.next f.1)
  let keepLb := !(ops.any (·.lbinv)) && (match f.2.2.1 with
    | some k => decide (k < fl.after.ld)
    | none => false)
  let psw := if x.retiPend then x.epsw &&& 0x7FF#32 else pswWithLd y.psw fl.after.ld
  { y with
    psw := pswWithDly psw fl.pend.isSome, late := (lateOf ops).1, open_ := [], held := false, pend := fl.pend
    retiPend := ops.any OpEff.reti, pc := fl.next, testLoops := fl.test, endSel := none, fetched := f.1
    lbLoop := if keepLb then f.2.2.1 else none, lbOn := keepLb && x.lbOn, lbuf := if keepLb then f.2.2.2 else []
    wait := (lateOf ops).2, cycles := x.cycles + bundleCycles ops }

/-- The error responses of refused accesses (Table 3-2, R434): those of stores arrive four X cycles later; that of a load holds
the next bundle for its four cycles, in which every other arrives too. A FENCE has waited for those of earlier bundles (R58).
DESIGN CHOICE (log 39): where a store and a load of one bundle are refused, EVAL names the store. -/
def Core.withRefusals (x : Core) (refs : List (Nat × Bool × Word)) (fence : Bool) : Core :=
  let stores := (refs.filter fun k => k.2.1).map fun k => (x.cycles + 4, k.2.2)
  let load : Option Word := ((refs.filter fun k => !k.2.1).map fun k => k.2.2).head?
  let isDue := fun (k : Nat × Word) => decide (k.1 ≤ x.cycles) || fence || load.isSome
  let own := if load.isSome then stores else []
  { x with aerr := (x.aerr.or (((x.refusals.filter isDue) ++ own).map Prod.snd).head?).or load
           refusals := (x.refusals.filter fun k => !isDue k) ++ (if load.isSome then [] else stores)
           cycles := if load.isSome then x.cycles + 4 else x.cycles }

/-- Updates of the loop registers and of PSW by the hardware in a bundle (R63, R65, R80, R154): registers and values. -/
def Core.hwUpdates (x y : Core) (fl : Flow) : List (Nat × Word) :=
  (match fl.newLoop with
    | some k => [(0x10 + k, at_ y.ls k 0), (0x14 + k, at_ y.le k 0), (0x18 + k, at_ y.lc k 0)]
    | none => [])
  ++ (match fl.again with
    | some k => [(0x18 + k, at_ y.lc k 0)]
    | none => [])
  ++ (if fl.newLoop.isSome || fl.after.ld != x.loops.ld || fl.pend.isSome || x.pend.isSome || x.retiPend then [(0, y.psw)]
      else [])

/-- The bundle's record (R154): what landed since the last one, the updates of loop registers and PSW, the requests and the
accesses to PM and DM. -/
def bundleRecord (pc : Word) (wbs : List Wb) (upd : List (Nat × Word)) (ops : List OpEff) : Record :=
  { entry := false, pc := pc, wbs := wbs, cregs := upd, reqs := ops.flatMap (·.reqs), accs := ops.flatMap (·.accs) }

/-- The loop buffer as the fetch of the next bundle finds it (R67): empty for the body that LOOP has set, where it has at most
32 bundles; read from, once a second iteration begins. -/
def State.bufferFor (s : State) (c : Nat) (x : Core) (fl : Flow) : Core :=
  match fl.newLoop with
  | some k =>
    let fits := s.bodyFits c (at_ fl.after.le k 0).toNat 32 (at_ fl.after.ls k 0).toNat
    { x with lbLoop := if fits then some k else none, lbOn := false, lbuf := [] }
  | none => { x with lbOn := x.lbOn || (fl.again.isSome && fl.again == x.lbLoop) }

/-- The bundle of no effect of a LOOP with count zero passes X once no response is awaited: the late results of the LOOP's bundle land,
and its record holds them alone (R62, R51, R154). Its X cycle is the stall cycle of the LOOP (DEDUCED, log 4). -/
def State.passSkip (s : State) (c : Nat) : State :=
  let x := s.core c
  match x.skip with
  | none => s
  | some a =>
    if !x.wait.isEmpty then s else
    let y := x.landDue
    (s.setCore c { y with held := false, skip := none, landed := [], testLoops := x.loops }).post c
      { entry := false, pc := a, wbs := y.landed, cregs := [], reqs := [], accs := [] }

/-- The first body bundle of a LOOP with count zero follows that LOOP's bundle (R62), unless an ACCESS_ERROR waits at the boundary
between them (R57). -/
def State.skipBody (s : State) (c : Nat) (a : Word) : State :=
  if (s.core c).aerr.isSome then s else (s.updCore c fun x => { x with held := true, skip := some a }).passSkip c

/-- The bundle in X completes (R48, R51 to R53, R154). -/
def State.finishBundle (s : State) (c : Nat) : State :=
  let x := s.core c
  let ops : List OpEff := x.open_.map fun o => o.flat o.elems
  let fl := s.flow c
  -- fetch of the next bundle, with memory as it stands before the stores (R68)
  let xb := s.bufferFor c x fl
  let f := s.fetch c xb fl.after fl.next
  let body := match fl.skip with
    | some a => (s.fetch c xb fl.after a).2.1
    | none => []
  let outs := s.outcomes (ops.flatMap (·.reads)) ++ s.outcomes f.2.1 ++ s.outcomes body
  let refs : List (Nat × Bool × Word) := ops.filterMap OpEff.refused
  let y := (xb.advanced ops fl f).withRefusals refs (ops.any OpEff.fence)
  let rec_ := bundleRecord x.pc (x.landed ++ x.landing ops fl.next f.1) (x.hwUpdates y fl) ops
  let s := s.setCore c { y with landed := [] }
  let w := s.applyStores c (ops.flatMap (·.stores))
  let s := w.1.recordRefusals c refs
  let s := (s.post c rec_).eccEvents (outs ++ w.2)
  match fl.skip with
  | some a => if s.executes c then s.skipBody c a else s
  | none => s

/-- The complete bundle of core c is held or completes (R54). -/
def State.tryFinish (s : State) (c : Nat) : State :=
  if s.bundleHeld c then s.updCore c fun x => { x with held := true } else s.finishBundle c

/-- The operation whose element fault the bundle takes keeps its elements, and no other operation has any (R118). -/
def Core.onlyElems (x : Core) (o : OpEff) : Core :=
  { x with open_ := x.open_.map fun k => if k.slot = o.slot then k else { k with elems := [] } }

/-- The operation with the element fault that is the trap of the bundle (R118). -/
def faultingOp (t : Option (Nat × Word × Option OpEff)) : Option OpEff :=
  match t with
  | some (_, _, some o) => if o.vstart.isSome then some o else none
  | _ => none

/-- The bundle is complete: its last operation has been given (R50). It waits for the responses of the bundle before it; then
it traps, or serves its elements outside PM and DM and completes, or serves those before a faulting one and traps (R54, R78,
R79, R117, R118). -/
def State.closeBundle (s : State) (c : Nat) : State :=
  if !(s.core c).wait.isEmpty then s.updCore c fun x => { x with held := true } else
  let t := lowestTrap (s.core c).traps
  let s := match faultingOp t with
    | some o => s.updCore c fun x => x.onlyElems o
    | none => s
  let s := if t.isSome then s else s.issueLoads c
  let served := if t.isSome && (faultingOp t).isNone then (s, true) else s.serveElems c 64
  let s := served.1
  if !served.2 then s.updCore c fun x => { x with held := true } else
  match lowestTrap (s.core c).traps with
  | some t => s.trapBundle c t
  | none => s.tryFinish c

/-- Core c can take the next operation of its bundle: it executes, its bundle in X is not complete, and no ACCESS_ERROR waits
at the boundary before it (R57, R58). -/
def State.canIssue (s : State) (c : Nat) : Bool :=
  let x := s.core c
  s.executes c && !x.held && decide (x.pc.toNat + 4 * x.open_.length < 0x18000) && !(x.open_.isEmpty && x.aerr.isSome)

/-- The operation word, its slot and its effect as they stand in the open bundle (R50). -/
def OpEff.at_ (o : OpEff) (k : Nat) (w : Word) : OpEff := { o with slot := k, word := w }

/-- A core with this open bundle. -/
def Core.withOpen (x : Core) (l : List OpEff) : Core := { x with open_ := l }

/-- An operation of core c's stream: it joins the open bundle with the effect that the registers at the bundle's start give
it, and the bundle completes with it when E is set, when it is the sixth, or when the bundle reaches the end of PM
(R50, R52, R124). A core that executes nothing, or whose bundle is held, is unchanged (log 1). -/
def State.issue (s : State) (c : Nat) (word : Word) (eff : OpEff) : State :=
  if !s.canIssue c then s else
  let x := s.core c
  let slot := nextSlot (x.open_.getLast?.map (·.slot)) (wordClass word)
  let o := (if undefWord word then OpEff.illegal word else eff).at_ slot word
  let s := s.setCore c (x.withOpen (x.open_ ++ [o]))
  let n := x.open_.length + 1
  if word.getLsbD 31 || n == 6 || decide (0x18000 ≤ x.pc.toNat + 4 * n) then s.closeBundle c else s

end Sys2Proof.Machine
end

