-- ==== Sys2Proof/Machine/Alu.lean ====
section
/-!
DEFINITION. The integer operations of the A slot (R131, R132, R91).
-/

namespace Sys2Proof.Machine

/-- A register-form integer result (R131): its tag is the OR of the operands' tags (R143). -/
def aluR (x : Core) (rd ra rb : BitVec 5) (f : Word → Word → Word) : OpEff :=
  { OpEff.nil with early := [.g rd.toNat ⟨f (x.g ra).v (x.g rb).v, (x.g ra).p || (x.g rb).p⟩] }

/-- An immediate-form integer result (R131). -/
def aluI (x : Core) (rd ra : BitVec 5) (b : Word) (f : Word → Word → Word) : OpEff :=
  { OpEff.nil with early := [.g rd.toNat ⟨f (x.g ra).v b, (x.g ra).p⟩] }

/-- 1 where a condition holds, else 0. -/
def flagWord (b : Bool) : Word := if b then 1 else 0

/-- Shift left by b[4:0]. -/
def shl32 (a b : Word) : Word := a <<< (b.toNat % 32)

/-- Shift right by b[4:0], zeros in. -/
def shr32 (a b : Word) : Word := a >>> (b.toNat % 32)

/-- Shift right by b[4:0], sign in. -/
def sra32 (a b : Word) : Word := a.sshiftRight (b.toNat % 32)

/-- Signed minimum. -/
def smin32 (a b : Word) : Word := if b.slt a then b else a

/-- Signed maximum. -/
def smax32 (a b : Word) : Word := if a.slt b then b else a

/-- Signed sum clamped to 32 bits. -/
def adds32 (a b : Word) : Word := BitVec.ofInt 32 (satS 32 (a.toInt + b.toInt))

/-- Signed difference clamped to 32 bits. -/
def subs32 (a b : Word) : Word := BitVec.ofInt 32 (satS 32 (a.toInt - b.toInt))

/-- Signed quotient truncated toward zero; a quotient out of range and a division by zero saturate (R131, 03). -/
def divs32 (a b : Word) : Word :=
  if b = 0 then (if a.toInt < 0 then 0x80000000 else 0x7FFFFFFF) else BitVec.ofInt 32 (satS 32 (a.toInt.tdiv b.toInt))

/-- High half of the signed product. -/
def mulh32 (a b : Word) : Word := BitVec.ofInt 32 (a.toInt * b.toInt / 2 ^ 32)

/-- High half of the unsigned product. -/
def mulhu32 (a b : Word) : Word := BitVec.ofNat 32 (a.toNat * b.toNat / 2 ^ 32)

/-- Number of bits from bit 30 downward that equal bit 31 (R91). -/
def cls32 (a : Word) : Word := BitVec.ofNat 32 (signRun 30 a.toNat)

/-- ADD (R131). -/
def execAdd (c : Fin 64) (e : Bool) (rd ra rb : BitVec 5) (s : State) : Host.Outcome State Fault Refusal :=
  .next (s.issue c (aluWord e 0x00 rd ra rb) (aluR (s.core c) rd ra rb (fun a b => a + b)))

/-- SUB (R131). -/
def execSub (c : Fin 64) (e : Bool) (rd ra rb : BitVec 5) (s : State) : Host.Outcome State Fault Refusal :=
  .next (s.issue c (aluWord e 0x01 rd ra rb) (aluR (s.core c) rd ra rb (fun a b => a - b)))

/-- AND (R131). -/
def execAnd (c : Fin 64) (e : Bool) (rd ra rb : BitVec 5) (s : State) : Host.Outcome State Fault Refusal :=
  .next (s.issue c (aluWord e 0x02 rd ra rb) (aluR (s.core c) rd ra rb (fun a b => a &&& b)))

/-- OR (R131). -/
def execOr (c : Fin 64) (e : Bool) (rd ra rb : BitVec 5) (s : State) : Host.Outcome State Fault Refusal :=
  .next (s.issue c (aluWord e 0x03 rd ra rb) (aluR (s.core c) rd ra rb (fun a b => a ||| b)))

/-- XOR (R131). -/
def execXor (c : Fin 64) (e : Bool) (rd ra rb : BitVec 5) (s : State) : Host.Outcome State Fault Refusal :=
  .next (s.issue c (aluWord e 0x04 rd ra rb) (aluR (s.core c) rd ra rb (fun a b => a ^^^ b)))

/-- SLL (R131). -/
def execSll (c : Fin 64) (e : Bool) (rd ra rb : BitVec 5) (s : State) : Host.Outcome State Fault Refusal :=
  .next (s.issue c (aluWord e 0x05 rd ra rb) (aluR (s.core c) rd ra rb shl32))

/-- SRL (R131). -/
def execSrl (c : Fin 64) (e : Bool) (rd ra rb : BitVec 5) (s : State) : Host.Outcome State Fault Refusal :=
  .next (s.issue c (aluWord e 0x06 rd ra rb) (aluR (s.core c) rd ra rb shr32))

/-- SRA (R131). -/
def execSra (c : Fin 64) (e : Bool) (rd ra rb : BitVec 5) (s : State) : Host.Outcome State Fault Refusal :=
  .next (s.issue c (aluWord e 0x07 rd ra rb) (aluR (s.core c) rd ra rb sra32))

/-- SLT (R131). -/
def execSlt (c : Fin 64) (e : Bool) (rd ra rb : BitVec 5) (s : State) : Host.Outcome State Fault Refusal :=
  .next (s.issue c (aluWord e 0x08 rd ra rb) (aluR (s.core c) rd ra rb (fun a b => flagWord (a.slt b))))

/-- SLTU (R131). -/
def execSltu (c : Fin 64) (e : Bool) (rd ra rb : BitVec 5) (s : State) : Host.Outcome State Fault Refusal :=
  .next (s.issue c (aluWord e 0x09 rd ra rb) (aluR (s.core c) rd ra rb (fun a b => flagWord (a.ult b))))

/-- MIN (R131). -/
def execMin (c : Fin 64) (e : Bool) (rd ra rb : BitVec 5) (s : State) : Host.Outcome State Fault Refusal :=
  .next (s.issue c (aluWord e 0x0A rd ra rb) (aluR (s.core c) rd ra rb smin32))

/-- MAX (R131). -/
def execMax (c : Fin 64) (e : Bool) (rd ra rb : BitVec 5) (s : State) : Host.Outcome State Fault Refusal :=
  .next (s.issue c (aluWord e 0x0B rd ra rb) (aluR (s.core c) rd ra rb smax32))

/-- ADDS (R131). -/
def execAdds (c : Fin 64) (e : Bool) (rd ra rb : BitVec 5) (s : State) : Host.Outcome State Fault Refusal :=
  .next (s.issue c (aluWord e 0x0C rd ra rb) (aluR (s.core c) rd ra rb adds32))

/-- SUBS (R131). -/
def execSubs (c : Fin 64) (e : Bool) (rd ra rb : BitVec 5) (s : State) : Host.Outcome State Fault Refusal :=
  .next (s.issue c (aluWord e 0x0D rd ra rb) (aluR (s.core c) rd ra rb subs32))

/-- MUL (R131). -/
def execMul (c : Fin 64) (e : Bool) (rd ra rb : BitVec 5) (s : State) : Host.Outcome State Fault Refusal :=
  .next (s.issue c (aluWord e 0x10 rd ra rb) (aluR (s.core c) rd ra rb (fun a b => a * b)))

/-- MULH (R131). -/
def execMulh (c : Fin 64) (e : Bool) (rd ra rb : BitVec 5) (s : State) : Host.Outcome State Fault Refusal :=
  .next (s.issue c (aluWord e 0x11 rd ra rb) (aluR (s.core c) rd ra rb mulh32))

/-- MULHU (R131). -/
def execMulhu (c : Fin 64) (e : Bool) (rd ra rb : BitVec 5) (s : State) : Host.Outcome State Fault Refusal :=
  .next (s.issue c (aluWord e 0x12 rd ra rb) (aluR (s.core c) rd ra rb mulhu32))

/-- CLS (R91). -/
def execCls (c : Fin 64) (e : Bool) (rd ra : BitVec 5) (s : State) : Host.Outcome State Fault Refusal :=
  .next (s.issue c (aluWord e 0x0E rd ra 0) (aluI (s.core c) rd ra 0 fun a _ => cls32 a))

/-- DIVS (R131): its bundle lasts 16 cycles (Table 3-2). -/
def execDivs (c : Fin 64) (e : Bool) (rd ra rb : BitVec 5) (s : State) : Host.Outcome State Fault Refusal :=
  .next (s.issue c (aluWord e 0x0F rd ra rb) { aluR (s.core c) rd ra rb divs32 with stall := 15 })

/-- ADDI (R131). -/
def execAddi (c : Fin 64) (e : Bool) (rd ra : BitVec 5) (imm : BitVec 12) (s : State) :
    Host.Outcome State Fault Refusal :=
  .next (s.issue c (aluiWord e 0x0 rd ra imm) (aluI (s.core c) rd ra (imm.signExtend 32) (fun a b => a + b)))

/-- ANDI (R131). -/
def execAndi (c : Fin 64) (e : Bool) (rd ra : BitVec 5) (imm : BitVec 12) (s : State) :
    Host.Outcome State Fault Refusal :=
  .next (s.issue c (aluiWord e 0x1 rd ra imm) (aluI (s.core c) rd ra (imm.setWidth 32) (fun a b => a &&& b)))

/-- ORI (R131). -/
def execOri (c : Fin 64) (e : Bool) (rd ra : BitVec 5) (imm : BitVec 12) (s : State) :
    Host.Outcome State Fault Refusal :=
  .next (s.issue c (aluiWord e 0x2 rd ra imm) (aluI (s.core c) rd ra (imm.setWidth 32) (fun a b => a ||| b)))

/-- XORI (R131). -/
def execXori (c : Fin 64) (e : Bool) (rd ra : BitVec 5) (imm : BitVec 12) (s : State) :
    Host.Outcome State Fault Refusal :=
  .next (s.issue c (aluiWord e 0x3 rd ra imm) (aluI (s.core c) rd ra (imm.setWidth 32) (fun a b => a ^^^ b)))

/-- SLLI (R131). -/
def execSlli (c : Fin 64) (e : Bool) (rd ra : BitVec 5) (imm : BitVec 12) (s : State) :
    Host.Outcome State Fault Refusal :=
  .next (s.issue c (aluiWord e 0x4 rd ra imm) (aluI (s.core c) rd ra (imm.setWidth 32) shl32))

/-- SRLI (R131). -/
def execSrli (c : Fin 64) (e : Bool) (rd ra : BitVec 5) (imm : BitVec 12) (s : State) :
    Host.Outcome State Fault Refusal :=
  .next (s.issue c (aluiWord e 0x5 rd ra imm) (aluI (s.core c) rd ra (imm.setWidth 32) shr32))

/-- SRAI (R131). -/
def execSrai (c : Fin 64) (e : Bool) (rd ra : BitVec 5) (imm : BitVec 12) (s : State) :
    Host.Outcome State Fault Refusal :=
  .next (s.issue c (aluiWord e 0x6 rd ra imm) (aluI (s.core c) rd ra (imm.setWidth 32) sra32))

/-- SLTI (R131). -/
def execSlti (c : Fin 64) (e : Bool) (rd ra : BitVec 5) (imm : BitVec 12) (s : State) :
    Host.Outcome State Fault Refusal :=
  .next (s.issue c (aluiWord e 0x7 rd ra imm) (aluI (s.core c) rd ra (imm.signExtend 32) (fun a b => flagWord (a.slt b))))

/-- SLTUI (R131). -/
def execSltui (c : Fin 64) (e : Bool) (rd ra : BitVec 5) (imm : BitVec 12) (s : State) :
    Host.Outcome State Fault Refusal :=
  .next (s.issue c (aluiWord e 0x8 rd ra imm) (aluI (s.core c) rd ra (imm.setWidth 32) (fun a b => flagWord (a.ult b))))

/-- MINI (R131). -/
def execMini (c : Fin 64) (e : Bool) (rd ra : BitVec 5) (imm : BitVec 12) (s : State) :
    Host.Outcome State Fault Refusal :=
  .next (s.issue c (aluiWord e 0x9 rd ra imm) (aluI (s.core c) rd ra (imm.signExtend 32) smin32))

/-- MAXI (R131). -/
def execMaxi (c : Fin 64) (e : Bool) (rd ra : BitVec 5) (imm : BitVec 12) (s : State) :
    Host.Outcome State Fault Refusal :=
  .next (s.issue c (aluiWord e 0xA rd ra imm) (aluI (s.core c) rd ra (imm.signExtend 32) smax32))

/-- MOVI (R132). -/
def execMovi (c : Fin 64) (e : Bool) (rd : BitVec 5) (imm : BitVec 16) (s : State) : Host.Outcome State Fault Refusal :=
  .next (s.issue c (moviWord e 0 rd imm) { OpEff.nil with early := [.g rd.toNat (TW.plain (imm.signExtend 32))] })

/-- MOVUI (R132). -/
def execMovui (c : Fin 64) (e : Bool) (rd : BitVec 5) (imm : BitVec 16) (s : State) : Host.Outcome State Fault Refusal :=
  .next (s.issue c (moviWord e 1 rd imm) { OpEff.nil with early := [.g rd.toNat (TW.plain (imm.setWidth 32))] })

/-- MOVHI (R132): it reads the old RD. -/
def execMovhi (c : Fin 64) (e : Bool) (rd : BitVec 5) (imm : BitVec 16) (s : State) : Host.Outcome State Fault Refusal :=
  .next (s.issue c (moviWord e 2 rd imm)
    (aluI (s.core c) rd rd (imm.setWidth 32 <<< 16) fun a b => b ||| (a &&& 0xFFFF)))

end Sys2Proof.Machine
end

