-- ==== Sys2Proof/Machine/Float.lean ====
section
/-!
DEFINITION. The scalar floating-point operations (R103, R141, R142): binary32 values are decoded, computed exactly and rounded
once.
-/

namespace Sys2Proof.Machine

/-- A binary32 value: NaN, an infinity, a zero, or mant × 2^ex with a non-zero mantissa. -/
inductive FVal where
  | nan
  | inf (neg : Bool)
  | zero (neg : Bool)
  | num (mant ex : Int)
  deriving DecidableEq, Repr

/-- Reading an operand (R142): a subnormal is a zero of the same sign. -/
def fRead (w : Word) : FVal :=
  let neg := w.getLsbD 31
  let ex := bitsOf w.toNat 30 23
  let fr := bitsOf w.toNat 22 0
  if ex = 255 then (if fr = 0 then .inf neg else .nan)
  else if ex = 0 then .zero neg
  else
    let m : Int := (2 ^ 23 + fr : Nat)
    .num (if neg then -m else m) ((ex : Int) - 150)

/-- Bits with a sign. -/
def fSign (neg : Bool) (n : Nat) : Word := BitVec.ofNat 32 (n + 2 ^ 31 * b2n neg)

/-- A magnitude divided by 2^d, to nearest, ties to even. -/
def roundEven (n d : Nat) : Nat :=
  let q := n / 2 ^ d
  let r := n % 2 ^ d
  if 2 ^ d < 2 * r ∨ (2 * r = 2 ^ d ∧ q % 2 = 1 ∧ d ≠ 0) then q + 1 else q

/-- Rounding an exact value to a result (R142). -/
def fRound : FVal → Word
  | .nan => 0x7FC00000
  | .inf neg => fSign neg 0x7F800000
  | .zero neg => fSign neg 0
  | .num m ex =>
    let neg := decide (m < 0)
    let a := m.natAbs
    let n := Nat.log2 a + 1
    let q0 := if n ≤ 24 then a * 2 ^ (24 - n) else roundEven a (n - 24)
    let e0 : Int := ex + (n : Int) - 24
    let (q, e) := if q0 = 2 ^ 24 then (2 ^ 23, e0 + 1) else (q0, e0)
    let biased := e + 150
    if 255 ≤ biased then fSign neg 0x7F800000
    else if biased ≤ 0 then fSign neg 0
    else fSign neg (biased.toNat * 2 ^ 23 + (q - 2 ^ 23))

/-- The value with its sign inverted. -/
def fNeg : FVal → FVal
  | .nan => .nan
  | .inf n => .inf !n
  | .zero n => .zero !n
  | .num m e => .num (-m) e

/-- Exact sum; an exact zero of operands that are not both negative is positive. -/
def fSum : FVal → FVal → FVal
  | .nan, _ => .nan
  | _, .nan => .nan
  | .inf a, .inf b => if a = b then .inf a else .nan
  | .inf a, _ => .inf a
  | _, .inf b => .inf b
  | .zero a, .zero b => .zero (a && b)
  | .zero _, .num m e => .num m e
  | .num m e, .zero _ => .num m e
  | .num m e, .num k f =>
    let lo := min e f
    let z := m * 2 ^ (e - lo).toNat + k * 2 ^ (f - lo).toNat
    if z = 0 then .zero false else .num z lo

/-- Sign of a value that is not NaN. -/
def fIsNeg : FVal → Bool
  | .nan => false
  | .inf n => n
  | .zero n => n
  | .num m _ => decide (m < 0)

/-- Exact product. -/
def fProd (a b : FVal) : FVal :=
  let n := fIsNeg a != fIsNeg b
  match a, b with
  | .nan, _ => .nan
  | _, .nan => .nan
  | .inf _, .zero _ => .nan
  | .zero _, .inf _ => .nan
  | .inf _, _ => .inf n
  | _, .inf _ => .inf n
  | .zero _, _ => .zero n
  | _, .zero _ => .zero n
  | .num m e, .num k f => .num (m * k) (e + f)

/-- A value other than NaN on one scale, 2^-149, for comparison. -/
def fScale : FVal → Int
  | .nan => 0
  | .inf n => if n then -(2 ^ 300) else 2 ^ 300
  | .zero _ => 0
  | .num m e => m * 2 ^ (e + 149).toNat

/-- Ordering with −0 below +0 (R142, FMIN and FMAX). -/
def fBelow (a b : FVal) : Bool :=
  decide (fScale a < fScale b) || (fScale a == fScale b && fIsNeg a && !fIsNeg b)

/-- The smaller or the larger; the other operand where exactly one is NaN (R142). -/
def fPick (larger : Bool) (a b : FVal) : FVal :=
  if a = .nan then b else if b = .nan then a
  else if larger then (if fBelow a b then b else a) else (if fBelow b a then b else a)

/-- A value rounded to a signed integer, to nearest, ties to even, within the range (R142). -/
def fToInt : FVal → Word
  | .nan => 0
  | .inf n => if n then 0x80000000 else 0x7FFFFFFF
  | .zero _ => 0
  | .num m e =>
    let a := if 0 ≤ e then m.natAbs * 2 ^ e.toNat else roundEven m.natAbs (-e).toNat
    BitVec.ofInt 32 (satS 32 (if m < 0 then -(a : Int) else a))

/-- A comparison of two values; false where either is NaN (R142). -/
def fComp (f : Int → Int → Bool) (a b : FVal) : Word :=
  if a = .nan ∨ b = .nan then 0 else if f (fScale a) (fScale b) then 1 else 0

/-- A result in an f register, from values of operands with these tags (R103). -/
def fOut (fd : BitVec 5) (w : Word) (p : Bool) : OpEff := { OpEff.nil with early := [wbF fd ⟨w, p⟩] }

/-- A result in a general register. -/
def gOut (gd : BitVec 5) (w : Word) (p : Bool) : OpEff := { OpEff.nil with early := [.g gd.toNat ⟨w, p⟩] }

/-- FADD (Table 6-10). -/
def execFadd (c : Fin 64) (e : Bool) (fd fa fb : BitVec 5) (s : State) : Host.Outcome State Fault Refusal :=
  let a := (s.core c).f fa
  let b := (s.core c).f fb
  .next (s.issue c (fopWord e 0x00 fd fa fb 0) (fOut fd (fRound (fSum (fRead a.v) (fRead b.v))) (a.p || b.p)))

/-- FSUB (Table 6-10). -/
def execFsub (c : Fin 64) (e : Bool) (fd fa fb : BitVec 5) (s : State) : Host.Outcome State Fault Refusal :=
  let a := (s.core c).f fa
  let b := (s.core c).f fb
  .next (s.issue c (fopWord e 0x01 fd fa fb 0) (fOut fd (fRound (fSum (fRead a.v) (fNeg (fRead b.v)))) (a.p || b.p)))

/-- FMUL (Table 6-10). -/
def execFmul (c : Fin 64) (e : Bool) (fd fa fb : BitVec 5) (s : State) : Host.Outcome State Fault Refusal :=
  let a := (s.core c).f fa
  let b := (s.core c).f fb
  .next (s.issue c (fopWord e 0x02 fd fa fb 0) (fOut fd (fRound (fProd (fRead a.v) (fRead b.v))) (a.p || b.p)))

/-- FMADD (Table 6-10): rounded once. -/
def execFmadd (c : Fin 64) (e : Bool) (fd fa fb fc : BitVec 5) (s : State) : Host.Outcome State Fault Refusal :=
  let a := (s.core c).f fa
  let b := (s.core c).f fb
  let k := (s.core c).f fc
  .next (s.issue c (fopWord e 0x03 fd fa fb fc)
    (fOut fd (fRound (fSum (fProd (fRead a.v) (fRead b.v)) (fRead k.v))) (a.p || b.p || k.p)))

/-- FMSUB (Table 6-10): rounded once. -/
def execFmsub (c : Fin 64) (e : Bool) (fd fa fb fc : BitVec 5) (s : State) : Host.Outcome State Fault Refusal :=
  let a := (s.core c).f fa
  let b := (s.core c).f fb
  let k := (s.core c).f fc
  .next (s.issue c (fopWord e 0x04 fd fa fb fc)
    (fOut fd (fRound (fSum (fProd (fRead a.v) (fRead b.v)) (fNeg (fRead k.v)))) (a.p || b.p || k.p)))

/-- FMIN (Table 6-10). -/
def execFmin (c : Fin 64) (e : Bool) (fd fa fb : BitVec 5) (s : State) : Host.Outcome State Fault Refusal :=
  let a := (s.core c).f fa
  let b := (s.core c).f fb
  .next (s.issue c (fopWord e 0x05 fd fa fb 0) (fOut fd (fRound (fPick false (fRead a.v) (fRead b.v))) (a.p || b.p)))

/-- FMAX (Table 6-10). -/
def execFmax (c : Fin 64) (e : Bool) (fd fa fb : BitVec 5) (s : State) : Host.Outcome State Fault Refusal :=
  let a := (s.core c).f fa
  let b := (s.core c).f fb
  .next (s.issue c (fopWord e 0x06 fd fa fb 0) (fOut fd (fRound (fPick true (fRead a.v) (fRead b.v))) (a.p || b.p)))

/-- FABS (Table 6-10). -/
def execFabs (c : Fin 64) (e : Bool) (fd fa : BitVec 5) (s : State) : Host.Outcome State Fault Refusal :=
  let a := (s.core c).f fa
  .next (s.issue c (fopWord e 0x07 fd fa 0 0) (fOut fd (a.v &&& 0x7FFFFFFF) a.p))

/-- FNEG (Table 6-10). -/
def execFneg (c : Fin 64) (e : Bool) (fd fa : BitVec 5) (s : State) : Host.Outcome State Fault Refusal :=
  let a := (s.core c).f fa
  .next (s.issue c (fopWord e 0x08 fd fa 0 0) (fOut fd (a.v ^^^ 0x80000000) a.p))

/-- FITOF (Table 6-10). -/
def execFitof (c : Fin 64) (e : Bool) (fd ga : BitVec 5) (s : State) : Host.Outcome State Fault Refusal :=
  let a := (s.core c).g ga
  .next (s.issue c (fopWord e 0x09 fd ga 0 0) (fOut fd (fRound (if a.v = 0 then .zero false else .num a.v.toInt 0)) a.p))

/-- FFTOI (Table 6-10). -/
def execFftoi (c : Fin 64) (e : Bool) (gd fa : BitVec 5) (s : State) : Host.Outcome State Fault Refusal :=
  let a := (s.core c).f fa
  .next (s.issue c (fopWord e 0x0A gd fa 0 0) (gOut gd (fToInt (fRead a.v)) a.p))

/-- FSETB (Table 6-10). -/
def execFsetb (c : Fin 64) (e : Bool) (fd ga : BitVec 5) (s : State) : Host.Outcome State Fault Refusal :=
  let a := (s.core c).g ga
  .next (s.issue c (fopWord e 0x0B fd ga 0 0) (fOut fd (a.v) a.p))

/-- FGETB (Table 6-10). -/
def execFgetb (c : Fin 64) (e : Bool) (gd fa : BitVec 5) (s : State) : Host.Outcome State Fault Refusal :=
  let a := (s.core c).f fa
  .next (s.issue c (fopWord e 0x0C gd fa 0 0) (gOut gd (a.v) a.p))

/-- FCMPEQ (Table 6-10). -/
def execFcmpeq (c : Fin 64) (e : Bool) (gd fa fb : BitVec 5) (s : State) : Host.Outcome State Fault Refusal :=
  let a := (s.core c).f fa
  let b := (s.core c).f fb
  .next (s.issue c (fopWord e 0x0D gd fa fb 0) (gOut gd (fComp (fun x y => x == y) (fRead a.v) (fRead b.v)) (a.p || b.p)))

/-- FCMPLT (Table 6-10). -/
def execFcmplt (c : Fin 64) (e : Bool) (gd fa fb : BitVec 5) (s : State) : Host.Outcome State Fault Refusal :=
  let a := (s.core c).f fa
  let b := (s.core c).f fb
  .next (s.issue c (fopWord e 0x0E gd fa fb 0) (gOut gd (fComp (fun x y => decide (x < y)) (fRead a.v) (fRead b.v)) (a.p || b.p)))

/-- FCMPLE (Table 6-10). -/
def execFcmple (c : Fin 64) (e : Bool) (gd fa fb : BitVec 5) (s : State) : Host.Outcome State Fault Refusal :=
  let a := (s.core c).f fa
  let b := (s.core c).f fb
  .next (s.issue c (fopWord e 0x0F gd fa fb 0) (gOut gd (fComp (fun x y => decide (x ≤ y)) (fRead a.v) (fRead b.v)) (a.p || b.p)))

end Sys2Proof.Machine
end

