-- ==== Sys2Proof/Machine/Flow.lean ====
section
/-!
DEFINITION. Branches, jumps, loops, system operations and control registers (R129, R132 to R136, R59 to R66, R80, R107).
-/

namespace Sys2Proof.Machine

/-- A fetch target that R28 accepts. -/
def targetOk (a : Word) : Bool := decide (a.toNat < 0x18000) && a.toNat % 4 == 0

/-- A taken branch or jump (R28, R60). -/
def jumpTo (a : Word) : OpEff :=
  if targetOk a then { OpEff.nil with branch := some a } else { OpEff.nil with trap := some (0x84, a) }

/-- A compare-and-branch (R133, R61): i selects the immediate form, whose rb field holds IMM5. A taken branch to a refused target
has the lower cause of its two where an operand is poisoned (R79). -/
def branchEff (x : Core) (word : Word) (i sgn : Bool) (ra rb : BitVec 5) (off : BitVec 13) (f : Word → Word → Bool) : OpEff :=
  let b : TW := if i then TW.plain (if sgn then rb.signExtend 32 else rb.setWidth 32) else x.g rb
  let target := x.pc + (off.signExtend 32 <<< 2)
  let taken := f (x.g ra).v b.v
  if ((x.g ra).p || b.p) && !(taken && !targetOk target) then OpEff.poisonUse word
  else if taken then jumpTo target else OpEff.nil

/-- BEQ (R133). -/
def execBeq (c : Fin 64) (e i : Bool) (ra rb : BitVec 5) (off : BitVec 13) (s : State) :
    Host.Outcome State Fault Refusal :=
  let w := brWord e i 0 ra rb off
  .next (s.issue c w (branchEff (s.core c) w i true ra rb off (fun a b => a == b)))

/-- BNE (R133). -/
def execBne (c : Fin 64) (e i : Bool) (ra rb : BitVec 5) (off : BitVec 13) (s : State) :
    Host.Outcome State Fault Refusal :=
  let w := brWord e i 1 ra rb off
  .next (s.issue c w (branchEff (s.core c) w i true ra rb off (fun a b => a != b)))

/-- BLT (R133). -/
def execBlt (c : Fin 64) (e i : Bool) (ra rb : BitVec 5) (off : BitVec 13) (s : State) :
    Host.Outcome State Fault Refusal :=
  let w := brWord e i 2 ra rb off
  .next (s.issue c w (branchEff (s.core c) w i true ra rb off (fun a b => a.slt b)))

/-- BGE (R133). -/
def execBge (c : Fin 64) (e i : Bool) (ra rb : BitVec 5) (off : BitVec 13) (s : State) :
    Host.Outcome State Fault Refusal :=
  let w := brWord e i 3 ra rb off
  .next (s.issue c w (branchEff (s.core c) w i true ra rb off (fun a b => !a.slt b)))

/-- BLTU (R133). -/
def execBltu (c : Fin 64) (e i : Bool) (ra rb : BitVec 5) (off : BitVec 13) (s : State) :
    Host.Outcome State Fault Refusal :=
  let w := brWord e i 4 ra rb off
  .next (s.issue c w (branchEff (s.core c) w i false ra rb off (fun a b => a.ult b)))

/-- BGEU (R133). -/
def execBgeu (c : Fin 64) (e i : Bool) (ra rb : BitVec 5) (off : BitVec 13) (s : State) :
    Host.Outcome State Fault Refusal :=
  let w := brWord e i 5 ra rb off
  .next (s.issue c w (branchEff (s.core c) w i false ra rb off (fun a b => !a.ult b)))

/-- J (R133). -/
def execJ (c : Fin 64) (e : Bool) (off : BitVec 25) (s : State) : Host.Outcome State Fault Refusal :=
  .next (s.issue c (jmpWord e false off) (jumpTo ((s.core c).pc + (off.signExtend 32 <<< 2))))

/-- JAL (R60, R133): g31 receives the address of the bundle after the delay bundle. -/
def execJal (c : Fin 64) (e : Bool) (off : BitVec 25) (s : State) : Host.Outcome State Fault Refusal :=
  .next (s.issue c (jmpWord e true off) { jumpTo ((s.core c).pc + (off.signExtend 32 <<< 2)) with link := true })

/-- A jump to a register (R61, R133). Of two causes the lower is taken: a refused target before a poisoned one (R79). -/
def jumpReg (x : Core) (word : Word) (ra : BitVec 5) : OpEff :=
  if (x.g ra).p && targetOk (x.g ra).v then OpEff.poisonUse word else jumpTo (x.g ra).v

/-- JR (R133). -/
def execJr (c : Fin 64) (e : Bool) (ra : BitVec 5) (s : State) : Host.Outcome State Fault Refusal :=
  .next (s.issue c (jregWord e 0 ra) (jumpReg (s.core c) (jregWord e 0 ra) ra))

/-- JALR (R133). -/
def execJalr (c : Fin 64) (e : Bool) (ra : BitVec 5) (s : State) : Host.Outcome State Fault Refusal :=
  .next (s.issue c (jregWord e 1 ra) { jumpReg (s.core c) (jregWord e 1 ra) ra with link := true })

/-- RETI (R80): EPC becomes the target; with EPSW.DLY, ETGT is checked too. -/
def retiEff (x : Core) : OpEff :=
  if !targetOk x.epc then { OpEff.nil with trap := some (0x84, x.epc) }
  else if x.epsw.getLsbD 10 && !targetOk x.etgt then { OpEff.nil with trap := some (0x84, x.etgt) }
  else { OpEff.nil with reti := true }

/-- RETI (R80). -/
def execReti (c : Fin 64) (e : Bool) (s : State) : Host.Outcome State Fault Refusal :=
  .next (s.issue c (jregWord e 2 0) (retiEff (s.core c)))

/-- LOOP (R62, R134): the end address is checked when the bundle, and so the start address, is complete. -/
def loopEff (x : Core) (word : Word) (i : Bool) (idx : BitVec 2) (cnt : BitVec 12) (endw : BitVec 11) : OpEff :=
  let n : TW := if i then TW.plain (cnt.setWidth 32) else x.g (cnt.setWidth 5)
  let ld := pswLd x.psw
  let trap : Option (Nat × Word) :=
    if decide (ld ≤ 3) && idx.toNat != ld then some (0x82, word)
    else if n.p then some (0x86, word)
    else if 4 ≤ ld then some (0x87, word) else none
  { OpEff.nil with trap := trap, loop := some (x.pc + BitVec.ofNat 32 (4 * endw.toNat), n.v), stall := if n.v = 0 then 1 else 0 }

/-- LOOP (R62, R63, R134). -/
def execLoop (c : Fin 64) (e i : Bool) (idx : BitVec 2) (cnt : BitVec 12) (endw : BitVec 11) (s : State) :
    Host.Outcome State Fault Refusal :=
  .next (s.issue c (loopWord e i idx cnt endw) (loopEff (s.core c) (loopWord e i idx cnt endw) i idx cnt endw))

/-- NOP (R135). -/
def execNop (c : Fin 64) (e : Bool) (s : State) : Host.Outcome State Fault Refusal :=
  .next (s.issue c (sysWord e 0 0 0 0) OpEff.nil)

/-- FENCE (R58, R101). -/
def execFence (c : Fin 64) (e : Bool) (s : State) : Host.Outcome State Fault Refusal :=
  .next (s.issue c (sysWord e 1 0 0 0) { OpEff.nil with fence := true })

/-- LBINV (R67). -/
def execLbinv (c : Fin 64) (e : Bool) (s : State) : Host.Outcome State Fault Refusal :=
  .next (s.issue c (sysWord e 2 0 0 0) { OpEff.nil with lbinv := true })

/-- TRAP (R135): EVAL holds the immediate. -/
def execTrap (c : Fin 64) (e : Bool) (imm : BitVec 11) (s : State) : Host.Outcome State Fault Refusal :=
  .next (s.issue c (sysWord e 3 0 0 imm.toNat) { OpEff.nil with trap := some (0x88, imm.setWidth 32) })

/-- MOVC (R136). -/
def execMovc (c : Fin 64) (e : Bool) (rd : BitVec 5) (creg : Byte) (s : State) : Host.Outcome State Fault Refusal :=
  .next (s.issue c (sysWord e 4 rd 0 creg.toNat)
    { OpEff.nil with early := [.g rd.toNat (TW.plain ((s.core c).creg creg.toNat))] })

/-- MOVS (R59, R61, R106): setting MODE without PRIV takes PRIV_OP; VL and VTYPE are left unchanged. -/
def movsEff (x : Core) (priv : Bool) (word : Word) (n : Nat) (ra : BitVec 5) : OpEff :=
  let v := x.g ra
  if (n = 0 ∨ n = 2) ∧ v.v.getLsbD 4 = true ∧ priv = false then { OpEff.nil with trap := some (0x83, word) }
  else if v.p then OpEff.poisonUse word
  else if n = 0x20 ∨ n = 0x21 then OpEff.nil
  else { OpEff.nil with early := [.creg n v.v] }

/-- MOVS (R59, R136). -/
def execMovs (c : Fin 64) (e : Bool) (creg : Byte) (ra : BitVec 5) (s : State) : Host.Outcome State Fault Refusal :=
  let w := sysWord e 5 0 ra creg.toNat
  .next (s.issue c w (movsEff (s.core c) (s.ridge (s.core c).ridge).priv w creg.toNat ra))

/-- PMOV.TO (R135): the tag travels with the value. -/
def execPmovTo (c : Fin 64) (e : Bool) (x ra : BitVec 5) (s : State) : Host.Outcome State Fault Refusal :=
  .next (s.issue c (sysWord e 6 0 ra x.toNat) { OpEff.nil with early := [.pf x.toNat ((s.core c).g ra)] })

/-- PMOV.FROM (R135). -/
def execPmovFrom (c : Fin 64) (e : Bool) (rd x : BitVec 5) (s : State) : Host.Outcome State Fault Refusal :=
  .next (s.issue c (sysWord e 7 rd 0 x.toNat) { OpEff.nil with early := [.g rd.toNat ((s.core c).ptr x.toNat)] })

/-- Element width in bits of VTYPE.EW (Table 5-2). -/
def ewBits (ew : BitVec 2) : Nat := if ew = 0 then 8 else if ew = 1 then 16 else 32

/-- Setting VL and VTYPE from a count and a type (R107). -/
def vcfgEff (rd : BitVec 5) (n t : Word) : OpEff :=
  if t.toNat % 4 = 3 ∨ bitsOf t.toNat 30 2 ≠ 0 then
    { OpEff.nil with early := [.creg 0x21 0x80000000, .creg 0x20 0, .creg 0x22 0, .g rd.toNat (TW.plain n)] }
  else
    let vl := min n.toNat (256 / ewBits (t.setWidth 2))
    { OpEff.nil with early := [.creg 0x21 (t &&& 3), .creg 0x20 (BitVec.ofNat 32 vl), .creg 0x22 0,
                               .g rd.toNat (TW.plain (n - BitVec.ofNat 32 vl))] }

/-- VCFG (R107). -/
def execVcfg (c : Fin 64) (e : Bool) (rd ra : BitVec 5) (t : BitVec 11) (s : State) : Host.Outcome State Fault Refusal :=
  let w := sysWord e 8 rd ra t.toNat
  let x := s.core c
  .next (s.issue c w (if (x.g ra).p then OpEff.poisonUse w else vcfgEff rd (x.g ra).v (t.setWidth 32)))

/-- VCFGR (R107). -/
def execVcfgr (c : Fin 64) (e : Bool) (rd ra rt : BitVec 5) (s : State) : Host.Outcome State Fault Refusal :=
  let w := sysWord e 9 rd ra rt.toNat
  let x := s.core c
  .next (s.issue c w (if (x.g ra).p || (x.g rt).p then OpEff.poisonUse w else vcfgEff rd (x.g ra).v (x.g rt).v))

end Sys2Proof.Machine
end

