-- ==== Sys2Proof/Machine/Vector.lean ====
section
/-!
DEFINITION. The vector operations (chapter 05, R140): element operations of the V slot, and the vector loads and stores of the
L slots.
-/

namespace Sys2Proof.Machine

/-- Element i of width w of a register value. -/
def elemN (v : BitVec 256) (w i : Nat) : Nat := v.toNat / 2 ^ (w * i) % 2 ^ w

/-- A number of w bits as a signed value. -/
def signedN (w n : Nat) : Int := if 2 * n < 2 ^ w then n else (n : Int) - 2 ^ w

/-- Element i as a signed value. -/
def elemZ (v : BitVec 256) (w i : Nat) : Int := signedN w (elemN v w i)

/-- A signed value in w bits. -/
def wrapN (w : Nat) (x : Int) : Nat := (x % 2 ^ w).toNat

/-- Element width of a core (R102). -/
def Core.ew (x : Core) : Nat := ewBits x.vew

/-- Active elements from a start index (R109); m: the operation is masked by v0. -/
def Core.actives (x : Core) (start : Nat) (m : Bool) : List Nat :=
  (List.range x.vl).filter fun i => decide (start ≤ i) && (!m || (x.v 0).v.getLsbD i)

/-- A masked operation uses a poisoned mask (R122). -/
def Core.maskPoison (x : Core) (m : Bool) : Bool := m && (x.v 0).t.getLsbD 0

/-- The vector part of a result: bits written, value, tags of the lanes written. -/
structure VRes where
  mask : BitVec 256
  v : BitVec 256
  tags : Byte
  deriving DecidableEq, Repr

/-- A result with one more element of width w at index i and the tag that it brings to its lane. -/
def VRes.put (r : VRes) (w i n : Nat) (tag : Bool) : VRes :=
  { mask := r.mask ||| BitVec.ofNat 256 ((2 ^ w - 1) * 2 ^ (w * i))
    v := r.v ||| BitVec.ofNat 256 (n % 2 ^ w * 2 ^ (w * i))
    tags := if tag then r.tags ||| (1#8 <<< (w * i / 32)) else r.tags }

/-- No element. -/
def VRes.empty : VRes := { mask := 0, v := 0, tags := 0 }

/-- A register result of the V slot, seen by bundle n + 2 (R51); nothing where no element is active (R109). sat: VXSAT.SAT is
set when it lands (R106); DESIGN CHOICE (log 39): it is set too where the result itself is lost to a later one (R53, R104). -/
def vecOut (rs : List (Nat × VRes)) (sat : Bool) : OpEff :=
  { OpEff.nil with late := (rs.filterMap fun r => if r.2.mask = 0 then none else some (Wb.vec r.1 r.2.mask r.2.v r.2.tags))
                             ++ (if sat then [Wb.vxsat] else []) }

/-- Every vector operation while VTYPE.INV = 1 takes ILLEGAL_OP (R108); one that needs a wide element or a multiplier takes it
at width 32 (R113). -/
def Core.vecGuard (x : Core) (word : Word) (no32 : Bool) (f : OpEff) : OpEff :=
  if x.vinv || (no32 && x.vew == 2) then OpEff.illegal word else f

/-- An element operation over the active elements: f gives each element's exact value and the width w results keep its low
bits; src: the tags of the source lanes, lane by lane. -/
def Core.vecMap (x : Core) (vd : BitVec 5) (m : Bool) (src : Byte) (f : Nat → Int × Bool) : OpEff :=
  let w := x.ew
  let mp := x.maskPoison m
  let r := (x.actives 0 m).foldl (fun (a : VRes × Bool) i =>
    let (z, sat) := f i
    (a.1.put w i (wrapN w z) (mp || src.getLsbD (w * i / 32)), a.2 || sat)) (VRes.empty, false)
  vecOut [(vd.toNat, r.1)] r.2

/-- An element operation of two vector registers. -/
def Core.vec2 (x : Core) (vd va vb : BitVec 5) (m : Bool) (f : Int → Int → Int × Bool) : OpEff :=
  x.vecMap vd m ((x.v va).t ||| (x.v vb).t) fun i => f (elemZ (x.v va).v x.ew i) (elemZ (x.v vb).v x.ew i)

/-- An exact result that wraps. -/
def wrapped (z : Int) : Int × Bool := (z, false)

/-- Tags of a general register in every lane. -/
def tagAll (p : Bool) : Byte := if p then 0xFF else 0

/-- VADD (Table 5-4). -/
def execVadd (c : Fin 64) (e : Bool) (vd va vb : BitVec 5) (m : Bool) (s : State) :
    Host.Outcome State Fault Refusal :=
  let w := vopWord e 0x00 false vd va vb m
  let k := s.core c
  .next (s.issue c w (k.vecGuard w false (k.vec2 vd va vb m fun a b => wrapped (a + b))))

/-- VSUB (Table 5-4). -/
def execVsub (c : Fin 64) (e : Bool) (vd va vb : BitVec 5) (m : Bool) (s : State) :
    Host.Outcome State Fault Refusal :=
  let w := vopWord e 0x01 false vd va vb m
  let k := s.core c
  .next (s.issue c w (k.vecGuard w false (k.vec2 vd va vb m fun a b => wrapped (a - b))))

/-- VADDS (Table 5-4). -/
def execVadds (c : Fin 64) (e : Bool) (vd va vb : BitVec 5) (m : Bool) (s : State) :
    Host.Outcome State Fault Refusal :=
  let w := vopWord e 0x02 false vd va vb m
  let k := s.core c
  .next (s.issue c w (k.vecGuard w false (k.vec2 vd va vb m fun a b => satFlag k.ew (a + b))))

/-- VSUBS (Table 5-4). -/
def execVsubs (c : Fin 64) (e : Bool) (vd va vb : BitVec 5) (m : Bool) (s : State) :
    Host.Outcome State Fault Refusal :=
  let w := vopWord e 0x03 false vd va vb m
  let k := s.core c
  .next (s.issue c w (k.vecGuard w false (k.vec2 vd va vb m fun a b => satFlag k.ew (a - b))))

/-- VADDH (Table 5-4). -/
def execVaddh (c : Fin 64) (e : Bool) (vd va vb : BitVec 5) (m : Bool) (s : State) :
    Host.Outcome State Fault Refusal :=
  let w := vopWord e 0x04 false vd va vb m
  let k := s.core c
  .next (s.issue c w (k.vecGuard w false (k.vec2 vd va vb m fun a b => wrapped (roundShift k.vxrm (a + b) 1))))

/-- VSUBH (Table 5-4). -/
def execVsubh (c : Fin 64) (e : Bool) (vd va vb : BitVec 5) (m : Bool) (s : State) :
    Host.Outcome State Fault Refusal :=
  let w := vopWord e 0x05 false vd va vb m
  let k := s.core c
  .next (s.issue c w (k.vecGuard w false (k.vec2 vd va vb m fun a b => wrapped (roundShift k.vxrm (a - b) 1))))

/-- VMUL (Table 5-4). -/
def execVmul (c : Fin 64) (e : Bool) (vd va vb : BitVec 5) (m : Bool) (s : State) :
    Host.Outcome State Fault Refusal :=
  let w := vopWord e 0x06 false vd va vb m
  let k := s.core c
  .next (s.issue c w (k.vecGuard w true (k.vec2 vd va vb m fun a b => wrapped (a * b))))

/-- VMULQ (Table 5-4). -/
def execVmulq (c : Fin 64) (e : Bool) (vd va vb : BitVec 5) (m : Bool) (s : State) :
    Host.Outcome State Fault Refusal :=
  let w := vopWord e 0x07 false vd va vb m
  let k := s.core c
  .next (s.issue c w (k.vecGuard w true (k.vec2 vd va vb m fun a b => satFlag k.ew (roundShift k.vxrm (a * b) (k.ew - 1)))))

/-- VMACQ's effect (Table 5-4): the old destination element takes part. -/
def Core.vmacq (x : Core) (vd va vb : BitVec 5) (m : Bool) : OpEff :=
  let w := x.ew
  x.vecMap vd m ((x.v va).t ||| (x.v vb).t ||| (x.v vd).t) fun i =>
    satFlag w (elemZ (x.v vd).v w i + roundShift x.vxrm (elemZ (x.v va).v w i * elemZ (x.v vb).v w i) (w - 1))

/-- VMACQ (Table 5-4). -/
def execVmacq (c : Fin 64) (e : Bool) (vd va vb : BitVec 5) (m : Bool) (s : State) :
    Host.Outcome State Fault Refusal :=
  let w := vopWord e 0x08 false vd va vb m
  let k := s.core c
  .next (s.issue c w (k.vecGuard w true (k.vmacq vd va vb m)))

/-- Wide element i, of width 2w, of a register pair (R113). -/
def Core.wide (x : Core) (lo : BitVec 5) (i : Nat) : Int :=
  let w := 2 * x.ew
  let n := 256 / w
  if i < n then elemZ (x.v lo).v w i else elemZ (x.v (lo + 1)).v w (i - n)

/-- Tag of the lane of a register pair that holds wide element i. -/
def Core.wideTag (x : Core) (lo : BitVec 5) (i : Nat) : Bool :=
  let w := 2 * x.ew
  let n := 256 / w
  if i < n then (x.v lo).t.getLsbD (w * i / 32) else (x.v (lo + 1)).t.getLsbD (w * (i - n) / 32)

/-- VMACW's effect (Table 5-4): sums at width 2w in a register pair, which saturate at that width. -/
def Core.vmacw (x : Core) (vd va vb : BitVec 5) (m : Bool) : OpEff :=
  let w := x.ew
  let n := 256 / (2 * w)
  let mp := x.maskPoison m
  let src := (x.v va).t ||| (x.v vb).t
  let r := (x.actives 0 m).foldl (fun (a : VRes × VRes × Bool) i =>
    let (z, sat) := satFlag (2 * w) (x.wide vd i + elemZ (x.v va).v w i * elemZ (x.v vb).v w i)
    let tag := mp || src.getLsbD (w * i / 32) || x.wideTag vd i
    if i < n then (a.1.put (2 * w) i (wrapN (2 * w) z) tag, a.2.1, a.2.2 || sat)
    else (a.1, a.2.1.put (2 * w) (i - n) (wrapN (2 * w) z) tag, a.2.2 || sat)) (VRes.empty, VRes.empty, false)
  vecOut [(vd.toNat, r.1), ((vd + 1).toNat, r.2.1)] r.2.2

/-- VMACW (Table 5-4). -/
def execVmacw (c : Fin 64) (e : Bool) (vd va vb : BitVec 5) (m : Bool) (s : State) :
    Host.Outcome State Fault Refusal :=
  let w := vopWord e 0x09 false vd va vb m
  let k := s.core c
  .next (s.issue c w (k.vecGuard w true (k.vmacw vd va vb m)))

/-- VNARROW's effect (Table 5-4): the shift is the low log2(2w) bits of gs. -/
def Core.vnarrow (x : Core) (vd vs gs : BitVec 5) (m : Bool) : OpEff :=
  let w := x.ew
  let d := (x.g gs).v.toNat % (2 * w)
  let mp := x.maskPoison m || (x.g gs).p
  let r := (x.actives 0 m).foldl (fun (a : VRes × Bool) i =>
    let (z, sat) := satFlag w (roundShift x.vxrm (x.wide vs i) d)
    (a.1.put w i (wrapN w z) (mp || x.wideTag vs i), a.2 || sat)) (VRes.empty, false)
  vecOut [(vd.toNat, r.1)] r.2

/-- VNARROW (Table 5-4). -/
def execVnarrow (c : Fin 64) (e : Bool) (vd vs gs : BitVec 5) (m : Bool) (s : State) :
    Host.Outcome State Fault Refusal :=
  let w := vopWord e 0x0A true vd vs gs m
  let k := s.core c
  .next (s.issue c w (k.vecGuard w true (k.vnarrow vd vs gs m)))

/-- A shift by the low log2(w) bits of gs or of the elements of vb (Table 5-4); f takes the width, the element and the
amount. -/
def Core.vshift (y : Core) (vd va : BitVec 5) (x : Bool) (b : BitVec 5) (m : Bool) (f : Nat → Nat → Nat → Int) : OpEff :=
  let w := y.ew
  let src := (y.v va).t ||| (if x then tagAll (y.g b).p else (y.v b).t)
  y.vecMap vd m src fun i =>
    let d := if x then (y.g b).v.toNat % w else elemN (y.v b).v w i % w
    wrapped (f w (elemN (y.v va).v w i) d)

/-- VSHRR (Table 5-4). -/
def execVshrr (c : Fin 64) (e : Bool) (vd va : BitVec 5) (x : Bool) (b : BitVec 5) (m : Bool) (s : State) :
    Host.Outcome State Fault Refusal :=
  let w := vopWord e 0x0B x vd va b m
  let k := s.core c
  .next (s.issue c w (k.vecGuard w false (k.vshift vd va x b m fun w n d => roundShift k.vxrm (signedN w n) d)))

/-- VSHL (Table 5-4). -/
def execVshl (c : Fin 64) (e : Bool) (vd va : BitVec 5) (x : Bool) (b : BitVec 5) (m : Bool) (s : State) :
    Host.Outcome State Fault Refusal :=
  let w := vopWord e 0x0C x vd va b m
  let k := s.core c
  .next (s.issue c w (k.vecGuard w false (k.vshift vd va x b m fun _ n d => (n * 2 ^ d : Nat))))

/-- VSHR (Table 5-4). -/
def execVshr (c : Fin 64) (e : Bool) (vd va : BitVec 5) (x : Bool) (b : BitVec 5) (m : Bool) (s : State) :
    Host.Outcome State Fault Refusal :=
  let w := vopWord e 0x0D x vd va b m
  let k := s.core c
  .next (s.issue c w (k.vecGuard w false (k.vshift vd va x b m fun _ n d => (n / 2 ^ d : Nat))))

/-- VSHRA (Table 5-4). -/
def execVshra (c : Fin 64) (e : Bool) (vd va : BitVec 5) (x : Bool) (b : BitVec 5) (m : Bool) (s : State) :
    Host.Outcome State Fault Refusal :=
  let w := vopWord e 0x0E x vd va b m
  let k := s.core c
  .next (s.issue c w (k.vecGuard w false (k.vshift vd va x b m fun w n d => signedN w n / 2 ^ d)))

/-- A bitwise operation. -/
def Core.vbit (x : Core) (vd va vb : BitVec 5) (m : Bool) (f : Nat → Nat → Nat) : OpEff :=
  x.vecMap vd m ((x.v va).t ||| (x.v vb).t) fun i =>
    wrapped (f (elemN (x.v va).v x.ew i) (elemN (x.v vb).v x.ew i) : Nat)

/-- VAND (Table 5-4). -/
def execVand (c : Fin 64) (e : Bool) (vd va vb : BitVec 5) (m : Bool) (s : State) :
    Host.Outcome State Fault Refusal :=
  let w := vopWord e 0x0F false vd va vb m
  let k := s.core c
  .next (s.issue c w (k.vecGuard w false (k.vbit vd va vb m (· &&& ·))))

/-- VOR (Table 5-4). -/
def execVor (c : Fin 64) (e : Bool) (vd va vb : BitVec 5) (m : Bool) (s : State) :
    Host.Outcome State Fault Refusal :=
  let w := vopWord e 0x10 false vd va vb m
  let k := s.core c
  .next (s.issue c w (k.vecGuard w false (k.vbit vd va vb m (· ||| ·))))

/-- VXOR (Table 5-4). -/
def execVxor (c : Fin 64) (e : Bool) (vd va vb : BitVec 5) (m : Bool) (s : State) :
    Host.Outcome State Fault Refusal :=
  let w := vopWord e 0x11 false vd va vb m
  let k := s.core c
  .next (s.issue c w (k.vecGuard w false (k.vbit vd va vb m (· ^^^ ·))))

/-- VMIN (Table 5-4). -/
def execVmin (c : Fin 64) (e : Bool) (vd va vb : BitVec 5) (m : Bool) (s : State) :
    Host.Outcome State Fault Refusal :=
  let w := vopWord e 0x12 false vd va vb m
  let k := s.core c
  .next (s.issue c w (k.vecGuard w false (k.vec2 vd va vb m fun a b => wrapped (min a b))))

/-- VMAX (Table 5-4). -/
def execVmax (c : Fin 64) (e : Bool) (vd va vb : BitVec 5) (m : Bool) (s : State) :
    Host.Outcome State Fault Refusal :=
  let w := vopWord e 0x13 false vd va vb m
  let k := s.core c
  .next (s.issue c w (k.vecGuard w false (k.vec2 vd va vb m fun a b => wrapped (max a b))))

/-- A compare (Table 5-4): bit i of vd receives the comparison of the elements i, and the tags of every lane compared count
in lane 0 (R121). -/
def Core.vcmp (x : Core) (vd va vb : BitVec 5) (m : Bool) (f : Int → Int → Bool) : OpEff :=
  let w := x.ew
  let src := (x.v va).t ||| (x.v vb).t
  let acts := x.actives 0 m
  let tag := x.maskPoison m || acts.any fun i => src.getLsbD (w * i / 32)
  let r := acts.foldl (fun (a : VRes) i =>
    a.put 1 i (b2n (f (elemZ (x.v va).v w i) (elemZ (x.v vb).v w i))) tag) VRes.empty
  vecOut [(vd.toNat, r)] false

/-- VCMPEQ (Table 5-4). -/
def execVcmpeq (c : Fin 64) (e : Bool) (vd va vb : BitVec 5) (m : Bool) (s : State) :
    Host.Outcome State Fault Refusal :=
  let w := vopWord e 0x14 false vd va vb m
  let k := s.core c
  .next (s.issue c w (k.vecGuard w false (k.vcmp vd va vb m fun a b => a == b)))

/-- VCMPLT (Table 5-4). -/
def execVcmplt (c : Fin 64) (e : Bool) (vd va vb : BitVec 5) (m : Bool) (s : State) :
    Host.Outcome State Fault Refusal :=
  let w := vopWord e 0x15 false vd va vb m
  let k := s.core c
  .next (s.issue c w (k.vecGuard w false (k.vcmp vd va vb m fun a b => decide (a < b))))

/-- VCMPLE (Table 5-4). -/
def execVcmple (c : Fin 64) (e : Bool) (vd va vb : BitVec 5) (m : Bool) (s : State) :
    Host.Outcome State Fault Refusal :=
  let w := vopWord e 0x16 false vd va vb m
  let k := s.core c
  .next (s.issue c w (k.vecGuard w false (k.vcmp vd va vb m fun a b => decide (a ≤ b))))

/-- VSEL's effect (Table 5-4): v0 selects, and its lane 0 counts as a source of every lane (log 30). -/
def Core.vsel (x : Core) (vd va vb : BitVec 5) : OpEff :=
  x.vecMap vd false ((x.v va).t ||| (x.v vb).t ||| tagAll ((x.v 0).t.getLsbD 0)) fun i =>
    wrapped (elemN (if (x.v 0).v.getLsbD i then (x.v vb).v else (x.v va).v) x.ew i : Nat)

/-- VSEL (Table 5-4). -/
def execVsel (c : Fin 64) (e : Bool) (vd va vb : BitVec 5) (m : Bool) (s : State) :
    Host.Outcome State Fault Refusal :=
  let w := vopWord e 0x17 false vd va vb m
  let k := s.core c
  .next (s.issue c w (k.vecGuard w false (k.vsel vd va vb)))

/-- VSPLAT (Table 5-4). -/
def execVsplat (c : Fin 64) (e : Bool) (vd gs : BitVec 5) (m : Bool) (s : State) :
    Host.Outcome State Fault Refusal :=
  let w := vopWord e 0x18 true vd 0 gs m
  let k := s.core c
  .next (s.issue c w (k.vecGuard w false (k.vecMap vd m (tagAll (k.g gs).p) fun _ => wrapped (k.g gs).v.toNat)))

/-- VINS0's effect: element 0 only. -/
def Core.vins0 (x : Core) (vd gs : BitVec 5) (m : Bool) : OpEff :=
  if (x.actives 0 m).contains 0 then
    vecOut [(vd.toNat, VRes.empty.put x.ew 0 (x.g gs).v.toNat ((x.g gs).p || x.maskPoison m))] false
  else OpEff.nil

/-- VINS0 (Table 5-4). -/
def execVins0 (c : Fin 64) (e : Bool) (vd gs : BitVec 5) (m : Bool) (s : State) :
    Host.Outcome State Fault Refusal :=
  let w := vopWord e 0x19 true vd 0 gs m
  let k := s.core c
  .next (s.issue c w (k.vecGuard w false (k.vins0 vd gs m)))

/-- VEXT0's effect: a general register receives element 0, sign-extended. -/
def Core.vext0 (x : Core) (gd vs : BitVec 5) (m : Bool) : OpEff :=
  if (x.actives 0 m).contains 0 then
    { OpEff.nil with late := [.g gd.toNat ⟨BitVec.ofInt 32 (elemZ (x.v vs).v x.ew 0), (x.v vs).t.getLsbD 0 || x.maskPoison m⟩] }
  else OpEff.nil

/-- VEXT0 (Table 5-4). -/
def execVext0 (c : Fin 64) (e : Bool) (gd vs : BitVec 5) (m : Bool) (s : State) :
    Host.Outcome State Fault Refusal :=
  let w := vopWord e 0x1A false gd vs 0 m
  let k := s.core c
  .next (s.issue c w (k.vecGuard w false (k.vext0 gd vs m)))

/-- A move by one element with gs entering at index `at` (Table 5-4); src gives the element that index i takes. -/
def Core.vmove (x : Core) (vd vs gs : BitVec 5) (m : Bool) (enter : Nat) (src : Nat → Nat) : OpEff :=
  let w := x.ew
  let mp := x.maskPoison m
  let r := (x.actives 0 m).foldl (fun (a : VRes) i =>
    if i = enter then a.put w i (x.g gs).v.toNat (mp || (x.g gs).p)
    else a.put w i (elemN (x.v vs).v w (src i)) (mp || (x.v vs).t.getLsbD (w * src i / 32))) VRes.empty
  vecOut [(vd.toNat, r)] false

/-- VMOVUP (Table 5-4). -/
def execVmovup (c : Fin 64) (e : Bool) (vd vs gs : BitVec 5) (m : Bool) (s : State) :
    Host.Outcome State Fault Refusal :=
  let w := vopWord e 0x1B true vd vs gs m
  let k := s.core c
  .next (s.issue c w (k.vecGuard w false (k.vmove vd vs gs m 0 fun i => i - 1)))

/-- VMOVDN (Table 5-4). -/
def execVmovdn (c : Fin 64) (e : Bool) (vd vs gs : BitVec 5) (m : Bool) (s : State) :
    Host.Outcome State Fault Refusal :=
  let w := vopWord e 0x1C true vd vs gs m
  let k := s.core c
  .next (s.issue c w (k.vecGuard w false (k.vmove vd vs gs m (k.vl - 1) fun i => i + 1)))

/-- VSUMW's effect (Table 5-4): the sum in bits [31:0] of vd, which saturates at 32 bits. -/
def Core.vsumw (x : Core) (vd vs vc : BitVec 5) (m : Bool) : OpEff :=
  let w := x.ew
  let acts := x.actives 0 m
  if acts.isEmpty then OpEff.nil else
  let z := acts.foldl (fun a i => a + elemZ (x.v vs).v w i) (elemZ (x.v vc).v 32 0)
  let tag := x.maskPoison m || (x.v vc).t.getLsbD 0 || acts.any fun i => (x.v vs).t.getLsbD (w * i / 32)
  vecOut [(vd.toNat, VRes.empty.put 32 0 (wrapN 32 (satS 32 z)) tag)] (satS 32 z != z)

/-- VSUMW (Table 5-4). -/
def execVsumw (c : Fin 64) (e : Bool) (vd vs vc : BitVec 5) (m : Bool) (s : State) :
    Host.Outcome State Fault Refusal :=
  let w := vopWord e 0x1D false vd vs vc m
  let k := s.core c
  .next (s.issue c w (k.vecGuard w true (k.vsumw vd vs vc m)))

/-- The check of one element of a vector access (R118): poisoned address part, or the refusal of the ridge's check. -/
inductive ElemFault where
  | poison
  | refused (kind : Nat)
  deriving DecidableEq, Repr

/-- The lowest active element that fails and why (R118, R122), of two causes the one with the lower ECAUSE (R79); bad: elements
whose address is poisoned. -/
def State.elemFault (s : State) (c : Nat) (write : Bool) (acts : List Nat) (size : Nat) (addr : Nat → Word) (bad : Nat → Bool) :
    Option (Nat × ElemFault) :=
  acts.findSome? fun i =>
    match s.reach c write (addr i).toNat size true with
    | .refused k => some (i, .refused k)
    | _ => if bad i then some (i, .poison) else none

/-- The trap of a failing element (R118, R122) over the effect of the elements before it. -/
def OpEff.withFault (o : OpEff) (word : Word) (write : Bool) (addr : Nat → Word) : Option (Nat × ElemFault) → OpEff
  | none => o
  | some (i, .poison) => { o with trap := some (0x86, word), vstart := some i }
  | some (i, .refused k) => { o with trap := some (0x85, addr i), refused := some (k, write, addr i), vstart := some i }

/-- Bytes of a vector register with the tags of their lanes. -/
def VReg.bytes (r : VReg) (off n : Nat) : List PByte :=
  (List.range n).map fun i => (BitVec.ofNat 8 (r.v.toNat / 256 ^ (off + i)), r.t.getLsbD ((off + i) / 4))

/-- Bytes read into a vector register at a byte offset: the landing, with the tag of each lane that a tagged byte reaches. -/
def vecLoadWb (vd off : Nat) (b : List PByte) (keep : List Bool) : Wb :=
  let r := (List.range b.length).foldl (fun (a : VRes) i =>
    if keep.isEmpty || keep[i]? == some true then a.put 8 (off + i) (at_ b i (0, false)).1.toNat (at_ b i (0, false)).2 else a)
    VRes.empty
  .vec vd r.mask r.v r.tags

/-- One element of a vector access that the check lets through, at a byte offset of the register (R114 to R117). -/
def State.elemEff (s : State) (c : Nat) (write : Bool) (vd : BitVec 5) (size i : Nat) (a : Word) : Elem :=
  let x := s.core c
  let data := (x.v vd).bytes (i * size) size
  let none_ : Elem := { idx := i, units := 1, wbs := [], reads := [], accs := [], stores := [], reqs := [], parts := [] }
  let out_ : Elem := { none_ with out := true }
  match s.reach c write a.toNat size true with
  | .own pm off =>
    let units := if isSplit off size || pm || (write && decide (size < 4)) then 2 else 1
    if write then
      { none_ with units := units, accs := [(pm, off, true)], stores := [{ pm := pm, off := off, data := data, narrow := false }] }
    else
      let (b, ws) := s.ownRead c pm off size
      { none_ with units := units, accs := [(pm, off, false)], reads := ws, wbs := [vecLoadWb vd.toNat (i * size) b []] }
  | .remote =>
    if write then { out_ with reqs := [{ write := true, addr := a, size := size, data := data }] }
    else
      let q : Req := { write := false, addr := a, size := size, data := [] }
      { out_ with reqs := [q], parts := [{ req := q, rd := vd.toNat, isVec := true, bit := i * size * 8, signed := false, keep := [] }] }
  | .refused _ => none_

/-- POISON_USE of a poisoned pointer or mask, which applies at the start index (R122), or ACCESS_ERROR where the check refuses
the element there too (R79). -/
def State.startFault (s : State) (c : Nat) (word : Word) (write : Bool) (acts : List Nat) (size : Nat) (addr : Nat → Word)
    (start : Nat) : OpEff :=
  match s.elemFault c write (acts.filter (· == start)) size addr fun _ => true with
  | some (i, .refused k) => { OpEff.nil with trap := some (0x85, addr i), refused := some (k, write, addr i), vstart := some i }
  | _ => { OpEff.poisonUse word with vstart := some start }

/-- A strided or indexed access (R114, R115, R118, R119): it starts at VSTART, and VSTART is 0 when it completes. DESIGN CHOICE
(log 39): so it is with no active element (R110), and a poisoned pointer or mask is POISON_USE there too (R122). -/
def State.scatterEff (s : State) (c : Nat) (word : Word) (write : Bool) (vd : BitVec 5) (m : Bool) (addr : Nat → Word)
    (bad : Nat → Bool) (badAll : Bool) : OpEff :=
  let x := s.core c
  if x.vinv then OpEff.illegal word else
  let size := x.ew / 8
  let acts := x.actives x.vstart m
  if badAll || x.maskPoison m then s.startFault c word write acts size addr x.vstart else
  let f := s.elemFault c write acts size addr bad
  let stop := match f with
    | some (i, _) => i
    | none => x.vl
  let es : List Elem := ((List.range stop).filter fun i => decide (x.vstart ≤ i)).map fun i =>
    if acts.contains i then s.elemEff c write vd size i (addr i)
    else { idx := i, units := 1, wbs := [], reads := [], accs := [], stores := [], reqs := [], parts := [] }
  OpEff.withFault { OpEff.nil with elems := es, early := [.creg 0x22 0] } word write addr f

/-- Stall of a unit-stride access to the core's own memories (Table 5-7) over the bytes at these offsets. DESIGN CHOICE (log 39):
of a masked access they are its active bytes, so words and doublewords that only inactive elements touch do not count. -/
def Core.unitStall (x : Core) (pm write : Bool) (offs : List Nat) : Nat :=
  let words := (offs.map (· / 4)).eraseDups
  let partly := words.any fun w => (offs.filter fun o => o / 4 == w).length != 4
  let held := words.any fun w => x.merge.any (fun m => m.word == w) || (x.evicted.map (·.word)) == some w
  if pm then (if (offs.map (· / 8)).eraseDups.length ≤ 4 then 1 else 2)
  else if decide (8 < words.length) || (write && (partly || held)) then 1 else 0

/-- The requests of a unit-stride access outside PM and DM: one for each 32-byte block that an active byte touches (R117). -/
def unitReqs (write : Bool) (a : Word) (n : Nat) (on : Nat → Bool) (data : List PByte) : List (Nat × Req × List Bool) :=
  let blocks := ((List.range n).filter on).map (fun i => (a.toNat + i) / 32) |>.eraseDups
  blocks.filterMap fun b =>
    let idx := (List.range n).filter fun i => on i && (a.toNat + i) / 32 == b
    match idx.head?, idx.getLast? with
    | some lo, some hi =>
      let len := hi + 1 - lo
      let keep := (List.range len).map fun i => on (lo + i)
      some (lo, { write := write, addr := a + BitVec.ofNat 32 lo, size := len,
                  data := if write then (data.drop lo).take len else [], mask := keep }, keep)
    | _, _ => none

/-- A unit-stride access (R114 to R118); with no active element it writes nothing, its pointer included (R109). DESIGN CHOICE
(log 39): a poisoned pointer or mask is POISON_USE even with no active element (R122). -/
def State.unitEff (s : State) (c : Nat) (word : Word) (write : Bool) (vd : BitVec 5) (pk : BitVec 3) (mode : VecMode)
    (m : Bool) : OpEff :=
  let x := s.core c
  if x.vinv then OpEff.illegal word else
  let size := x.ew / 8
  let p := x.ptr pk.toNat
  let addr (i : Nat) : Word := p.v + BitVec.ofNat 32 (i * size)
  let acts := x.actives 0 m
  if p.p || x.maskPoison m then s.startFault c word write acts size addr 0 else
  if acts.isEmpty then OpEff.nil else
  let f := s.elemFault c write acts size addr fun _ => false
  let served := match f with
    | some (i, _) => acts.filter fun k => decide (k < i)
    | none => acts
  let on (i : Nat) : Bool := served.contains (i / size)
  let n := x.vl * size
  let early : List Wb := match mode with
    | .base => []
    | .postMod i => wbPtr pk (x.update pk (.postMod i) 0)
    | .postImm o => wbPtr pk (x.update pk (.postImm o) 0)
    | .postVl => [Wb.pf pk.toNat ⟨p.v + BitVec.ofNat 32 n, p.p⟩]
  let base : OpEff := { OpEff.nil with early := early }
  let data := (x.v vd).bytes 0 n
  let mask := (List.range n).map on
  let o : OpEff := match served with
    | [] => base
    | k :: _ => match s.reach c write (addr k).toNat size true with
      | .own pm off0 =>
        let at0 (i : Nat) : Nat := off0 + i - k * size
        let stall := x.unitStall pm write (((List.range n).filter on).map at0)
        let runs : List (Nat × List PByte) := byteRuns data mask
        if write then
          let sts : List MStore := runs.mapIdx fun j r =>
            { pm := pm, off := at0 r.1, data := r.2, narrow := false, more := decide (j + 1 < runs.length) }
          { base with stores := sts, accs := [(pm, at0 (k * size), true)], stall := stall }
        else
          let got : List (Nat × List PByte × List (Nat × Nat)) := runs.map fun r => (r.1, s.ownRead c pm (at0 r.1) r.2.length)
          let bytes : List PByte := (List.range n).map fun i =>
            match got.find? fun g => decide (g.1 ≤ i ∧ i < g.1 + g.2.1.length) with
            | some g => at_ g.2.1 (i - g.1) (0, false)
            | none => (0, false)
          let ws : List (Nat × Nat) := got.flatMap fun g => g.2.2
          { base with late := [vecLoadWb vd.toNat 0 bytes mask], accs := [(pm, at0 (k * size), false)], stall := stall
                      reads := ws.eraseDups }
      | _ =>
        let rs : List (Nat × Req × List Bool) := unitReqs write p.v n on data
        let parts : List RPart := if write then [] else rs.map fun r =>
          { req := r.2.1, rd := vd.toNat, isVec := true, bit := r.1 * 8, signed := false, keep := r.2.2 }
        if f.isNone then { base with reqs := rs.map fun r => r.2.1, parts := parts }
        else
          -- the requests before a faulting element are served, those of a store together, and then the trap is taken (R118)
          let group : List (List Req) := if write then [rs.map fun r => r.2.1] else rs.map fun r => [r.2.1]
          { base with elems := group.map fun l =>
              { idx := k / size, units := 1, out := true, wbs := [], reads := [], accs := [], stores := [], reqs := l
                parts := parts.filter fun p => l.contains p.req } }
  o.withFault word write addr f

/-- VLD (Table 5-6). -/
def execVld (c : Fin 64) (e : Bool) (vd : BitVec 5) (pk : BitVec 3) (mode : VecMode) (m : Bool) (s : State) :
    Host.Outcome State Fault Refusal :=
  let w := vlsWord e false vd pk mode m
  .next (s.issue c w (s.unitEff c w false vd pk mode m))

/-- VST (Table 5-6). -/
def execVst (c : Fin 64) (e : Bool) (vs : BitVec 5) (pk : BitVec 3) (mode : VecMode) (m : Bool) (s : State) :
    Host.Outcome State Fault Refusal :=
  let w := vlsWord e true vs pk mode m
  .next (s.issue c w (s.unitEff c w true vs pk mode m))

/-- A strided access: element i lies at pk + i × gs (Table 5-6). -/
def State.stridedEff (s : State) (c : Nat) (word : Word) (write : Bool) (vd : BitVec 5) (pk : BitVec 3) (gs : BitVec 5)
    (m : Bool) : OpEff :=
  let x := s.core c
  let p := x.ptr pk.toNat
  s.scatterEff c word write vd m (fun i => p.v + BitVec.ofNat 32 i * (x.g gs).v) (fun _ => false) (p.p || (x.g gs).p)

/-- An indexed access: element i lies at pk + vx[i] (Table 5-6); a poisoned index faults at its element (R122). -/
def State.indexedEff (s : State) (c : Nat) (word : Word) (write : Bool) (vd : BitVec 5) (pk : BitVec 3) (vx : BitVec 5)
    (m : Bool) : OpEff :=
  let x := s.core c
  let p := x.ptr pk.toNat
  s.scatterEff c word write vd m (fun i => p.v + BitVec.ofNat 32 (elemN (x.v vx).v x.ew i))
    (fun i => (x.v vx).t.getLsbD (x.ew * i / 32)) p.p

/-- VLDS (Table 5-6). -/
def execVlds (c : Fin 64) (e : Bool) (vd : BitVec 5) (pk : BitVec 3) (gs : BitVec 5) (m : Bool) (s : State) :
    Host.Outcome State Fault Refusal :=
  let w := vlxWord e false false vd pk gs m
  .next (s.issue c w (s.stridedEff c w false vd pk gs m))

/-- VSTS (Table 5-6). -/
def execVsts (c : Fin 64) (e : Bool) (vs : BitVec 5) (pk : BitVec 3) (gs : BitVec 5) (m : Bool) (s : State) :
    Host.Outcome State Fault Refusal :=
  let w := vlxWord e true false vs pk gs m
  .next (s.issue c w (s.stridedEff c w true vs pk gs m))

/-- VLDX (Table 5-6). -/
def execVldx (c : Fin 64) (e : Bool) (vd : BitVec 5) (pk : BitVec 3) (vx : BitVec 5) (m : Bool) (s : State) :
    Host.Outcome State Fault Refusal :=
  let w := vlxWord e false true vd pk vx m
  .next (s.issue c w (s.indexedEff c w false vd pk vx m))

/-- VSTX (Table 5-6). -/
def execVstx (c : Fin 64) (e : Bool) (vs : BitVec 5) (pk : BitVec 3) (vx : BitVec 5) (m : Bool) (s : State) :
    Host.Outcome State Fault Refusal :=
  let w := vlxWord e true true vs pk vx m
  .next (s.issue c w (s.indexedEff c w true vs pk vx m))

end Sys2Proof.Machine
end

