-- ==== Sys2Proof/Machine/CoreEvents.lean ====
section
/-!
DEFINITION. The events of a core that no operation raises: entries, responses, posted stores, the end-of-body test and the
merge buffer (chapter 03, R57, R58, R63, R71 to R79, R100, R101).
-/

namespace Sys2Proof.Machine

/-- A held bundle is tried again (R48): the bundle of no effect of a LOOP with count zero passes X (R62). -/
def State.retry (s : State) (c : Nat) : State :=
  let x := s.core c
  if x.held then (if x.skip.isSome then s.passSkip c else (s.updCore c fun x => { x with held := false }).closeBundle c) else s

/-- The held bundles of a ridge are tried again. -/
def State.retryAll (s : State) (r : Nat) : State := (s.runners r).foldl State.retry s

/-- The trap that the words in F raise (R50, R126 to R128): the trusted words are judged, then a poisoned one. -/
def fetchTrap (pc : Word) (ws : List TW) : Option (Nat × Word) :=
  let bad := ws.find? (·.p)
  let ok := ws.filter fun w => !w.p
  let slots := ok.foldl (fun (a : List Nat) w => a ++ [nextSlot a.getLast? (wordClass w.v)]) ([] : List Nat)
  let ended := (ok.getLast?.map fun w => w.v.getLsbD 31).getD false
  let illegal := slots.contains 6 || (bad.isNone && !ended)
  if 0x18000 ≤ pc.toNat then some (0x84, pc)
  else if illegal then some (0x81, ((ws.head?).map (·.v)).getD 0)
  else match ok.find? fun w => undefWord w.v with
    | some w => some (0x82, w.v)
    | none => bad.map fun w => (0x86, w.v)

/-- TRAP_ENTRY (R58, R78): the ACCESS_ERROR that waits at the boundary, else the trap of the bundle that F holds. Nothing where
the core is inside a bundle or no trap is due; a trap that an operation of the stream raises is entered with that operation. -/
def execTrapEntry (c : Fin 64) (s : State) : Host.Outcome State Fault Refusal :=
  let x := s.core c
  if !s.executes c || x.held || !x.open_.isEmpty || !x.wait.isEmpty then .next s else
  match x.aerr with
  | some a => .next ((s.updCore c fun x => { x with aerr := none }).enter c 0x85 a none false)
  | none =>
    match fetchTrap x.pc x.fetched with
    | some (cause, ev) => .next (s.enter c cause ev none false)
    | none => .next s

/-- The interrupt that a ridge recognises (R71): ECAUSE, the level of a maskable source, and whether it is the NMI. -/
def State.recognised (s : State) (r : Nat) : Option (Nat × Option Nat × Bool) :=
  let x := s.ridge r
  match s.lead r with
  | none => none
  | some c =>
    let psw := (s.core c).psw
    if x.nmiPend && !psw.getLsbD 5 then some (0x40, none, true)
    else if psw.getLsbD 0 then (x.winner (pswPri psw)).map fun n => (n, some (x.level n), false)
    else none

/-- The winning source is consumed (R69, R70, R436). -/
def Ridge.consume (x : Ridge) (cause : Nat) (nmi : Bool) : Ridge :=
  if nmi then { x with nmiPend := false }
  else if cause < 16 then { x with taskCnt := Tbl.set x.taskCnt cause (Tbl.get 0 x.taskCnt cause - 1) }
  else { x with icuPend := x.icuPend &&& ~~~(1#64 <<< cause) }

/-- The elements of a strided or indexed access that are finished at entry cycle 0, and the index of the first that is not
(R119). half: half cycles of the bundle that have passed; p: those used so far; reached: the bundle is held at an element
outside PM and DM. What comes before a served one of those, or before the one that holds the bundle, is finished. -/
def elemsDone (half : Nat) (reached : Bool) : Nat → List Elem → List Elem × Option Nat
  | _, [] => ([], none)
  | p, e :: t =>
    let past := (e :: t).any fun k => k.out && k.reqs.isEmpty
    if e.reqs.isEmpty && (decide (e.ends p ≤ half) || past || (reached && t.any fun k => !k.reqs.isEmpty)) then
      let r := elemsDone half reached (e.ends p) t
      (e :: r.1, r.2)
    else ([], some e.idx)

/-- The operation is a strided or indexed access (class VLX, R114): only such a one can stop part-done (R110). -/
def OpEff.strided (o : OpEff) : Bool := wordClass o.word == 0x1B && !o.elems.isEmpty

/-- The bundle in X of a core is abandoned after n cycles (R74, R110, R115, R119): multi-cycle stores complete, and a strided or
indexed access keeps its finished elements; beside one, a store of L1 to DM would have come in the last cycle. A load that waits
is not finished, and its response is discarded; a unit-stride access is abandoned whole. DESIGN CHOICE (log 39): where every element is finished, VSTART
receives the index after the last modulo 32. -/
def State.abandon (s : State) (c n : Nat) : State :=
  let x := s.core c
  let l1 := x.open_.any fun k => k.slot == 1 && k.accs.any fun a => !a.1 && !a.2.2
  let multi := x.open_.any OpEff.strided
  let gone := (match x.remote with
    | some e => if x.eSent then e.reqs else []
    | none => []) ++ x.open_.flatMap fun o => (o.parts.map (·.req)).filter x.notYet
  let s := s.updCore c fun x => { x.landDue with eDrop := x.eDrop ++ gone, eSent := false }
  (s.forEach x.open_ fun s o =>
    if !o.strided then
      (if n = 0 ∨ o.stall = 0 then (s, []) else s.applyStores c (o.stores.filter fun t => t.pm || !multi))
    else
      let (es, stop) := elemsDone (2 * n) x.held (b2n l1) o.elems
      let f := OpEff.flat { OpEff.nil with slot := o.slot } es
      let outs := s.outcomes f.reads
      let s := s.updCore c fun x =>
        { x with late := x.late ++ f.late
                 vstart := stop.getD ((o.elems.getLast?.map (·.idx + 1)).getD x.vstart % 32) }
      WithReads.andThen (s, outs) fun s => s.applyStores c f.stores).told

/-- The recognised source is consumed and every core of a ridge enters (R71 to R76), its bundle in X abandoned after n cycles. -/
def State.enterAll (s : State) (r n : Nat) (i : Nat × Option Nat × Bool) : State :=
  let s := s.updRidge r fun x => x.consume i.1 i.2.2
  (s.runners r).foldl (fun s c => (s.abandon c n).enter c i.1 0 i.2.1 i.2.2) s

/-- INTERRUPT_ENTRY (R71 to R76): the recognised source is consumed and every member enters. n: X cycles of the bundle in X that
have passed, entry cycle 0 included. Nothing where no source is recognised, while a remote load or an ACCESS_ERROR is awaited,
or inside a bundle of a simplex ridge. -/
def execInterruptEntry (r : Fin 64) (n : Nat) (s : State) : Host.Outcome State Fault Refusal :=
  let x := s.ridge r
  let cs := s.runners r
  let waits := cs.any fun c => !(s.core c).wait.isEmpty || ((s.core c).open_.isEmpty && (s.core c).aerr.isSome)
  let inside := x.kind == 1 && cs.any fun c => !(s.core c).open_.isEmpty
  if !x.running || waits || inside then .next s else
  match s.recognised r with
  | none => .next s
  | some i => .next (s.enterAll r n i)

/-- The landing of a part of a remote load (R57, R117): zero where the response is an error. -/
def RPart.wbs (p : RPart) (b : List PByte) : List Wb :=
  if p.isVec then [vecLoadWb p.rd (p.bit / 8) b p.keep] else loadWbs p.rd p.req.size p.signed b

/-- The results of a bundle with those of one part of its remote load in their place; the parts of a vector load join (R121). -/
def placeResult (l : List Wb) (p : RPart) (b : List PByte) : List Wb :=
  match p.wbs b, l[p.pos]? with
  | [.vec i m v t], some (.vec _ m' v' t') => setAt l p.pos (.vec i (m ||| m') ((v' &&& ~~~m) ||| (v &&& m)) (t ||| t'))
  | w, _ => replaceAt l p.pos w

/-- A response reaches a core (R57, R117, R119): the result takes its place, and an error waits as ACCESS_ERROR before the next
bundle, which is given up. That of an element gives the element its value, zero with an error. One that belongs to an element
of an abandoned bundle is discarded. -/
def Core.takeResponse (x : Core) (l : LoadReq) : Core :=
  let bytes (p : RPart) : List PByte := if l.err.isSome then List.replicate p.req.size (0, false) else l.data
  let err := if l.err.isSome then x.aerr.or (some l.req.addr) else x.aerr
  if x.eDrop.contains l.req then { x with eDrop := x.eDrop.erase l.req } else
  match x.wait.find? fun p => p.req == l.req with
  | none =>
    match x.remote with
    | some e =>
      match e.parts with
      | p :: _ => if x.eSent && p.req == l.req then { x.serve (p.wbs (bytes p)) with aerr := err } else x
      | [] => x
    | none => x
  | some p =>
    let x := { x with late := placeResult x.late p (bytes p), wait := x.wait.erase p, aerr := err }
    if !x.wait.isEmpty then x else
    let x := { x with aerr := x.aerr.or (x.refusals.map Prod.snd).head?, refusals := [] }
    if x.aerr.isSome then { x with open_ := [], held := false, skip := none } else x

/-- What the cores of a ridge do once a response has released them (R57, R74, R75): with it, a pair or triad that had held its
next bundle enters the interrupt that it recognises, and the held bundle is abandoned; otherwise the held bundles go on. -/
def State.afterLoad (s : State) (r : Nat) (waited : Bool) : State :=
  let cs := s.runners r
  let free := cs.all fun c => (s.core c).wait.isEmpty && (s.core c).aerr.isNone
  match (if waited && free && (s.ridge r).kind != 1 then s.recognised r else none) with
  | some i => s.enterAll r 0 i
  | none => cs.foldl (fun s c => if (s.core c).wait.isEmpty then s.retry c else s) s

/-- REMOTE_LOAD_RESPONSE (R57): the oldest ready response of a ridge reaches the cores in which it runs; that of a load that has
issued before its bundle ends waits for that end. Nothing where none is ready. DESIGN CHOICE (log 39): the error response of a
load element that R119 discards is still recorded in RIDGE_AERR (R46). -/
def execRemoteLoadResponse (r : Fin 64) (s : State) : Host.Outcome State Fault Refusal :=
  match (s.ridge r).loads.find? fun l => l.ready && !((s.runners r).any fun c => (s.core c).notYet l.req) with
  | none => .next s
  | some l =>
    let waited := (s.runners r).any fun c => !(s.core c).wait.isEmpty
    let s := s.updRidge r fun x => { x with loads := x.loads.erase l }
    let s := match l.err with
      | some k => s.recordError r k false l.req.addr
      | none => s
    let s := (s.runners r).foldl (fun s c => s.updCore c fun x => x.takeResponse l) s
    .next (s.afterLoad r waited)

/-- POSTED_STORE_LEAVE (R58): the oldest store of the queue leaves for its target. -/
def execPostedStoreLeave (r : Fin 64) (s : State) : Host.Outcome State Fault Refusal :=
  if (s.ridge r).queue.isEmpty then .next s else .next ((s.storeLeaves r).retryAll r)

/-- POSTED_STORE_RESPONSE (R58): the response to the oldest store on its way arrives; an error is recorded and waits as
ACCESS_ERROR at the next bundle boundary. -/
def execPostedStoreResponse (r : Fin 64) (s : State) : Host.Outcome State Fault Refusal :=
  match (s.ridge r).flying with
  | [] => .next s
  | f :: rest =>
    if !f.ready then .next s else
    let s := s.updRidge r fun x => { x with flying := rest }
    let s := match f.resp with
      | some k => (s.recordError r k true f.req.addr).boundaryError r f.req.addr
      | none => s
    .next (s.retryAll r)

/-- LOOP_END_TEST (R63, R64): F holds the end bundle of the innermost active loop, and the test selects the next fetch. -/
def execLoopEndTest (c : Fin 64) (s : State) : Host.Outcome State Fault Refusal :=
  let x := s.core c
  let t := x.testLoops
  if !s.executes c || x.pend.isSome || t.ld == 0 || at_ t.le (t.ld - 1) 0 != x.pc then .next s else
  let r := Loops.endTest x.pc 4 t
  .next (s.setCore c { x with endSel := some (r.1.getD (x.pc + BitVec.ofNat 32 (4 * x.fetched.length)), r.2) })

/-- The merge buffer of a core drains (R101, R163, R264): a FENCE is held, or its halted ridge drains. -/
def State.drains (s : State) (c : Nat) : Bool :=
  let x := s.core c
  (x.held && x.open_.any (·.fence)) || (x.st == .member && (s.ridge x.ridge).st == .halted && (s.ridge x.ridge).draining)

/-- MERGE_ENTRY_COMPLETION (R100, R264): an evicted entry is completed; else a draining buffer writes its least recently written
entry. -/
def execMergeEntryCompletion (c : Fin 64) (s : State) : Host.Outcome State Fault Refusal :=
  let x := s.core c
  match x.evicted with
  | some _ => .next ((s.completeEvicted c).told.retry c)
  | none =>
    match x.merge with
    | m :: rest =>
      if s.drains c then .next (((s.updCore c fun x => { x with merge := rest }).mergeToDm c m).told.retry c) else .next s
    | [] => .next s

end Sys2Proof.Machine
end

