-- ==== Sys2Proof/Machine/Vote.lean ====
section
/-!
DEFINITION. Membership of a ridge, the vote on the members' records, evictions and removals, and what they do to a col
(chapters 07 and 08).
-/

namespace Sys2Proof.Machine

/-- A core takes a stagger slot of a ridge (R145, R147). -/
def Core.join (x : Core) (st : CoreSt) (r k : Nat) : Core := { x with st := st, ridge := r, slot := k }

/-- The slot shift of a triad whose slot 0 is empty (R173); a pair that a col has left with slot 1 alone shifts alike
(log 29). -/
def State.slotShift (s : State) (r : Nat) : State :=
  let x := s.ridge r
  if 2 ≤ x.kind ∧ x.emptySlot = some 0 ∧ (at_ x.members 1 (false, 0)).1 = true then
    let m (k : Nat) : Bool × Nat := at_ x.members k (false, 0)
    let s := s.setRidge r { x with members := if x.kind = 3 then [m 1, m 2, m 0] else [m 1, m 0, m 2] }
    [m 1, m 2].foldl (fun s e => if e.1 then s.updCore e.2 fun c => { c with slot := c.slot - 1 } else s) s
  else s

/-- Shadow start of a col (R174, R178, R185): nothing of an earlier shadow start stays. DESIGN CHOICE (log 44): PRIO = ON acts as it
stands at shadow start; R178 does not say when a COL_CONFIG that comes during a col acts. -/
def State.shadowStart (s : State) (m : Nat) (k : Col) : State :=
  let s := s.updCore k.newcore fun x => (x.renew .shadow).join .shadow k.ridge k.tslot
  s.updMassif m fun x =>
    { x with col := some { k with phase := 1, prioOn := x.prio == 1, startTick := s.tick, owed := 0, items := 0 }, dmRows := 0, pmRows := 0
             rotAgain := x.rotAgain.filter (· != (k.ridge, k.tslot)) }

/-- A fill col of ridge r with this newcomer starts: the shift if slot 0 is empty, then the empty slot (R171 to R173). -/
def State.fillStart (s : State) (r c : Nat) : State :=
  let s := s.slotShift r
  let x := s.ridge r
  s.shadowStart x.massif
    { phase := 1, prioOn := false, rot := false, tslot := x.emptySlot.getD 0, sslot := (x.valid.head?.map (·.1)).getD 0, ridge := r,
      newcore := c, toTest := false, startTick := s.tick, owed := 0 }

/-- A col restarts as a fill col of its ridge with the same newcomer (R185). -/
def State.restartFill (s : State) (r c : Nat) : State :=
  (s.updMassif (s.ridge r).massif fun x => { x with restarts := satInc 4 x.restarts }).fillStart r c

/-- What the loss of the member in slot k does to a col of its ridge (Table 8-4). -/
def State.colAfterLoss (s : State) (r k : Nat) : State :=
  let m := (s.ridge r).massif
  match (s.massif m).col with
  | none => s
  | some c =>
    if c.ridge ≠ r then s
    else if c.phase ≤ 2 ∨ (c.owed ≠ 0 ∧ k ≠ c.sslot) then s.restartFill r c.newcore
    else if c.owed ≠ 0 then s.dropCol m .quarantined
    else s

/-- Slot k of ridge r loses its core c to QUARANTINED, by eviction or removal (R157, R162). -/
def State.loseMember (s : State) (r k c : Nat) : State :=
  let s := s.updRidge r fun x => { x with degraded := true }
  let s := s.pendFixed r 17
  if (s.core c).st == .member then
    ((s.setSlot r k false c).updCore c fun x => x.renew .quarantined).colAfterLoss r k
  else if s.colOf (massifOf c) r then s.loseNewcomer (massifOf c) else s

/-- RIDGE_VOTE_INFO and RIDGE_VOTE_PC of an eviction (action 1) or a halt (action 2) (R168). DESIGN CHOICE (log 13): where the
records name different PCs or a member has none, the PC is that of the winning record, else that of the lowest slot's. -/
def State.voteInfo (s : State) (r slot action : Nat) (outside : Bool) (pc : Word) : State :=
  s.updRidge r fun x =>
    let x := if action = 1 then { x with evicts := satInc 8 x.evicts } else x
    if x.voteValid then { x with voteCount := satInc 8 x.voteCount }
    else { x with voteValid := true, voteSrc := outside, voteSlot := slot, voteAction := action, voteCount := 0, votePc := pc }

/-- The eviction of the core in a slot as RIDGE_VOTE_INFO and its voter lane's source report it (R157). -/
def State.reportEviction (s : State) (r k c : Nat) (outside : Bool) (pc : Word) : State :=
  (s.voteInfo r k 1 outside pc).fcuCheck (0x20 * c + 0x18) true

/-- The newcomer that goes with the member in slot k (Table 8-4): the col has cut over, and the source still owes records. -/
def State.newcomerOf (s : State) (r k : Nat) : Option Col :=
  match (s.massif (s.ridge r).massif).col with
  | some q => if q.ridge = r ∧ q.phase = 3 ∧ q.owed ≠ 0 ∧ k = q.sslot then some q else none
  | none => none

/-- The member or newcomer c in slot k is evicted (R157), and with a source the newcomer that took its state (Table 8-4). -/
def State.evict (s : State) (r k c : Nat) (outside : Bool) (pc : Word) : State :=
  let new := s.newcomerOf r k
  let lane (c : Nat) : Nat := 0x20 * c + 0x18
  let first := s.fcu.first
  let hit (s : State) (c : Nat) : List Nat := if s.checkHits (lane c) true then [lane c] else []
  let hits := hit s c
  let s := (s.reportEviction r k c outside pc).loseMember r k c
  match new with
  | some q => (s.reportEviction r q.tslot q.newcore outside pc).oneCycle first (hits ++ hit s q.newcore)
  | none => s

/-- A comparison without a majority halts the ridge (R156, R158): n members took part; events: those of the same cycle (R375). -/
def State.voteHalt (s : State) (r n : Nat) (outside : Bool) (pc : Word) (events : State → State) : State :=
  let cause := if (s.ridge r).kind = 2 then 1 else if n = 3 then 2 else 3
  (s.voteInfo r 3 2 outside pc).haltWith r cause events

/-- What more than half of a list agree on. -/
def majority {α : Type} [DecidableEq α] (l : List α) : Option α :=
  l.find? fun x => decide (l.length < 2 * (l.filter fun y => y == x).length)

/-- Slots and cores whose records are compared (R156, R183): once the departing member owes no record, the newcomer's count. -/
def State.voters (s : State) (r : Nat) : List (Nat × Nat) :=
  let x := s.ridge r
  match (s.massif x.massif).col with
  | some k =>
    if k.ridge = r ∧ k.phase = 3 ∧ k.owed = 0 then (x.valid.filter fun m => m.1 != k.tslot) ++ [(k.tslot, k.newcore)] else x.valid
  | none => x.valid

/-- The departing member of a rotation leaves its ridge when it owes no record (R183). -/
def State.depart (s : State) (m : Nat) : State :=
  match (s.massif m).col with
  | some k =>
    if k.phase = 3 ∧ k.owed = 0 ∧ k.rot = true then s.departing k else s
  | none => s

/-- One record fewer is owed by the departing member or the source (R183). -/
def State.payRecord (s : State) (m : Nat) : State :=
  (s.updMassif m fun x => { x with col := x.col.map fun k => { k with owed := k.owed - 1 } }).depart m

/-- The col of massif m completes (R183). -/
def State.completeCol (s : State) (m : Nat) : State :=
  match (s.massif m).col with
  | some k =>
    let s := s.updCore k.newcore fun x => x.join .member k.ridge k.tslot
    let s := s.updMassif m fun x =>
      { x with col := none, colLast := min 0xFFFFFFFF (2 * (s.tick - k.startTick)) }
    let s := s.setSlot k.ridge k.tslot true k.newcore
    let s := if k.rot then s else s.updRidge k.ridge fun x => ({ x with degraded := false } : Ridge).noteEmpty
    s.pendFixed k.ridge 18
  | none => s

/-- The vote on the next record of ridge r's members (R155 to R157, R183): a member that has closed none disagrees with those
that have. -/
def State.vote (s : State) (r : Nat) : State :=
  let x := s.ridge r
  let m := x.massif
  let vs := s.voters r
  let fronts : List (Option Record) := vs.map fun v => (s.core v.2).recs.head?
  match fronts.filterMap id with
  | [] => s
  | first :: _ =>
    let halts : List (Nat × Bool) := if (majority fronts).isSome then [(0x802 + 8 * r, false)] else []
    let s := if x.kind = 1 then s else s.fcuChecks ((vs.map fun v => (0x20 * v.2 + 0x18, false)) ++ halts)
    match majority fronts with
    | none => s.voteHalt r vs.length false first.pc fun s => s
    | some won =>
      let pc := match won with
        | some w => w.pc
        | none => first.pc
      let reqs := match won with
        | some w => w.reqs
        | none => []
      let col : Option Col := (s.massif m).col
      let s : State := (vs.zip fronts).foldl
        (fun (s : State) v => if v.2 == won then s.updCore v.1.2 fun y => { y with recs := y.recs.drop 1 } else s) s
      let s : State := (vs.zip fronts).foldl (fun (s : State) v => if v.2 == won then s else s.evict r v.1.1 v.1.2 false pc) s
      let s : State := match col with
        | some k =>
          if k.ridge ≠ r ∨ k.phase ≠ 3 then s
          else if k.owed ≠ 0 then s.payRecord m
          else if (s.core k.newcore).st == .shadow && won.isSome then s.completeCol m else s
        | none => s
      (s.leave r reqs).launchLoads r

/-- BUNDLE_VOTE (R156). -/
def execBundleVote (r : Fin 64) (s : State) : Host.Outcome State Fault Refusal :=
  if (s.ridge r).running then .next ((s.vote r).retryAll r) else .next s

/-- MEMBER_REMOVAL (R162): Cairn removes a member of a three-member triad that has had an uncorrected-contained event. DESIGN CHOICE
(log 44): R162 names no state of the ridge; the removal from one that is not RUNNING stays due until it runs. -/
def execMemberRemoval (r : Fin 64) (slot : Fin 3) (s : State) : Host.Outcome State Fault Refusal :=
  let x := s.ridge r
  match x.members[slot.val]? with
  | some (true, c) =>
    if x.kind == 3 && x.valid.length == 3 && (s.core c).removeDue && x.running && s.cairnRuns then
      .next ((s.loseMember r slot.val c).retryAll r)
    else .next s
  | _ => .next s

end Sys2Proof.Machine
end

