-- ==== Sys2Proof/Machine/Ridge.lean ====
section
/-!
DEFINITION. Forming, releasing, resetting, restarting and dissolving a ridge, its images, and the clearing of its cores
(chapter 07, R145 to R151, R163 to R166).
-/

namespace Sys2Proof.Machine

/-- Bytes of PM and of DM. -/
def memSize (m : Nat) : Nat := memWords m * wordBytes m

/-- Cairn writes the whole of memory MEM: these bytes, and zero where they do not reach (R148). -/
def State.writeWhole (s : State) (m : Nat) (data : List Byte) : State :=
  let d := data.take (memSize m)
  let s := { s with mem := Memory.clear s.mem (memKey m 0) (memKey m (memSize m))
                    syn := Memory.clear s.syn (synKey m 0) (synKey m (memWords m)) }
  let s := s.loadBytes m 0 d
  if s.ecc.injArm && s.ecc.injMem == m && decide (s.ecc.injWord < memWords m) then s.writeWord m s.ecc.injWord 0 false else s

/-- The image of the slot that ridge r was formed from (R351); an empty slot holds no byte. -/
def State.imageOf (s : State) (r : Nat) : Image :=
  (Tbl.get none s.nvm.images (s.ridge r).image).getD { pm := [], dm := [], digest := 0 }

/-- PM of every member of ridge r is written from its image. -/
def State.loadPm (s : State) (r : Nat) : State :=
  (s.ridge r).valid.foldl (fun s m => s.writeWhole (0x40 + m.2) (s.imageOf r).pm) s

/-- DM of every member of ridge r is written from its image. -/
def State.loadDm (s : State) (r : Nat) : State :=
  (s.ridge r).valid.foldl (fun s m => s.writeWhole m.2 (s.imageOf r).dm) s

/-- Step 3 of R148. -/
def State.loadImage (s : State) (r : Nat) : State := (s.loadPm r).loadDm r

/-- A core starts at an address from reset registers (R149): F fetches its first bundle. -/
def State.startCore (s : State) (c : Nat) (pc : Word) : State :=
  let (ws, rd) := s.fetchPm c pc.toNat
  let outs := s.outcomes rd
  (s.updCore c fun x => { x with pc := pc, fetched := ws, testLoops := x.loops }).eccEvents outs

/-- Ridge r is released (R149, R165, R367). -/
def State.release (s : State) (r : Nat) : State :=
  let s := s.updRidge r fun x => { x with st := .running, outen := false, draining := false }
  let s := s.updWdt r fun w => { w with n := 0, fresh := true, done := 0, miss := false, failed := false, checkins := [] }
  (s.ridge r).valid.foldl (fun s m => s.startCore m.2 ((s.ridge r).start &&& ~~~3#32)) s

/-- The registers of a member at a block reset (R165): its duty and BIST_RESULT stay. -/
def Core.blockReset (x : Core) : Core :=
  { (x.renew x.st).join x.st x.ridge x.slot with testFor := x.testFor, reserve := x.reserve, removeDue := x.removeDue }

/-- The registers of R72 and the NMI pending bit of R436 at reset. -/
def Ridge.resetIcu (x : Ridge) : Ridge :=
  { x with icuEn := 0, icuPend := 0, icuPrio := [], taskCnt := [], tovf := 0, icuRoute := [], nmiPend := false }

/-- Every entry of a merge buffer is written back (R101, R264). -/
def State.flushMerge (s : State) (c : Nat) : State :=
  let s := (s.completeEvicted c).told
  let l := (s.core c).merge
  let s := s.updCore c fun x => { x with merge := [] }
  l.foldl (fun s m => (s.mergeToDm c m).told) s

/-- Error responses that ridge r has not taken are recorded, and nothing of the old run is left on its way (R47, R163). -/
def State.settleStores (s : State) (r : Nat) : State :=
  let l := (s.ridge r).flying
  let s := s.updRidge r fun x => { x with flying := [], loads := [] }
  l.foldl (fun s f => match f.resp with
    | some k => s.recordError r k true f.req.addr
    | none => s) s

/-- The block reset of ridge r (R165, R163): the posted-store queue drains, the loads that have passed their comparison leave, and
the merge buffers are written back first. -/
def State.ridgeReset (s : State) (r : Nat) : State :=
  let s := (s.drainQueue r).settleStores r
  let s := (s.ridge r).valid.foldl (fun s m => (s.flushMerge m.2).updCore m.2 Core.blockReset) s
  s.updRidge r fun x => { x.resetIcu with draining := false }

/-- What ridge r owns returns to no owner; its channels return to reset (R150, R202, R290). -/
def State.disown (s : State) (r : Nat) : State :=
  let gone (o : Option Nat) : Option Nat := if o = some r then none else o
  let bit : BitVec 64 := ~~~(1#64 <<< r)
  let freeQueue (q : Queue) : Queue := if q.owner = some r then { q with owner := none, en := false } else q
  let s := { s with
    chans := s.chans.map fun (e : Nat × Channel) => (e.1, if e.2.owner = some r then Channel.reset else e.2)
    ports := s.ports.map fun (e : Nat × ChPort) => (e.1, { e.2 with owner := gone e.2.owner })
    gps := s.gps.map fun (e : Nat × GpPin) => (e.1, { e.2 with owner := gone e.2.owner })
    caps := s.caps.map fun (e : Nat × CapUnit) => (e.1, if e.2.owner = some r then CapUnit.reset else e.2)
    pages := s.pages.map fun (e : Nat × Option Nat) => (e.1, gone e.2)
    eths := s.eths.map fun (e : Nat × Eth) => (e.1, { e.2 with
      rxq := e.2.rxq.map fun (q : Nat × Queue) => (q.1, freeQueue q.2)
      txq := e.2.txq.map fun (q : Nat × Queue) => (q.1, freeQueue q.2) })
    massifs := s.massifs.map fun (e : Nat × Massif) => (e.1, { e.2 with
      regions := e.2.regions.map fun (g : Nat × Region) => (g.1, { g.2 with rd := g.2.rd &&& bit, wr := g.2.wr &&& bit })
      bankOwn := e.2.bankOwn.map fun (b : Nat × Bool × Nat) => (b.1, if b.2.2 = r then (false, 0) else b.2)
      dma := e.2.dma.map fun (d : Nat × Dma) =>
        (d.1, if d.2.owner = some r then { d.2.stop with owner := none } else d.2) })
    ptp := { s.ptp with owner := gone s.ptp.owner } }
  let s := ((s.doms.filter fun e => e.2.stg.fv && e.2.stg.feeder == r).map (·.1)).foldl (fun s d => s.stageFeeder d none) s
  s.updRing fun x => { x with mbs := x.mbs.map fun (e : Nat × Mbox) =>
    (e.1, if e.2.owner = some r then { e.2 with owner := none, en := false } else e.2) }

/-- Triads of massif m that are not being dissolved (R17). -/
def State.triads (s : State) (m : Nat) : Nat :=
  (s.ridges.filter fun e => e.2.kind == 3 && e.2.massif == m && e.2.st != .free && e.2.st != .dissolving).length

/-- A triad that is not being dissolved has its members in massif m (R17). -/
def State.hasTriad (s : State) (m : Nat) : Bool := s.triads m != 0

/-- The departing core of the latest rotation step is SPARE or FREE again, or has FAILED (R191). -/
def State.rotDone (s : State) (c : Nat) : State :=
  s.updMassif (massifOf c) fun x => if x.rotCore = some c then { x with rotCore := none } else x

/-- A core that is free of duty: SPARE where its massif holds a triad and has none, else FREE (R150). -/
def State.freeCore (s : State) (c : Nat) : State :=
  let m := massifOf c
  let s := s.rotDone c
  let st : CoreSt := if s.hasTriad m && (s.coresIn m .spare).isEmpty then .spare else .free
  s.updCore c fun x => { x.renew st with reserve := x.reserve }

/-- A massif that holds a triad and has no SPARE reserves its lowest FREE core; one without a triad reserves none (R17,
Table 7-1, log 31). -/
def State.fixSpare (s : State) (m : Nat) : State :=
  if s.hasTriad m then
    (if (s.coresIn m .spare).isEmpty then
      match s.coresIn m .free with
      | c :: _ => s.updCore c fun x => { x with st := .spare }
      | [] => s
     else s)
  else (s.coresIn m .spare).foldl (fun s c => s.updCore c fun x => { x with st := .free }) s

/-- The ridge number returns to FREE (R150). -/
def State.freeRidge (s : State) (r : Nat) : State :=
  let m := (s.ridge r).massif
  (s.setRidge r Ridge.reset).fixSpare m

/-- The dissolution goes further than the halt: ownership ends, and the members are cleared (R150, R193). -/
def State.goDissolve (s : State) (r : Nat) : State :=
  let s := s.disown r
  let cs := (s.ridge r).valid.map Prod.snd
  let s := (List.range 64).foldl (fun s c =>
    if (s.core c).st == .test && (s.core c).testFor == some .inPlace && (s.core c).ridge == r
    then s.updCore c fun x => { x with testFor := some .orphan, ridge := 0, slot := 0 } else s) s
  let s := cs.foldl (fun s c => s.updCore c fun x => x.renew .clearing) s
  let s := s.updRidge r fun x =>
    { x with st := .dissolving, outen := false, underTest := 0, clearing := cs
             members := x.members.map fun m => (false, m.2) }
  if cs.isEmpty then s.freeRidge r else s

/-- Dissolution of a ridge is requested (R150): a running ridge halts first, and a halted one is reset first. -/
def State.dissolve (s : State) (r : Nat) : State :=
  let x := s.ridge r
  if x.st == .free || x.st == .dissolving then s else
  let s := s.updRidge r fun x => { x with dissolve := true, priv := false, secure := false, wdt := Wdt.reset }
  if x.st == .running then s.haltRidge r 7
  else if x.draining then s
  else s.goDissolve r

/-- RIDGE_BLOCK_RESET (R163, R165): the halt sequence of ridge r has drained its stores; a dissolution goes on. -/
def execRidgeBlockReset (r : Fin 64) (s : State) : Host.Outcome State Fault Refusal :=
  let x := s.ridge r
  if x.st == .halted && x.draining && x.queue.isEmpty then
    let s := s.ridgeReset r
    .next (if x.dissolve then s.goDissolve r else s)
  else .next s

/-- Cairn's check of PM against the image (R166): the words of every member, and whether any differs. -/
def State.checkPm (s : State) (r : Nat) : Bool × State :=
  let im := (s.imageOf r).pm
  let words := (List.range (memWords 0x40)).map fun w => ofBytesLE ((List.range 8).map fun i => at_ im (8 * w + i) 0)
  (s.ridge r).valid.foldl (fun (a : Bool × State) m =>
    (words.foldl (fun (b : Bool × State × Nat) d =>
      let (v, p, s) := b.2.1.readWord (0x40 + m.2) b.2.2
      (b.1 || p || v != d, s, b.2.2 + 1)) (a.1, a.2, 0) |> fun b => (b.1, b.2.1))) (false, s)

/-- AUTOMATIC_RESTART (R166). -/
def execAutomaticRestart (r : Fin 64) (s : State) : Host.Outcome State Fault Refusal :=
  let x := s.ridge r
  if x.st == .halted && !x.draining && x.restart && decide (x.rstcnt < x.maxrst) && x.haltcause != 7 && !x.dissolve
      && x.underTest == 0 && !x.testFailed && !s.fcu.fatal && s.pwr.st == .run && s.cairnRuns then
    let s := s.updRidge r fun x => { x with st := .restarting, rstcnt := satInc 4 x.rstcnt }
    let (bad, s) := s.checkPm r
    let s := if bad then s.loadPm r else s
    .next ((s.loadDm r).release r)
  else .next s

/-- CORE_CLEARED (R150): the clear of a core ends. The last member of a dissolving ridge frees its number. -/
def execCoreCleared (c : Fin 64) (s : State) : Host.Outcome State Fault Refusal :=
  if (s.core c).st != .clearing then .next s else
  let s := (s.clearCoreMem c).freeCore c
  let waiting := (List.range 64).filter fun r => (s.ridge r).clearing.contains c.val
  .next (waiting.foldl (fun s r =>
    let s := s.updRidge r fun x => { x with clearing := x.clearing.filter fun k => k != c.val }
    if (s.ridge r).clearing.isEmpty then s.freeRidge r else s) s)

end Sys2Proof.Machine
end

