-- ==== Sys2Proof/Machine/Col.lean ====
section
/-!
DEFINITION. The col: background copy, register transfer, cutover; the rotating self-test and the self-test of a core
(chapter 08). The vote's part in a col stands in Machine/Vote.lean.
-/

namespace Sys2Proof.Machine

/-- A running triad, or a pair that a col has left with one member, has an empty slot and needs a fill col (R171, Table 8-4). -/
def State.needsFill (s : State) (r : Nat) : Bool :=
  let x := s.ridge r
  x.running && decide (2 ≤ x.kind) && x.emptySlot.isSome && !x.valid.isEmpty && !s.colOf x.massif r

/-- A core that may become a newcomer for ridge r (R171, R185, R189): SPARE or FREE, and not cleared to serve another ridge that
still needs it. -/
def State.available (s : State) (r c : Nat) : Bool :=
  let x := s.core c
  (x.st == .spare || x.st == .free) && (match x.reserve with
    | none => true
    | some q => q == r || !s.needsFill q)

/-- A running CORE_TEST job of core c has its result. -/
def Job.tested (c : Nat) (j : Job) : Job :=
  if j.work = JobWork.coreTest (BitVec.ofNat 8 c) ∧ j.status = none then { j with status := some 0 } else j

/-- The CORE_TEST job of core c, if one runs, has its result (R192, R357). -/
def State.jobTested (s : State) (c : Nat) : State :=
  s.updCairn fun x => { x with jobs := x.jobs.map (Job.tested c) }

/-- The test of core c stops inside a slice (R187 to R189, R194): how many patterns of an LBIST slice have been applied by then is
a free value below 4,096 (log 21). -/
def State.cutSlice (s : State) (c : Nat) : State :=
  if (s.core c).bSlices = 0 then s else
  let (w, s) := s.draw
  s.updCore c fun x => { x with bPatcnt := x.bPatcnt + w.toNat % 4096 }

/-- A core in TEST is recalled for ridge r: INCOMPLETE, then cleared (R188, R189). -/
def State.recall (s : State) (r c : Nat) : State :=
  ((s.cutSlice c).updCore c fun x => { ({ x with bStatus := 4 } : Core).renew .clearing with reserve := some r }).jobTested c

/-- FILL_COL_START (R171, R173, R185, R189): the newcomer starts to shadow, a core in TEST is recalled, or a rotation col of
another ridge gives way, and its newcomer is cleared to serve this ridge. DESIGN CHOICE (log 44): a core that was FREE before a
CORE_TEST is recalled as one that was SPARE is. -/
def execFillColStart (r newcomer : Fin 64) (s : State) : Host.Outcome State Fault Refusal :=
  let m := (s.ridge r).massif
  let c := newcomer.val
  if !s.needsFill r || massifOf c != m || !s.cairnRuns || s.pwr.st != .run then .next s else
  match (s.massif m).col with
  | some k =>
    if k.rot then
      .next ((s.dropCol m .clearing).updCore k.newcore fun x => { x with reserve := some r.val })
    else .next s
  | none =>
    let tested := (s.core c).st == .test && ((s.core c).testFor == some .rotation || (s.core c).testFor == some .spare)
    if s.available r c then .next ((s.updMassif m fun x => { x with restarts := 0 }).fillStart r c)
    else if tested && s.noSpareIn m then .next (s.recall r c)
    else .next s

/-- Source core of the col of massif m. -/
def State.colSource (s : State) (m : Nat) : Option (Nat × Nat) :=
  match (s.massif m).col with
  | some k => match (s.ridge k.ridge).members[k.sslot]? with
    | some (true, c) => some (c, k.newcore)
    | _ => none
  | none => none

/-- One ECC word goes from the source to the newcomer (R177), while the col lasts. -/
def State.copyWord (s : State) (m mem w : Nat) : State :=
  match s.colSource m with
  | none => s
  | some (src, dst) =>
    let (d, p, s) := s.readWord (mem + src) w
    if (s.massif m).col.isSome then s.writeWord (mem + dst) w d p else s

/-- One row of the background copy (R176): 8 words of DM or 4 doublewords of PM, in ascending order; the register transfer
follows the last row (R179). -/
def State.copyRow (s : State) (m : Nat) (pm : Bool) : State :=
  match (s.massif m).col with
  | none => s
  | some k =>
    let x := s.massif m
    let row := if pm then x.pmRows else x.dmRows
    let rows := if pm then 3072 else 4096
    if k.phase ≠ 1 ∨ rows ≤ row then s else
    let n := if pm then 4 else 8
    let s := (List.range n).foldl (fun s i => s.copyWord m (if pm then 0x40 else 0) (row * n + i)) s
    s.updMassif m fun x =>
      let x := if pm then { x with pmRows := row + 1 } else { x with dmRows := row + 1 }
      if x.pmRows = 3072 ∧ x.dmRows = 4096 then
        { x with col := x.col.map fun (k : Col) => { k with phase := 2, prioOn := false } }
      else x

/-- A list with its entry i as in another list. -/
def entryOf {α : Type} (l src : List α) (i : Nat) : List α := l.take i ++ (src.drop i).take 1 ++ l.drop (i + 1)

/-- A part of an accumulator as in another (Table 4-4): RL with the tag, RH, IL, IH. -/
def Acc.part (a src : Acc) (i : Nat) : Acc :=
  let lo (x y : BitVec 40) : BitVec 40 := x.extractLsb' 32 8 ++ y.extractLsb' 0 32
  let hi (x y : BitVec 40) : BitVec 40 := y.extractLsb' 32 8 ++ x.extractLsb' 0 32
  if i = 0 then { a with re := lo a.re src.re, p := src.p }
  else if i = 1 then { a with re := hi a.re src.re }
  else if i = 2 then { a with im := lo a.im src.im }
  else { a with im := hi a.im src.im }

/-- A lane of a vector register as in another, with its tag. -/
def VReg.lane (v src : VReg) (j : Nat) : VReg :=
  v.land (laneMask j) src.v src.t

/-- A core with item n of Table 8-1 as in another core (R179), in the table's order. -/
def Core.copyItem (x src : Core) (n : Nat) : Core :=
  if n < 31 then { x with gr := Tbl.set x.gr (n + 1) (Tbl.get (TW.plain 0) src.gr (n + 1)) }
  else if n < 63 then { x with pf := Tbl.set x.pf (n - 31) (Tbl.get (TW.plain 0) src.pf (n - 31)) }
  else if n < 95 then
    let k := (n - 63) / 4
    { x with acc := Tbl.set x.acc k ((Tbl.get Acc.reset x.acc k).part (Tbl.get Acc.reset src.acc k) ((n - 63) % 4)) }
  else if n < 351 then
    let k := (n - 95) / 8
    { x with vr := Tbl.set x.vr k ((Tbl.get VReg.reset x.vr k).lane (Tbl.get VReg.reset src.vr k) ((n - 95) % 8)) }
  else if n < 355 then { x with ls := entryOf x.ls src.ls (n - 351) }
  else if n < 359 then { x with le := entryOf x.le src.le (n - 355) }
  else if n < 363 then { x with lc := entryOf x.lc src.lc (n - 359) }
  else if n = 363 then { x with psw := src.psw }
  else if n = 364 then { x with epc := src.epc }
  else if n = 365 then { x with epsw := src.epsw }
  else if n = 366 then { x with ecause := src.ecause }
  else if n = 367 then { x with eval := src.eval }
  else if n = 368 then { x with etgt := src.etgt }
  else if n = 369 then { x with ivb := src.ivb }
  else if n = 370 then { x with vl := src.vl }
  else if n = 371 then { x with vinv := src.vinv, vew := src.vew }
  else if n = 372 then { x with vstart := src.vstart }
  else if n = 373 then { x with vxrm := src.vxrm }
  else if n = 374 then { x with vxsat := src.vxsat }
  else if n < 377 then { x with merge := entryOf x.merge src.merge (n - 375) }
  else if n < 409 then { x with lbuf := entryOf x.lbuf src.lbuf (n - 377) }
  else if n = 409 then { x with lbLoop := src.lbLoop, lbOn := src.lbOn }
  else { x with pc := src.pc, pend := src.pend, retiPend := src.retiPend, late := src.late, wait := src.wait, aerr := src.aerr
                testLoops := src.testLoops, refusals := src.refusals, eDrop := src.eDrop, skip := src.skip
                held := src.skip.isSome }

/-- Items of Table 8-1. -/
def itemCount : Nat := 411

/-- Items copied once that differ from the source's by now: the dirty ones (R180, log 29). -/
def Core.dirty (x src : Core) (done : Nat) : List Nat := (List.range done).filter fun n => decide (x.copyItem src n ≠ x)

/-- One cycle of the side port (R179, R180): up to 128 items, dirty ones first and then those not yet copied. -/
def Core.sidePort (x src : Core) (done : Nat) : Core × Nat :=
  let d := x.dirty src done
  let l := (d ++ (List.range itemCount).drop done).take 128
  (l.foldl (fun y n => y.copyItem src n) x, min itemCount (done + (128 - d.length)))

/-- The transfer is eligible (R180): every item has been copied, and at most 64 are dirty. -/
def Core.eligible (x src : Core) (done : Nat) : Bool := done == itemCount && decide ((x.dirty src done).length ≤ 64)

/-- One cycle of the register transfer of massif m (R179, R180). -/
def State.sideCycle (s : State) (m : Nat) : State :=
  match (s.massif m).col, s.colSource m with
  | some k, some (src, dst) =>
    if k.phase ≠ 2 then s else
    let r := (s.core dst).sidePort (s.core src) k.items
    (s.setCore dst r.1).updMassif m fun x => { x with col := x.col.map fun (k : Col) => { k with items := r.2 } }
  | _, _ => s

/-- COPY_ROW (R176, R179): one row of the background copy, or one cycle of the register transfer that follows the last row. -/
def execCopyRow (m : Fin 4) (pm : Bool) (s : State) : Host.Outcome State Fault Refusal :=
  .next (match (s.massif m).col with
    | some k => if k.phase = 2 then s.sideCycle m else s.copyRow m pm
    | none => s)

/-- COL_PRIORITY_START (R178): under AUTO, priority starts PRIO_DELAY × 100 µs after shadow start. DESIGN CHOICE (log 44): the settings
are those of this moment. -/
def execColPriorityStart (m : Fin 4) (s : State) : Host.Outcome State Fault Refusal :=
  let x := s.massif m
  match x.col with
  | some k =>
    if x.prio == 0 && k.phase == 1 && !k.prioOn then
      .next ((s.advanceTo (k.startTick + x.prioDelay * 32000)).updMassif m fun x =>
        { x with col := x.col.map fun k => { k with prioOn := true } })
    else .next s
  | none => .next s

/-- COL_PRIORITY_HOLD (R178): the ridge is held in one cycle, in which two DM rows and one PM row are copied.
DESIGN CHOICE (log 44): a priority that holds lasts to the end of the copy, though PRIO becomes OFF or AUTO. -/
def execColPriorityHold (m : Fin 4) (s : State) : Host.Outcome State Fault Refusal :=
  match (s.massif m).col with
  | some k =>
    if k.phase == 1 && k.prioOn then
      let s := (s.runners k.ridge).foldl (fun s c => s.updCore c fun x => { x with cycles := x.cycles + 1 }) s
      .next (((s.copyRow m false).copyRow m false).copyRow m true)
    else .next s
  | none => .next s

/-- The newcomer takes over the state of the source (R179, R181, R182): everything of Table 8-1, every item dirty or changing in
the cutover cycle among it; the source's records stay its own. -/
def Core.takeOver (x src : Core) : Core :=
  { src with st := x.st, ridge := x.ridge, slot := x.slot, bStatus := x.bStatus, bMfail := x.bMfail, bSlices := x.bSlices
             bQcount := x.bQcount, bPatcnt := x.bPatcnt, quars := x.quars, testFor := none, reserve := none
             removeDue := false, recs := [] }

/-- The register transfer runs until it is eligible (R180), for at most n cycles. -/
def State.transfer (s : State) (m : Nat) : Nat → State
  | 0 => s
  | n + 1 =>
    match (s.massif m).col, s.colSource m with
    | some k, some (src, dst) =>
      if (s.core dst).eligible (s.core src) k.items then s else State.transfer (s.sideCycle m) m n
    | _, _ => s

/-- F of the newcomer fetches bundle c from its own PM or loop buffer (R181). -/
def State.fetchOwn (s : State) (c : Nat) : State :=
  let x := s.core c
  let f := s.fetch c x x.loops x.pc
  let outs := s.outcomes f.2.1
  (s.setCore c { x with fetched := f.1, lbLoop := f.2.2.1, lbuf := f.2.2.2 }).eccEvents outs

/-- The cutover of massif m from core src to core dst (R181 to R183). -/
def State.cutover (s : State) (m src dst : Nat) : State :=
  let x := s.core src
  let s := (s.updCore dst fun y => y.takeOver x).updMassif m fun y =>
    { y with col := y.col.map fun k => { k with phase := 3, owed := x.recs.length } }
  (s.fetchOwn dst).depart m

/-- CUTOVER (R181): the source is at the last X cycle of a bundle. The register transfer, where it is not eligible yet, becomes so
first (log 29). -/
def execCutover (m : Fin 4) (s : State) : Host.Outcome State Fault Refusal :=
  match (s.massif m).col, s.colSource m with
  | some k, some (src, dst) =>
    let x := s.core src
    if k.phase == 2 && x.open_.isEmpty && !x.held && (s.ridge k.ridge).running then
      .next ((s.transfer m 8).cutover m src dst)
    else .next s
  | _, _ => .next s

/-- The self-test of core c ends with FAIL (R187, R188, R190, R193). -/
def State.testFail (s : State) (c : Nat) : State :=
  let x := s.core c
  let s := if x.testFor == some .inPlace then
      s.updRidge x.ridge fun y => { y with underTest := y.underTest - 1, testFailed := true } else s
  (((s.rotDone c).updCore c fun x => ({ x with bStatus := 3 } : Core).renew .failed).fcuEvent (0x20 * c + 0x19)).jobTested c

/-- The self-test of core c ends with PASS (R188, R190, R193). -/
def State.testPass (s : State) (c : Nat) : State :=
  let x := s.core c
  let y : Core := { x with bStatus := 2 }
  let s := match x.testFor with
    | some .inPlace =>
      let s := s.updCore c fun _ => (y.renew .member).join .member x.ridge x.slot
      let s := s.setSlot x.ridge x.slot true c
      let s := s.updRidge x.ridge fun z => { z with underTest := z.underTest - 1, st := .ready }
      s.loadImage x.ridge
    | some .quarantine =>
      let z : Core := { y with bQcount := min 3 (y.bQcount + 1) }
      if 3 ≤ x.quars then (s.rotDone c).updCore c fun _ => z.renew .failed else s.updCore c fun _ => z.renew .clearing
    | _ => s.updCore c fun _ => y.renew .clearing
  s.jobTested c

/-- MBIST of core c finds a mismatch (R188, R194): the failing word, a free value, goes to the fault log (log 21). -/
def State.mbistFail (s : State) (c : Nat) : State :=
  let (w, s) := s.draw
  ((s.logNote (.mbistFail c w)).updCore c fun x => { x with bMfail := true }).testFail c

/-- SELF_TEST_SLICE (R187, R188, R194): good says that every MBIST compare matched, or that the LBIST signature at the
terminal count equals the reference. MBIST leaves PM and DM zero (R392). -/
def execSelfTestSlice (c : Fin 64) (good : Bool) (s : State) : Host.Outcome State Fault Refusal :=
  let x := s.core c
  if x.st != .test || decide (9 ≤ x.bSlices) then .next s else
  if x.bSlices = 0 then
    let s := s.clearCoreMem c
    if good then .next (s.updCore c fun x => { x with bSlices := 1 })
    else .next (s.mbistFail c)
  else
    let s := s.updCore c fun x => { x with bSlices := x.bSlices + 1, bPatcnt := x.bPatcnt + 4096 }
    if x.bSlices + 1 < 9 then .next s
    else if good then .next (s.testPass c) else .next (s.testFail c)

/-- SLICE_BUDGET_EXPIRED (R187). -/
def execSliceBudgetExpired (c : Fin 64) (s : State) : Host.Outcome State Fault Refusal :=
  if (s.core c).st == .test then .next ((s.cutSlice c).testFail c) else .next s

/-- QUARANTINE_TEST_START (R190). -/
def execQuarantineTestStart (c : Fin 64) (s : State) : Host.Outcome State Fault Refusal :=
  if (s.core c).st == .quarantined && s.cairnRuns && s.pwr.st == .run then .next (s.updCore c fun x => x.startTest .quarantine)
  else .next s

/-- Ridge r takes part in the rotation of massif m (R191). -/
def State.rotates (s : State) (m r : Nat) : Bool :=
  let x := s.ridge r
  x.running && x.massif == m && !x.degraded && (x.kind == 3 || (x.kind == 2 && (s.massif m).rotPairs))

/-- The next ridge and slot of the rotation of massif m (R191). -/
def State.nextRotation (s : State) (m : Nat) : Option (Nat × Nat) :=
  let all := ((List.range 64).filter (s.rotates m)).flatMap fun r => ((s.ridge r).valid.map fun v => (r, v.1))
  match (s.massif m).rotPos with
  | some (r, k) => (all.find? fun p => decide (4 * r + k < 4 * p.1 + p.2)).or all.head?
  | none => all.head?

/-- The member that a CORE_TEST job of massif m waits to test (R192). -/
def State.testWanted (s : State) (m : Nat) : Option Nat :=
  (s.cairn.jobs.filterMap fun j => match j.work with
    | .coreTest c =>
      let x := s.core c.toNat
      if j.status.isNone && massifOf c.toNat == m && x.st == .member && (s.ridge x.ridge).running &&
        !(s.ridge x.ridge).degraded then some c.toNat else none
    | _ => none).head?

/-- A rotation col of slot k of ridge r with this newcomer starts (R171, R191). -/
def State.rotStart (s : State) (r k c : Nat) : State :=
  let m := (s.ridge r).massif
  (s.updMassif m fun x => { x with restarts := 0 }).shadowStart m
    { phase := 1, prioOn := false, rot := true, tslot := k, sslot := k, ridge := r, newcore := c, toTest := true,
      startTick := s.tick, owed := 0 }

/-- ROTATION_STEP (R185, R186, R191, R192): the next step of the rotation, the col that a CORE_TEST request asks for, or one that starts
again with another newcomer. A previous departing core that is MEMBER still, its rotation having been abandoned, is waited for
no more (log 29). -/
def execRotationStep (r : Fin 64) (slot : Fin 3) (newcomer : Fin 64) (s : State) : Host.Outcome State Fault Refusal :=
  let y := s.ridge r
  let m := y.massif
  let x := s.massif m
  let prevDone := match x.rotCore with
    | some d => (s.core d).st == .member
    | none => true
  match y.members[slot.val]? with
  | some (true, c) =>
    if !y.running || decide (y.kind ≤ 1) || y.degraded || x.col.isSome || massifOf newcomer != m || !s.available r newcomer || !s.cairnRuns
        || s.pwr.st != .run || s.fcu.fatal then .next s
    else if s.testWanted m == some c || x.rotAgain.contains (r.val, slot.val) then .next (s.rotStart r slot newcomer)
    else if x.rotEn && s.nextRotation m == some (r.val, slot.val) && prevDone then
      let s := match x.rotLast with
        | some t => s.advanceTo (t + max 10 x.rotStep * 320000)
        | none => s
      .next ((s.updMassif m fun z =>
        { z with rotLast := some s.tick, rotCore := some c, rotPos := some (r.val, slot.val) }).rotStart r slot newcomer)
    else .next s
  | _ => .next s

/-- A member of a READY or HALTED ridge leaves it for a test in place (R193); a dissolution that waits for the ridge's reset goes
on. -/
def State.testInPlace (s : State) (c : Nat) : State :=
  let x := s.core c
  let s := if (s.ridge x.ridge).draining then s.ridgeReset x.ridge else s
  let s := s.setSlot x.ridge x.slot false c
  let s := s.updRidge x.ridge fun y => { y with underTest := y.underTest + 1 }
  let s := s.updCore c fun z => { z.startTest .inPlace with ridge := x.ridge, slot := x.slot }
  if (s.ridge x.ridge).dissolve then s.goDissolve x.ridge else s

end Sys2Proof.Machine
end

