-- ==== Sys2Proof/Machine/Massif.lean ====
section
/-!
DEFINITION. Massif memory at its ports and banks, the massif DMA channels and the scrubbers (chapter 11).
-/

namespace Sys2Proof.Machine

/-- The first list entry that passes, replaced. -/
def replaceFirst {α : Type} (p : α → Bool) (f : α → α) : List α → List α
  | [] => []
  | x :: t => if p x then f x :: t else x :: replaceFirst p f t

/-- The load of a ridge that waits for this request has its data. -/
def Ridge.loadDone (x : Ridge) (q : Req) (data : List PByte) : Ridge :=
  let waits (l : LoadReq) : Bool := l.sent && !l.ready && decide (l.req = q)
  { x with loads := replaceFirst waits (fun l => { l with ready := true, data := data }) x.loads }

/-- The posted store that waits for this request has its response. -/
def Ridge.storeDone (x : Ridge) (q : Req) : Ridge :=
  let waits (f : Posted) : Bool := !f.ready && decide (f.req = q)
  { x with flying := replaceFirst waits (fun f => { f with ready := true }) x.flying }

/-- The element read that waits for this request has its data. -/
def Dma.readDone (d : Dma) (q : Req) (data : List PByte) : Dma :=
  let waits (e : DmaRead) : Bool := !e.ready && decide (e.req = q)
  { d with reads := replaceFirst waits (fun e => { e with ready := true, data := data }) d.reads }

/-- The element write that waits for this request has its response. -/
def Dma.writeDone (d : Dma) (q : Req) : Dma :=
  let waits (e : Req × Option Nat × Bool) : Bool := !e.2.2 && decide (e.1 = q)
  { d with writes := replaceFirst waits (fun e => (e.1, e.2.1, true)) d.writes }

/-- The response of a massif request has been made ready for its requester (R246). -/
def State.portDone (s : State) (who : Requester) (q : Req) (data : List PByte) : State :=
  match who with
  | .load r => s.updRidge r fun x => x.loadDone q data
  | .store r => s.updRidge r fun x => x.storeDone q
  | .dmaRead ch => s.updDma ch fun d => d.readDone q data
  | .dmaWrite ch => s.updDma ch fun d => d.writeDone q
  | .gone => s

/-- Indices of the bytes of a request that lie in a bank and on which it acts. -/
def Req.inBank (q : Req) (bank : Nat) : List Nat :=
  (List.range q.size).filter fun i => (q.addr.toNat + i) / 8 % 32 == bank && (q.mask.isEmpty || q.mask[i]? == some true)

/-- A bank serves its part of a request (R246, R249, R261): the request after it, and the state. -/
def State.serveBank (s : State) (m bank : Nat) (p : PortReq) : PortReq × State :=
  let idx := p.req.inBank bank
  let off := p.req.addr.toNat % 0x200000
  if p.req.write then
    let keep := (List.range p.req.size).map fun i => idx.contains i
    ({ p with banks := p.banks.erase bank }, s.writeMasked (0x80 + m) off p.req.data keep)
  else
    match idx with
    | [] => ({ p with banks := p.banks.erase bank }, s)
    | i :: _ =>
      let w := (off + i) / 8
      let (d, t, s) := s.readWord (0x80 + m) w
      ({ p with banks := p.banks.erase bank
                got := p.got ++ idx.map fun i => (i, (BitVec.ofNat 8 (d / 256 ^ ((off + i) % 8)), t)) }, s)

/-- The port that a bank serves: the first that requests it at or after the round-robin pointer (R247). -/
def Massif.winner (x : Massif) (bank : Nat) : Option Nat :=
  let start := Tbl.get 0 x.rr bank
  ((List.range 20).map fun i => (start + i) % 20).find? fun p =>
    match Tbl.get [] x.ports p with
    | q :: _ => q.banks.contains bank
    | [] => false

/-- A request at the head of its port waits a cycle more for a bank. -/
def PortReq.wait (q : PortReq) (bank : Nat) : PortReq :=
  let n := Tbl.get 0 q.waits bank + 1
  { q with waits := Tbl.set q.waits bank n, waited := max q.waited n }

/-- The other ports whose head waits for the bank (R253). A bank that a head waits for serves some port in every cycle, so the n-th
time it serves another is that head's n-th cycle; banks that do so in one cycle count one conflict cycle together. -/
def Massif.conflicts (x : Massif) (bank served : Nat) : Massif :=
  (List.range 20).foldl (fun x p =>
    match Tbl.get [] x.ports p with
    | q :: rest =>
      if p ≠ served ∧ q.banks.contains bank then
        let y := q.wait bank
        { x with confCnt := if q.waited < y.waited then Tbl.set x.confCnt p (satInc 32 (Tbl.get 0 x.confCnt p)) else x.confCnt
                 ports := Tbl.set x.ports p (y :: rest) }
      else x
    | [] => x) x

/-- MASSIF_REQUEST_SERVED (R246 to R249, R253): bank b of massif m serves one port. Nothing where none requests it. -/
def execMassifRequestServed (m : Fin 4) (bank : Fin 32) (s : State) : Host.Outcome State Fault Refusal :=
  match (s.massif m).winner bank with
  | none => .next s
  | some p =>
    match Tbl.get [] (s.massif m).ports p with
    | [] => .next s
    | q :: rest =>
      let s := s.updMassif m fun x => x.conflicts bank p
      let (q, s) := s.serveBank m bank q
      let waited := q.waited + 1
      let done := q.banks.isEmpty
      let s := s.updMassif m fun x =>
        { x with rr := Tbl.set x.rr bank ((p + 1) % 20)
                 confMax := if done then Tbl.set x.confMax p (min 255 (max waited (Tbl.get 0 x.confMax p))) else x.confMax
                 ports := Tbl.set x.ports p (if done then rest else q :: rest) }
      let data := (List.range q.req.size).map fun i => Tbl.get (0, false) q.got i
      .next (if done then s.portDone q.who q.req data else s)

/-- Bytes of a DMA element (R255). -/
def Dma.size (d : Dma) : Nat := 2 ^ d.esize.toNat

/-- The address after an element (R97, R255). -/
def Dma.nextSrc (d : Dma) (a : Word) : Word := circular a (d.sstep.signExtend 32) d.sbase d.slen

/-- The destination after an element (R97, R255). -/
def Dma.nextDst (d : Dma) (a : Word) : Word := circular a (d.dstep.signExtend 32) d.dbase d.dlen

/-- Address of the next element read: beyond those outstanding (R255, R257). -/
def Dma.readAddr (d : Dma) : Word := d.reads.foldl (fun a _ => d.nextSrc a) d.src

/-- The transfer ends with its BUSY clear (R258). -/
def Dma.finish (d : Dma) : Dma := { d with busy := false, reads := [], writes := [], toRead := 0, stopReq := false }

/-- A block reset that waited for the end of the transfer takes place (Table 17-3). -/
def Dma.resetDue (d : Dma) : Dma := if d.rstReq then d.blockReset else d

/-- The channel stops (R258): neither the producer nor the interrupt source fires. -/
def Dma.stopNow (d : Dma) : Dma := ({ d.finish with stopped := true } : Dma).resetDue

/-- The requests of channel ch that are still at a port: their responses are discarded when they arrive (R258). -/
def State.dmaLeaves (s : State) (ch : Nat) : State :=
  let leave (q : PortReq) : PortReq := if q.who == .dmaRead ch || q.who == .dmaWrite ch then { q with who := .gone } else q
  { s with massifs := s.massifs.map fun (e : Nat × Massif) =>
      (e.1, { e.2 with ports := e.2.ports.map fun (p : Nat × List PortReq) => (p.1, p.2.map leave) }) }

/-- Channel ch stops (R258). -/
def State.dmaStopNow (s : State) (ch : Nat) : State := (s.dmaLeaves ch).updDma ch Dma.stopNow

/-- Source 20 + k of the owner of a channel becomes pending (R258). -/
def State.dmaInterrupt (s : State) (ch : Nat) : State :=
  match (s.dma ch).owner with
  | some r => s.pendFixed r (20 + ch % 4)
  | none => s

/-- The transfer ends with an error (R258). -/
def State.dmaError (s : State) (ch kind : Nat) (addr : Word) : State :=
  ((s.dmaLeaves ch).updDma ch fun d => ({ d.finish with err := true, ekind := kind, eaddr := addr } : Dma).resetDue).dmaInterrupt ch

/-- The check of an element access as the owner's own, PM refused (R254). -/
def State.dmaCheck (s : State) (r : Nat) (write : Bool) (a size : Nat) : Option Nat :=
  let ks := s.checkKinds r (s.leadMode r) write a size false
  lowestKind (ks ++ (if rowOf a == some .pm then [1] else []))

/-- DM bytes of one member as another master reads them, merged with its merge buffer (R101), and the outcomes of the reads. -/
def State.outsideRead (s : State) (c off n : Nat) : List PByte × List (Nat × Nat × Nat) :=
  let (b, rd) := s.ownRead c false off n
  (b, s.outcomes rd)

/-- A voted read of the DM of ridge r (R159): the bytes, or none where the difference halts the ridge, whose cause is then the
lowest (R375). -/
def State.votedRead (s : State) (r : Nat) (addr : Word) (n : Nat) : Option (List PByte) × State :=
  let off := addr.toNat % 0x20000
  let ms := s.voters r
  let reads := ms.map fun v => s.outsideRead v.2 off n
  let all := reads.map (·.1)
  let events (s : State) : State := s.eccEvents (reads.flatMap (·.2))
  match majority all with
  | none => (none, if all.isEmpty then s else s.voteHalt r ms.length true addr events)
  | some won =>
    (some won, (ms.zip all).foldl (fun (s : State) v => if v.2 == won then s else s.evict r v.1.1 v.1.2 true addr) (events s))

/-- Bytes written by another master into the DM of every member and of a newcomer (R101, R152, R174): an evicted entry, whose
store came first, is completed, and a merge entry of a written word is discarded. -/
def State.outsideWrite (s : State) (r off : Nat) (data : List PByte) : State :=
  let x := s.ridge r
  let new : List Nat := match (s.massif x.massif).col with
    | some k => if k.ridge = r then [k.newcore] else []
    | none => []
  let words := wordsOf 0 off data.length
  ((x.valid.map Prod.snd) ++ new).foldl (fun (s : State) c =>
    ((s.completeEvicted c).told.updCore c fun y => { y with merge := y.merge.filter fun e => !words.contains e.word }).writeBytes c off
      data) s

/-- DMA_ELEMENT_READ (R257): a busy channel issues an element read, at most four outstanding. A read of DM without a majority
returns an error response (R159), whose KIND no row of Table 2-6 gives: a free value (log 5). -/
def execDmaElementRead (m k : Fin 4) (s : State) : Host.Outcome State Fault Refusal :=
  let ch := 4 * m.val + k.val
  let d := s.dma ch
  match d.owner with
  | none => .next s
  | some r =>
    if !d.busy || d.toRead == 0 || decide (4 ≤ d.reads.length) || d.stopReq then .next s else
    let a := d.readAddr
    let q : Req := { write := false, addr := a, size := d.size, data := [] }
    let put (s : State) (b : List PByte) (e : Option Nat) (ready : Bool) : State :=
      s.updDma ch fun d => { d with toRead := d.toRead - 1, reads := d.reads ++ [(⟨q, b, e, ready⟩ : DmaRead)] }
    match s.dmaCheck r false a.toNat d.size with
    | some kind => .next (put (s.refusedCheck r a.toNat) [] (some kind) true)
    | none =>
      if rowOf a.toNat == some .dm then
        match s.votedRead r a d.size with
        | (some b, s) => .next (put s b none true)
        | (none, s) =>
          let (w, s) := s.draw
          .next (put s [] (some (w.toNat % 8)) true)
      else match s.massifOfAddr r a.toNat with
        | some mm => .next ((put s [] none false).enterPort mm (16 + k.val) (.dmaRead ch) q)
        | none =>
          let (b, e, s) := s.targetRead r q
          .next (put s b e true)

/-- An element write is issued (R254, R255, R257): its place among the writes, and the addresses go on. -/
def State.dmaWrite (s : State) (ch r : Nat) (data : List PByte) : State :=
  let d := s.dma ch
  let q : Req := { write := true, addr := d.dst, size := d.size, data := data }
  let put (s : State) (e : Option Nat) (ready : Bool) : State := s.updDma ch fun d =>
    { d with left := d.left - 1, src := d.nextSrc d.src, dst := d.nextDst d.dst, reads := d.reads.drop 1
             writes := d.writes ++ [(q, e, ready)] }
  match s.dmaCheck r true d.dst.toNat d.size with
  | some kind => put (s.refusedCheck r d.dst.toNat) (some kind) true
  | none =>
    if rowOf d.dst.toNat == some .dm then put (s.outsideWrite r (d.dst.toNat % 0x20000) data) none true
    else match s.massifOfAddr r d.dst.toNat with
      | some mm => (put s none false).enterPort mm (16 + ch % 4) (.dmaWrite ch) q
      | none =>
        let (e, s) := s.targetWrite r q
        put s e true

/-- DMA_READ_RESPONSE (R257, R258): the oldest read of a channel has returned, and its element is written, or its error ends the
transfer. A requested stop takes place at this element boundary. -/
def execDmaReadResponse (m k : Fin 4) (s : State) : Host.Outcome State Fault Refusal :=
  let ch := 4 * m.val + k.val
  let d := s.dma ch
  match d.owner, d.reads with
  | some r, e :: _ =>
    if !d.busy || !e.ready then .next s else
    match e.err with
    | some kind => .next (s.dmaError ch kind e.req.addr)
    | none =>
      let s := s.dmaWrite ch r e.data
      .next (if (s.dma ch).stopReq then s.dmaStopNow ch else s)
  | _, _ => .next s

/-- DMA_WRITE_RESPONSE (R258): the oldest write's response arrives; the last one completes the transfer. -/
def execDmaWriteResponse (m k : Fin 4) (s : State) : Host.Outcome State Fault Refusal :=
  let ch := 4 * m.val + k.val
  let d := s.dma ch
  match d.writes with
  | (q, e, ready) :: rest =>
    if !d.busy || !ready then .next s else
    match e with
    | some kind => .next (s.dmaError ch kind q.addr)
    | none =>
      if rest.isEmpty && d.reads.isEmpty && d.toRead == 0 then
        .next (((s.updDma ch fun d => ({ d.finish with done := true } : Dma).resetDue).pulse (304 + ch)).dmaInterrupt ch)
      else .next (s.updDma ch fun d => { d with writes := rest })
  | [] => .next s

/-- DMA_STOP (R258): a requested stop takes place at an element boundary. -/
def execDmaStop (m k : Fin 4) (s : State) : Host.Outcome State Fault Refusal :=
  let ch := 4 * m.val + k.val
  let d := s.dma ch
  if d.busy && d.stopReq then .next (s.dmaStopNow ch) else .next s

/-- Address of DMA_CTRL of channel k of massif m in the unprivileged view (Table 11-10). -/
def dmaCtrlAddr (m k : Nat) : Word := BitVec.ofNat 32 (0x40000000 + 0x40000 + m * 0x1000 + k * 0x40 + 0x24)

/-- The event channel whose consumer is DMA channel ch fires (R256, Table 12-3): the firing that waits for delivery, or that of a pulse
of this tick, which the channel takes as any other (R277). -/
def State.dmaFiring (s : State) (ch : Nat) : State :=
  let mine (k i : Nat) : Bool := k == 2 && i % 16 == ch
  match s.chans.find? fun e => e.2.waiting.any fun f => mine f.ckind f.cindex with
  | some e => (e.2.waiting.takeWhile fun f => !mine f.ckind f.cindex).foldl (fun s _ => s.deliverFiring e.1) s |>.deliverFiring e.1
  | none =>
    match s.chans.find? fun e => mine e.2.ckind e.2.cindex with
    | some e =>
      let s := s.updChan e.1 fun c => c.pulse s.tick
      (s.chan e.1).waiting.foldl (fun s _ => s.deliverFiring e.1) s
    | none => s

/-- DMA_START (R256): the owner writes START, or the fabric fires on the channel. -/
def execDmaStart (m k : Fin 4) (by_ : DmaStartBy) (s : State) : Host.Outcome State Fault Refusal :=
  match by_ with
  | .owner r => .next (s.ridgeWrite r (dmaCtrlAddr m k) 1 false)
  | .fabric => .next (s.dmaFiring (4 * m.val + k.val))

/-- DMA_ABORT (R258): ridge r writes ABORT. -/
def execDmaAbort (m k : Fin 4) (r : Fin 64) (s : State) : Host.Outcome State Fault Refusal :=
  .next (s.ridgeWrite r (dmaCtrlAddr m k) 2 false)

/-- The array of a scrubber is accessible in the power state (R244, Table 1-4): class C always, the others in RUN. -/
def State.scrubLive (s : State) (u : Nat) : Bool :=
  s.pwr.st == .run || (s.pwr.st != .off && decide (0x85 ≤ u ∧ u ≤ 0x87))

/-- Scrub-overdue source of a scrubber (Table 17-1). -/
def overdueSource (u : Nat) : Nat :=
  if u < 0x40 then 0x20 * u + 0x1C else if u < 0x80 then 0x20 * (u - 0x40) + 0x1D
  else if u < 0x84 then 0xA00 + 0x80 * (u - 0x80) + 0x46 else 0xF80 + (u - 0x84)

/-- A lap of a scrubber ends (R267). -/
def Scrub.endLap (x : Scrub) (tick : Nat) : Scrub :=
  { x with lap := min 0xFFFFFFFF ((tick - x.began) / 320), laps := satInc 16 x.laps, poisoned := min 0xFFFF x.seen, seen := 0
           began := tick, overd := false, next := 0 }

/-- SCRUB_READ (R266, R267): scrubber u reads its next word, not before 2^RATE fclk cycles after the one before. -/
def execScrubRead (u : Byte) (s : State) : Host.Outcome State Fault Refusal :=
  let m := u.toNat
  let x := s.scrub m
  if !x.en || memWords m == 0 || !s.scrubLive m || x.wb.isSome then .next s else
  let s := match x.last with
    | some t => s.advanceTo (t + 2 ^ x.rate / 2)
    | none => s
  let (_, _, o) := s.eccRead m x.next
  let (_, _, s) := s.readWord m x.next
  .next (s.updScrub m fun x =>
    let y := { x with last := some s.tick, seen := x.seen + b2n (o == 3)
                      wb := if o = 1 then some (x.next, false) else if o = 2 then some (x.next, true) else none }
    if x.next + 1 = memWords m then y.endLap s.tick else { y with next := x.next + 1 })

/-- SCRUB_WRITEBACK (R266): a merge write, which decodes the word again, puts the corrected word or the poison encoding
back. -/
def execScrubWriteback (u : Byte) (s : State) : Host.Outcome State Fault Refusal :=
  match (s.scrub u.toNat).wb with
  | none => .next s
  | some (w, _) =>
    if !s.scrubLive u.toNat then .next s else
    let (d, p, s) := s.readWord u.toNat w
    .next ((s.writeWord u.toNat w d p).updScrub u.toNat fun x => { x with wb := none })

/-- SCRUB_OVERDUE (R267): the lap exceeds LIMIT milliseconds. -/
def execScrubOverdue (u : Byte) (s : State) : Host.Outcome State Fault Refusal :=
  let x := s.scrub u.toNat
  if !x.en || memWords u.toNat == 0 || x.limit == 0 || x.overd || !s.scrubLive u.toNat then .next s else
  let s := s.advanceTo (x.began + x.limit * 320000)
  .next ((s.updScrub u.toNat fun x => { x with overd := true }).fcuEvent (overdueSource u.toNat))

end Sys2Proof.Machine
end

