-- ==== Sys2Proof/Machine/Chains.lean ====
section
/-!
DEFINITION. Penrid (13): the train on a ring, what a node does with trains and management commands, receivers, breaks, and
the enumeration of a port. The node at position k of port n's ring is fitted once its receiver has been in sync; of a dual
ring the odd port's ring passes the same nodes in reverse order (R315).
-/

namespace Sys2Proof.Machine

/-- The port that holds the descriptors, the train and the nodes of port n's ring (R315). -/
def State.ringPort (s : State) (n : Nat) : Nat := if s.dualPair n then n / 2 * 2 else n

/-- The node is fitted: the table names it. -/
def State.fitted (s : State) (n k : Nat) : Bool := (Tbl.find s.nodes (n * 64 + k)).isSome

/-- Nodes of port n's ring: those fitted at positions 0, 1, … without a gap. -/
def State.ringNodes (s : State) (n : Nat) : List Nat := (List.range 64).takeWhile (s.fitted n)

/-- Port n drives ring B of a dual ring (R315). -/
def State.onB (s : State) (n : Nat) : Bool := s.dualPair n && n % 2 == 1

/-- Position, on ring A, of the node at position k of port n's ring: ring B passes the same nodes in reverse order (R315). -/
def State.ringPos (s : State) (n k : Nat) : Nat :=
  let N := (s.ringNodes (n - 1)).length
  if s.onB n && decide (k < N) then N - 1 - k else k

/-- Port n is the even port of a dual ring, whose trains its trains are (R315). -/
def State.leadsPair (s : State) (n : Nat) : Bool := s.dualPair n && n % 2 == 0

/-- TRAIN_TRANSMIT: the train launched on port n leaves TX, once, of a dual pair on both rings (R296, R299, R316); in FATAL
hold the port sends only IDLE (R380). -/
def execTrainTransmit (n : Fin 64) (s : State) : Host.Outcome State Fault Refusal :=
  match (s.port n.val).train with
  | none => .next s
  | some t =>
    if t.sent then .next s else
    let t := { t with sent := true }
    let line := if s.fcu.fatal then [] else t.chars
    let s := s.updPort n.val fun p => { p with train := some t, wire := line, rxd := none }
    .next (if s.leadsPair n.val then s.updPort (n.val + 1) fun p => { p with wire := line, rxd := none } else s)

/-- The train of port n has left TX and is not complete. -/
def State.trainOut (s : State) (n : Nat) : Bool :=
  match (s.port n).train with
  | some t => t.sent
  | none => false

/-- The port's own write of a slot record (R249, R304). -/
def State.writeRecord (s : State) (off : Nat) (b : List Byte) : State := s.writeBytes 0x86 off (b.map fun x => (x, false))

/-- The train of ring port a completes with what has been received of its copies (R301, R317). A train that an odd port launched before
it became one of a pair has one copy. -/
def State.trainDone (s : State) (a : Nat) (rxA rxB : List PChar) (timeout : Bool) : State :=
  match (s.port a).train with
  | none => s
  | some t =>
    let s := s.completeTrain State.writeRecord a (t.slots rxA rxB) timeout
    if s.leadsPair a then s.updPort (a + 1) fun p => { p with wire := [], rxd := none } else s

/-- The copy of the train on port n's ring has ended, or that ring is in BREAK (R317). -/
def State.copyDone (s : State) (n : Nat) : Bool := (s.port n).rxd.isSome || (s.port n).broken

/-- TRAIN_COMPLETE: the train's copy on port n's ring returns and ends with EOT (R301, R304, R317). One of a dual pair's two copies
waits for the other, unless the other ring is in BREAK. -/
def execTrainComplete (n : Fin 64) (line : LinkErrors) (s : State) : Host.Outcome State Fault Refusal :=
  let a := s.ringPort n.val
  let rx := received (s.port n.val).wire line
  if !s.trainOut a || rx.getLast? != some .eot then .next s
  else
    let s := s.updPort n.val fun p => { p with wire := [], rxd := some rx, eotOk := true }
    let rxA := (s.port a).rxd.getD []
    let rxB := (s.port (a + 1)).rxd.getD []
    if !s.dualPair a then .next (s.trainDone a rxA [] false)
    else .next (if s.copyDone a && s.copyDone (a + 1) then s.trainDone a rxA rxB false else s)

/-- What a port has received of its copy by the timeout. -/
def ChPort.partly (p : ChPort) (got : Nat) (line : LinkErrors) : List PChar := p.rxd.getD ((received p.wire line).take got)

/-- TRAIN_TIMEOUT: TMO microseconds have passed since the launch on port n (R301). -/
def execTrainTimeout (n : Fin 64) (x : TrainRx) (s : State) : Host.Outcome State Fault Refusal :=
  let rxB := if s.leadsPair n.val then (s.port (n.val + 1)).partly x.gotB x.lineB else []
  .next (s.trainDone n.val ((s.port n.val).partly x.got x.line) rxB true)

/-- Bytes lo to lo + k - 1 of a field of a record, most significant first. -/
def field (l : List Byte) (lo k : Nat) : Nat := ofBytesBE ((l.drop lo).take k)

/-- Descriptor j of a CONFIG payload (Table 13-9): EN, D, U. -/
def confDesc (c : List Byte) (j : Nat) : Bool × Nat × Nat :=
  (bitOf (field c (6 + 6 * j) 1) 7, field c (6 + 6 * j) 1 % 64, field c (7 + 6 * j) 1)

/-- The node status of Table 13-5, most significant byte first. -/
def Node.status (x : Node) (seq : Nat) : List Byte :=
  [BitVec.ofNat 8 (128 * b2n x.safe + 64 * b2n x.nrdy + 32 * b2n x.fault + 16 * b2n x.dscrd), BitVec.ofNat 8 seq]

/-- The payload that a node puts into its slot of U bytes (R306). -/
def Node.payload (x : Node) (seq u : Nat) : List Byte :=
  let d := x.status seq ++ x.sample
  (d ++ List.replicate (u - d.length) 0).take u

/-- A node leaves OPERATIONAL or never was: it drives its safe states (R308). -/
def Node.enter (x : Node) (st : NodeSt) : Node :=
  { x with st := st, safe := true, applied := none, cmd := none, armed := false }

/-- A process train with the valid header h passes an OPERATIONAL node (R306, R316): the node stores its command block, the A copy's
where that is valid, and fills its slot. DEDUCED (log 27): the first copy of a dual ring's train fixes the payload of both. Answers
the slot's place and payload; none where the node has no enabled copy of DESC. -/
def Node.process (x : Node) (h : List Byte) (rx : List PChar) (N : Nat) (copyB : Bool) : Node × Option (Nat × List Byte) :=
  let seq := field h 1 1
  match x.conf.map fun c => confDesc c (field h 0 1 % 16) with
  | none | some (false, _, _) => (x, none)
  | some (true, d, u) =>
    let blk := fieldAt rx (blockAt d x.addr) d
    let same := x.armed && field x.slot 1 1 == seq
    let keep := copyB && same && x.cmd.isSome
    let x := if keep then x
      else { x with cmd := if blk.isSome then blk else if copyB || !same then none else x.cmd
                    dscrd := if same then x.dscrd else blk.isNone }
    let x := { x with armed := true, applySafe := bitOf (field h 0 1) 7
                      filledA := !copyB || (same && x.filledA), filledB := copyB || (same && x.filledB) }
    let x := { x with slot := if same then x.slot else x.payload seq u }
    (x, some (slotAt N d u x.addr, x.slot))

/-- The characters of a slot with its CRC (R306). -/
def slotChars (b : List Byte) : List PChar := dataChars (b ++ crcField b false)

/-- The characters of a train with a slot filled, its CRC with it (R306). -/
def fillSlot (l : List PChar) (i : Nat) (b : List Byte) : List PChar :=
  l.take i ++ (slotChars b).take (l.length - i) ++ l.drop (i + b.length + 4)

/-- A slot on the wire with one payload in place of another: characters that a link has changed since stay changed. -/
def refillSlot (l : List PChar) (i : Nat) (old new : List Byte) : List PChar :=
  l.take i ++ (((l.drop i).take (new.length + 4)).zip ((slotChars old).zip (slotChars new))).map
    (fun e => if e.1 = e.2.1 then e.2.2 else e.1) ++ l.drop (i + new.length + 4)

/-- The receiver of a node is in sync, on ring B or not (R295). -/
def Node.hears (x : Node) (onB : Bool) : Bool := if onB then x.syncB else x.sync

/-- A node sends BRK in place of forwarding, on ring B or not (R313). -/
def Node.breaks (x : Node) (onB : Bool) : Bool := !x.hears onB || (if onB then x.brkB else x.brk)

/-- Address in a node's break report (R313). -/
def Node.report (x : Node) : Byte := if x.st == .unaddressed then 0x3F else BitVec.ofNat 8 x.addr

/-- What a node sends for characters that it would forward (R305, R313). -/
def Node.sends (x : Node) (onB : Bool) (l : List PChar) : List PChar :=
  if x.breaks onB then [.brk, .data x.report] else l

/-- NODE_PROCESS_TRAIN: the train passes the node; one with an invalid header is forwarded and nothing else (R305, R306). A node out
of sync takes nothing of it, and one that sends BRK forwards nothing (R313). -/
def execNodeProcessTrain (n : Fin 64) (k : Fin 64) (bad : List Nat) (other : List (Nat × Bool × Byte)) (s : State) :
    Host.Outcome State Fault Refusal :=
  let a := s.ringPort n.val
  let j := s.ringPos n.val k.val
  match (s.port a).train with
  | none => .next s
  | some t =>
    if !t.sent || !s.fitted a j then .next s else
    let onB := s.onB n.val
    let rx := received (s.port n.val).wire (linkErrors bad other)
    let on := rx.map PChar.onward
    let y := s.node a j
    match (if y.st == .operational && y.hears onB then fieldAt rx 1 10 else none) with
    | none => .next (s.updPort n.val fun p => { p with wire := y.sends onB on })
    | some h =>
      let (x, fill) := y.process h rx t.n onB
      let wire := match fill with
        | some f => fillSlot on f.1 f.2
        | none => on
      .next ((s.updNode a j fun _ => x).updPort n.val fun p => { p with wire := x.sends onB wire })

/-- A node's sample instant (R306, R307): one not ready keeps the previous sample. -/
def Node.takeSample (x : Node) (ready : Bool) (data : List Byte) : Node :=
  let x := if ready then { x with sample := data, nrdy := false } else { x with nrdy := true }
  { x with slot := x.payload (field x.slot 1 1) x.slot.length }

/-- A node's slot in the train on port n's ring takes the payload of a sample (R306): the sample is ready before the slot passes
(R298). -/
def State.sampleSlot (s : State) (n i : Nat) (old new : List Byte) : State :=
  s.updPort n fun p => { p with wire := refillSlot p.wire i old new }

/-- NODE_SAMPLE: at the compensated SDLY instant of a train with a valid header; the train carries the sample, on both rings of a dual
ring (R306, R307, R316, log 27). -/
def execNodeSample (n : Fin 64) (k : Fin 64) (ready : Bool) (data : List Byte) (s : State) : Host.Outcome State Fault Refusal :=
  let a := s.ringPort n.val
  let j := s.ringPos n.val k.val
  let x := s.node a j
  if !x.armed then .next s else
  let y := x.takeSample ready data
  let s := s.updNode a j fun _ => y
  match (s.port a).train with
  | none => .next s
  | some t =>
    if !t.sent || t.seq != field x.slot 1 1 then .next s else
    let i := slotAt t.n t.d t.u x.addr
    let s := if x.filledA then s.sampleSlot a i x.slot y.slot else s
    .next (if s.dualPair a && x.filledB then s.sampleSlot (a + 1) i x.slot y.slot else s)

/-- A node's apply instant (R306 to R308). -/
def Node.apply (x : Node) : Node :=
  let y := { x with armed := false, cmd := none }
  if x.applySafe then { y with safe := true, applied := none }
  else match x.cmd with
    | some c => { y with safe := false, applied := some c }
    | none => y

/-- NODE_APPLY: at the compensated ADLY instant (R307). -/
def execNodeApply (n : Fin 64) (k : Fin 64) (s : State) : Host.Outcome State Fault Refusal :=
  let a := s.ringPort n.val
  let j := s.ringPos n.val k.val
  .next (if (s.node a j).armed then s.updNode a j Node.apply else s)

/-- NODE_SAFE_TIMEOUT: TNODE has passed without a valid header and command (R308). -/
def execNodeSafeTimeout (n : Fin 64) (k : Fin 64) (s : State) : Host.Outcome State Fault Refusal :=
  let a := s.ringPort n.val
  let j := s.ringPos n.val k.val
  .next (if (s.node a j).st == .operational then s.updNode a j fun x => { x with safe := true, applied := none } else s)

/-- A management command reaches a node that acts on it (R310). -/
def Node.acts (x : Node) (t : MgmtTrain) : Bool :=
  mgmtOk t && (t.addr == 0xFF || (x.st != .unaddressed && x.addr == t.addr.toNat))

/-- ENUM at a node (Table 13-7). -/
def Node.enum (x : Node) (cnt : Byte) : Node :=
  let y := { x with cntOut := cnt + 1, conf := none, cntB := none }
  if cnt.toNat ≤ 31 then { y.enter .addressed with addr := cnt.toNat } else y.enter .unaddressed

/-- IDENT at a node: its identity record (Table 13-8). -/
def Node.identify (x : Node) : Node := { x with resp := x.ident.take 32 }

/-- The count of an ENUM on ring B fits the node's address on a ring of N (R316). -/
def Node.fitsB (x : Node) (N : Nat) : Bool :=
  match x.cntB with
  | some c => c + x.addr + 1 == N
  | none => true

/-- A CONFIG payload is within the limits that the node declares: D and U of every enabled descriptor (R310). -/
def Node.accepts (x : Node) (c : List Byte) : Bool :=
  (List.range 16).all fun j =>
    let (en, d, u) := confDesc c j
    !en || (decide (d ≤ field x.ident 8 1) && decide (u ≤ field x.ident 9 1))

/-- CONFIG at a node of a ring of N (Table 13-7, R316): a refused payload changes nothing but the answer. -/
def Node.configure (x : Node) (c : List Byte) (N : Nat) : Node :=
  if x.accepts c && x.fitsB N then { x.enter .configured with conf := some (c.take 102), resp := [0, 0, 0, 0] }
  else { x with resp := [0, 0, 0, 1] }

/-- RELEASE at a node (Table 13-7). -/
def Node.release (x : Node) : Node := if x.st == .configured then x.enter .operational else x

/-- A management train passes a node, on ring B or not (R309, R310, R316): the node after it, and the train as it goes on. A node
without an address has no response slot; an invalid payload is none to act on. -/
def Node.manage (x : Node) (onB : Bool) (t : MgmtTrain) : Node × MgmtTrain :=
  if !x.acts t then (x, t)
  else match t.mcmd.toNat with
  | 0x01 =>
    let t' := mgmtSeal { t with cnt := t.cnt + 1 }
    (if onB then { x with cntOut := t.cnt + 1, cntB := some t.cnt.toNat } else x.enum t.cnt, t')
  | 0x02 =>
    if x.st == .unaddressed then (x, t) else
    let y := x.identify
    (y, mgmtFill t y.addr y.resp)
  | 0x03 =>
    if x.st == .unaddressed || !mgmtPayloadOk t then (x, t) else
    let y := x.configure t.payload t.slots.length
    (y, mgmtFill t y.addr y.resp)
  | 0x04 => (x.release, t)
  | 0x05 => (x.enter .unaddressed, t)
  | _ => (x, t)

/-- A management train with command mcmd passes node k of port n's ring; one with another is none of this command (R310). A node out
of sync takes nothing of it, and one that sends BRK forwards nothing (R313). -/
def State.mgmtAt (s : State) (n k mcmd : Nat) (t : MgmtTrain) : State :=
  let a := s.ringPort n
  let j := s.ringPos n k
  let onB := s.onB n
  let x := s.node a j
  if t.mcmd.toNat ≠ mcmd ∨ s.fitted a j = false ∨ x.hears onB = false then s else
  let r := x.manage onB t
  s.updNode a j fun _ => { r.1 with tx := r.1.sends onB (mgmtChars r.2) }

/-- ENUM: a node takes its address from CNT and sends CNT + 1 on (R310). -/
def execEnum (n : Fin 64) (k : Fin 64) (t : MgmtTrain) (s : State) : Host.Outcome State Fault Refusal :=
  .next (s.mgmtAt n.val k.val 1 t)

/-- IDENT: a node fills its response slot (R310). -/
def execIdent (n : Fin 64) (k : Fin 64) (t : MgmtTrain) (s : State) : Host.Outcome State Fault Refusal :=
  .next (s.mgmtAt n.val k.val 2 t)

/-- CONFIG: the addressed node stores its configuration (R310). -/
def execConfig (n : Fin 64) (k : Fin 64) (t : MgmtTrain) (payload : List Byte) (s : State) : Host.Outcome State Fault Refusal :=
  .next (s.mgmtAt n.val k.val 3 { t with payload := payload })

/-- RELEASE: a CONFIGURED node enters OPERATIONAL (R310). -/
def execRelease (n : Fin 64) (k : Fin 64) (t : MgmtTrain) (s : State) : Host.Outcome State Fault Refusal :=
  .next (s.mgmtAt n.val k.val 4 t)

/-- UNADDR: the node enters UNADDRESSED (R310). -/
def execUnaddr (n : Fin 64) (k : Fin 64) (t : MgmtTrain) (s : State) : Host.Outcome State Fault Refusal :=
  .next (s.mgmtAt n.val k.val 5 t)

/-- The identity record of a node fitted now (Table 13-8): its free fields are free values, PVER, the zero bits and the range
of LAT are the table's (log 27). -/
def State.freshIdent (s : State) : List Byte :=
  let w (i : Nat) : List Byte := bytesBE 4 (Config.freeWord (s.free + i)).toNat
  let lat := 10 + (Config.freeWord (s.free + 4)).toNat % 15
  let cap := (Config.freeWord (s.free + 5)).toNat % 2
  (w 0).take 4 ++ (w 1).take 1 ++ [1, BitVec.ofNat 8 lat, BitVec.ofNat 8 cap] ++ (w 1).drop 1 ++ (w 2).take 1 ++
    w 3 ++ (w 6) ++ List.replicate 12 0

/-- The receiver of a node on ring B or not is in sync from now on, or not (R295). -/
def Node.setSync (x : Node) (onB v : Bool) (tick : Nat) : Node :=
  if onB then (if x.syncB = v then x else { x with syncB := v, syncAtB := tick })
  else if x.sync = v then x else { x with sync := v, syncAt := tick }

/-- SYNC_ACQUIRED: a receiver has taken 4 good IDLE sets (R295); a chain port is Off in OFF (R24, Table 1-4). A node new to the ring is
UNADDRESSED, its outputs safe (Table 13-10). -/
def execSyncAcquired (x : Rx) (s : State) : Host.Outcome State Fault Refusal :=
  match x with
  | .port n => .next (if s.pwr.st == .off then s
      else s.updPort n.val fun p => if p.sync then p else { p with sync := true, syncAt := some s.tick })
  | .node n k =>
    let a := s.ringPort n.val
    let j := s.ringPos n.val k.val
    if s.fitted a j then .next (s.updNode a j fun y => y.setSync (s.onB n.val) true s.tick)
    else
      let s' := s.updNode a j fun y => { y with ident := s.freshIdent }.setSync (s.onB n.val) true s.tick
      .next { s' with free := s'.free + 7 }

/-- SYNC_LOST: a receiver loses sync (R295). -/
def execSyncLost (x : Rx) (s : State) : Host.Outcome State Fault Refusal :=
  match x with
  | .port n => .next (s.updPort n.val fun p => { p with sync := false, syncAt := none })
  | .node n k =>
    let a := s.ringPort n.val
    let j := s.ringPos n.val k.val
    .next (if s.fitted a j then s.updNode a j fun y => y.setSync (s.onB n.val) false s.tick else s)

/-- NODE_UNADDRESS_TIMEOUT: a node has been out of sync for more than 1 ms (R312). Of a dual ring's node both receivers are
(DEDUCED from R317, log 27). -/
def execNodeUnaddressTimeout (n : Fin 64) (k : Fin 64) (s : State) : Host.Outcome State Fault Refusal :=
  let a := s.ringPort n.val
  let j := s.ringPos n.val k.val
  let x := s.node a j
  let dual := s.dualPair n.val
  if !s.fitted a j || x.sync || (dual && x.syncB) then .next s else
  let s := s.advanceTo ((if dual then max x.syncAt x.syncAtB else x.syncAt) + 320001)
  .next (s.updNode a j fun x => x.enter .unaddressed)

/-- A report sent by the node at position k of port n's ring goes on: each later node that forwards sends it unchanged (R313). -/
def State.forwardReport (s : State) (n k : Nat) (l : List PChar) : State :=
  let a := s.ringPort n
  let onB := s.onB n
  let later := ((List.range ((s.ringNodes a).length - 1 - k)).map (k + 1 + ·)).takeWhile fun i =>
    !(s.node a (s.ringPos n i)).breaks onB
  later.foldl (fun s i => s.updNode a (s.ringPos n i) fun x => { x with tx := l }) s

/-- The address in the break report that reaches the RX of port n: that of the last node that sends BRK, which those after it forward
(R313). -/
def State.ringReport (s : State) (n : Nat) : Option Byte :=
  let a := s.ringPort n
  let xs := (List.range (s.ringNodes a).length).map fun k => s.node a (s.ringPos n k)
  (xs.filter fun x => x.breaks (s.onB n)).getLast?.map Node.report

/-- BRK: a node whose RX has lost sync sends BRK with its address in place of forwarding (R313). -/
def execBrk (n : Fin 64) (k : Fin 64) (s : State) : Host.Outcome State Fault Refusal :=
  let a := s.ringPort n.val
  let j := s.ringPos n.val k.val
  let onB := s.onB n.val
  let x := s.node a j
  if !s.fitted a j || (if onB then x.syncB else x.sync) then .next s
  else
    let l : List PChar := [.brk, .data x.report]
    .next ((s.updNode a j fun x =>
      let y := { x with tx := l }
      if onB then { y with brkB := true } else { y with brk := true }).forwardReport n.val k.val l)

/-- BRK_END: a node whose RX has been in sync for 1 ms forwards again (R313). -/
def execBrkEnd (n : Fin 64) (k : Fin 64) (s : State) : Host.Outcome State Fault Refusal :=
  let a := s.ringPort n.val
  let j := s.ringPos n.val k.val
  let onB := s.onB n.val
  let x := s.node a j
  if !(if onB then x.syncB else x.sync) || !(if onB then x.brkB else x.brk) then .next s
  else
    let s := s.advanceTo ((if onB then x.syncAtB else x.syncAt) + 320000)
    .next (s.updNode a j fun x => if onB then { x with brkB := false } else { x with brk := false })

/-- The location that a break report gives (Table 13-13); none where the report is none of R314. -/
def breakLoc (from_ : Option Byte) : Option Nat :=
  match from_ with
  | none => some 0x20
  | some a => if a.toNat ≤ 31 then some a.toNat else if a.toNat = 0x3F then some 0x3E else none

/-- STATE of the ports of a dual pair follows the breaks of its rings (R317). -/
def State.pairState (s : State) (a : Nat) : State :=
  let A := (s.port a).broken
  let B := (s.port (a + 1)).broken
  (s.portState (a + 1) (if B then 3 else 2)).portState a (if A || B then 5 else 2)

/-- Port n's ring enters BREAK (R314, R317): a train of a dual pair whose other copy has ended is complete. -/
def State.enterBreak (s : State) (n : Nat) : State :=
  let a := s.ringPort n
  let s := s.updPort n fun p => { p with brk := true, broken := true, eotOk := false }
  let s := (if s.dualPair n then s.pairState a else s.portState n 3).fcuEvent (0xC00 + 8 * n + 2)
  let other := if n = a then a + 1 else a
  if s.dualPair n && s.trainOut a && (s.port other).rxd.isSome then
    s.trainDone a ((s.port a).rxd.getD []) ((s.port (a + 1)).rxd.getD []) false
  else s

/-- A break of port n's ring at a location (R314, R317): a running ring enters BREAK once, and an enumeration ends in MISMATCH. -/
def State.breakAt (s : State) (n loc : Nat) : State :=
  let a := s.ringPort n
  let s := s.updPort a fun p => if n = a then { p with loca := loc } else { p with locb := loc }
  let st := (s.port a).st
  if (s.port n).broken then s
  else if st = 2 ∨ st = 5 then s.enterBreak n
  else
    let s := s.fcuEvent (0xC00 + 8 * n + 2)
    if st = 1 then s.portState a 4 else s

/-- BREAK_DETECTED: the port receives BRK, or its RX is silent (R314). With EN = 0 it records nothing. The report is that of the last
of the ring's nodes that sends one (R313); from_ is what comes otherwise (log 27). -/
def execBreakDetected (n : Fin 64) (from_ : Option Byte) (s : State) : Host.Outcome State Fault Refusal :=
  let p := s.port n.val
  let en := (s.port (s.ringPort n.val)).en
  let got := if p.sync then (s.ringReport n.val).or from_ else from_
  match breakLoc got with
  | none => .next s
  | some loc => .next (if !en || (got.isNone && p.sync) then s else s.breakAt n.val loc)

/-- BREAK_RECOVERY: RX has held sync for 1 ms and a train has ended by EOT (R314, R317). -/
def execBreakRecovery (n : Fin 64) (s : State) : Host.Outcome State Fault Refusal :=
  let a := s.ringPort n.val
  match (s.port n.val).syncAt with
  | none => .next s
  | some t =>
    if !(s.port n.val).eotOk || !(s.port n.val).broken then .next s else
    let s := s.advanceTo (t + 320000)
    let s := s.updPort n.val fun p => { p with broken := false }
    let s := s.updPort a fun p => if n.val = a then { p with loca := 0x3F } else { p with locb := 0x3F }
    .next (if s.dualPair n.val then s.pairState a else s.portState n.val 2)

/-- Management trains pass ring A, and ring B of a dual pair: every receiver is in sync and no node sends BRK (R310, R313); in FATAL
hold the port sends only IDLE (R380). -/
def State.ringWhole (s : State) (n : Nat) : Bool :=
  let dual := (s.port n).dual
  !s.fcu.fatal && (s.port n).sync && (!dual || (s.port (n + 1)).sync) &&
    (s.ringNodes n).all fun k =>
      let x := s.node n k
      x.sync && !x.brk && (!dual || (x.syncB && !x.brkB))

/-- The words of a descriptor in a CONFIG payload (Table 13-9). -/
def Desc.config (d : Desc) : List Byte :=
  BitVec.ofNat 8 (128 * b2n d.en + d.d % 64) :: BitVec.ofNat 8 d.u :: (bytesBE 2 d.sdly ++ bytesBE 2 d.adly)

/-- L of a node as its identity record gives it. -/
def Node.lat (x : Node) : Nat := field x.ident 6 1

/-- Sum of L over nodes of ring n in a list. -/
def State.latSum (s : State) (n : Nat) (ks : List Nat) : Nat := ks.foldl (fun a k => a + (s.node n k).lat) 0

/-- CONFIG payload of node k of N on port n (R307, R316, Table 13-9). TNODE is the firmware's: a free value, at least 1. -/
def State.configFor (s : State) (n N k tnode : Nat) : List Byte :=
  let before := s.latSum n (List.range k)
  let after := if (s.port n).dual then s.latSum n ((List.range N).drop (k + 1)) else 0
  bytesBE 2 before ++ bytesBE 2 after ++ bytesBE 2 tnode ++
    (List.range 16).flatMap fun j => (Tbl.get Desc.reset (s.port n).descs j).config

/-- CHP_NODE of a node with this identity record (Table 13-19). -/
def nodeWord (i : List Byte) : Word :=
  pack [(31, 1), (30, field i 7 1 % 2), (24, field i 6 1 % 32), (16, field i 4 1), (0, field i 0 2)]

/-- A port's trains stop: one in flight leaves TX no more and completes by timeout (R301, R312, R435). -/
def ChPort.halt (p : ChPort) : ChPort := { p with wire := [], broken := false, train := p.train.map fun t => { t with sent := true } }

/-- Ports n and n + 1 become a dual ring: the nodes that the odd port's ring passes are those of ring A in reverse order (R315). -/
def State.joinRings (s : State) (n : Nat) : State :=
  let N := (s.ringNodes n).length
  let far (k : Nat) : Node := s.node (n + 1) (N - 1 - k)
  let s := (s.ringNodes n).foldl (fun s k => s.updNode n k fun x =>
    { x with syncB := (far k).sync, syncAtB := (far k).syncAt, brkB := (far k).brk }) s
  { s with nodes := s.nodes.filter fun e => e.1 / 64 != n + 1 }

/-- A dual ring becomes two single ones: the odd port's ring passes the same nodes by their other links, without an address on it
(log 27). -/
def State.partRings (s : State) (n : Nat) : State :=
  let ks := s.ringNodes n
  ks.foldl (fun s k =>
    let x := s.node n k
    (s.updNode (n + 1) (ks.length - 1 - k) fun _ =>
      { Node.reset with ident := x.ident, sync := x.syncB, syncAt := x.syncAtB, brk := x.brkB }).updNode n k fun x =>
      { x with syncB := false, syncAtB := 0, brkB := false }) s

/-- Step 1 of R311: the port is in ENUM. DUAL is taken over; an odd port that leaves a pair is OFF until it is enumerated itself
(R315, R435). -/
def State.enumStart (s : State) (n : Nat) : State :=
  let was := (s.port n).dualNow
  let dual := (s.port n).dual
  let s := (s.updPort n fun p => { p.halt with dualNow := p.dual }).portState n 1
  let s := if was || dual then s.updPort (n + 1) ChPort.halt else s
  let s := if dual && !was then (s.updPort (n + 1) fun p => { p with rxd := none }).joinRings n else s
  if was && !dual then (s.partRings n).portState (n + 1) 0 else s

/-- A management train passes the nodes at these positions of ring port a, in order (R305, R309, R310): the train as it returns. -/
def State.passNodes (s : State) (a : Nat) (onB : Bool) (js : List Nat) (t : MgmtTrain) : MgmtTrain × State :=
  js.foldl (fun (r : MgmtTrain × State) j =>
    let (x, t) := (r.2.node a j).manage onB r.1
    (t, r.2.updNode a j fun _ => { x with tx := mgmtChars t })) (t, s)

/-- The CONFIG trains of R311, one for each node, until one is not accepted: whether all were. -/
def State.configNodes (s : State) (n N tnode : Nat) (ks : List Nat) : List Nat → Bool × State
  | [] => (true, s)
  | k :: rest =>
    let r := s.passNodes n false ks (mgmtTrain 0x03 k 4 (s.configFor n N k tnode) N)
    if mgmtResponse r.1 k = some [0, 0, 0, 0] then r.2.configNodes n N tnode ks rest else (false, r.2)

/-- What an ENUM found agrees with NEXP, the journal and DUAL (R311, R315). -/
def State.ringAgrees (s : State) (n N : Nat) (ids : List (Nat × Option (List Byte))) (learn : Bool) : Bool :=
  let p := s.port n
  (p.nexp == 0 || p.nexp == N) && ids.all fun e =>
    match e.2 with
    | none => false
    | some i =>
      (!p.dual || field i 7 1 % 2 == 1) &&
        (learn || match Tbl.find s.nvm.chainIds (n * 32 + e.1) with
          | some j => decide (i = j)
          | none => true)

/-- The end of an enumeration that agrees: RELEASE, and STATE is RUN (R311). -/
def State.enumDone (s : State) (n N : Nat) (ks : List Nat) (ids : List (Nat × List Byte)) (learn : Bool) : State :=
  let s := (s.passNodes n false ks (mgmtTrain 0x04 0xFF 0 [] N)).2
  let s := if learn then s.updNvm fun v =>
      { v with chainIds := ids.foldl (fun (t : Tbl (List Byte)) e => Tbl.set t (n * 32 + e.1) e.2) v.chainIds }
    else s
  let s := s.updPort n fun p => { p with nodes := N, loca := 0x3F, locb := 0x3F }
  let s := if (s.port n).dual then s.portState (n + 1) 2 else s
  s.portState n 2

/-- Steps 2 to 5 of R311 and what Cairn writes. With learn, the identities found become the journal's (R355). -/
def State.enumRun (s : State) (n : Nat) (learn : Bool) : State :=
  if (s.port n).st != 1 then s
  else if !s.ringWhole n then s.portState n 4
  else
    let ks := s.ringNodes n
    let old := (s.port n).nodes
    let (t, s) := s.passNodes n false ks (mgmtTrain 0x01 0xFF 0 [] old)
    let s := if (s.port n).dual then (s.passNodes n true ks.reverse (mgmtTrain 0x01 0xFF 0 [] old)).2 else s
    let N := t.cnt.toNat
    let (loop, s) := s.draw
    let (tn, s) := s.draw
    let s := if (s.port n).dual then s.updPort (n + 1) fun p => { p with loop := loop.toNat / 65536 } else s
    let s := s.updPort n fun p => { p with loop := loop.toNat % 65536 }
    if 32 < N then s.portState n 4
    else
      let (t, s) := s.passNodes n false ks (mgmtTrain 0x02 0xFF 32 [] N)
      let found := (List.range N).map fun k => (k, mgmtResponse t k)
      let ids := found.filterMap fun e => e.2.map fun i => (e.1, i)
      let s := s.updPort n fun p => { p with idents := ids, ntab := ids.map fun e => (e.1, nodeWord e.2) }
      if !s.ringAgrees n N found learn then s.portState n 4
      else
        let (ok, s) := s.configNodes n N (max 1 (tn.toNat % 65536)) ks (List.range N)
        if ok then s.enumDone n N ks ids learn else s.portState n 4

/-- The odd port of the pair with even port n stops: the pair is one no more, and its trains run on ring A alone until the next
enumeration joins the rings again. DESIGN CHOICE (log 46). -/
def State.partPair (s : State) (n : Nat) : State :=
  let s := (s.partRings n).updPort n fun p => { p with dualNow := false }
  if (s.port n).st = 5 then s.portState n (if (s.port n).broken then 3 else 2) else s

/-- The port stops: it sends nothing, STATE is OFF and its nodes fall to UNADDRESSED (R435, R312). A train in flight completes by
timeout (R301). -/
def State.portOff (s : State) (n : Nat) : State :=
  let s := if s.onB n then s.partPair (n - 1) else s
  let s := (List.range 64).foldl (fun s k => if s.fitted n k then s.updNode n k fun x => x.enter .unaddressed else s) s
  let s := if (s.port n).dualNow then (s.updPort (n + 1) ChPort.halt).portState (n + 1) 0 else s
  (s.updPort n ChPort.halt).portState n 0

end Sys2Proof.Machine
end

