-- ==== Sys2Proof/Machine/Cairn.lean ====
section
/-!
DEFINITION. Cairn's services (15, 18): the protection of packets, sessions and replies, the hold-up check and the
journal commit, jobs, and the command queue.
-/

namespace Sys2Proof.Machine

/-- Bytes of a word, most significant first (R336). -/
def be (w : Word) : List Byte := bytesBE 4 w.toNat

/-- Status values (Table 15-6). -/
def stOk : Nat := 0x0000
/-- ACCEPTED. -/
def stAccepted : Nat := 0x0001
/-- UNKNOWN_OP. -/
def stUnknownOp : Nat := 0x0100
/-- BAD_LEN. -/
def stBadLen : Nat := 0x0101
/-- BAD_PARAM. -/
def stBadParam : Nat := 0x0102
/-- BAD_STATE. -/
def stBadState : Nat := 0x0103
/-- DENIED. -/
def stDenied : Nat := 0x0104
/-- RESOURCE_BUSY. -/
def stBusy : Nat := 0x0105
/-- JOBS_FULL. -/
def stJobsFull : Nat := 0x0106
/-- TOO_LATE. -/
def stTooLate : Nat := 0x0107
/-- TIMEOUT. -/
def stTimeout : Nat := 0x0108
/-- ABORTED. -/
def stAborted : Nat := 0x0109
/-- RIDGE_BUSY. -/
def stRidgeBusy : Nat := 0x0200
/-- CORE_BUSY. -/
def stCoreBusy : Nat := 0x0201
/-- MASSIF_MISMATCH. -/
def stMassif : Nat := 0x0202
/-- NO_SPARE. -/
def stNoSpare : Nat := 0x0203
/-- HOLDUP_LOW. -/
def stHoldup : Nat := 0x0300
/-- NVM_FAIL. -/
def stNvmFail : Nat := 0x0301
/-- IMAGE_BAD. -/
def stImageBad : Nat := 0x0302
/-- CRED_UNKNOWN. -/
def stCredUnknown : Nat := 0x0400
/-- SIG_BAD. -/
def stSigBad : Nat := 0x0401
/-- SESSION_LIMIT. -/
def stSessionLimit : Nat := 0x0402

/-- The 16-byte packet header (Table 15-1). -/
def packetHeader (flags sid seq op plen : Nat) : List Byte :=
  [0x4A, 0x4B, 0x01, BitVec.ofNat 8 flags] ++ bytesBE 4 sid ++ bytesBE 4 seq ++ bytesBE 2 op ++ bytesBE 2 plen

/-- The nonce of a packet: salt, four zero bytes, SEQ (R338). -/
def packetNonce (salt : List Byte) (seq : Nat) : List Byte := salt ++ [0, 0, 0, 0] ++ bytesBE 4 seq

/-- Bytes XOR the key stream: GCM encrypts and decrypts alike (R338). -/
def gcmCrypt (key nonce : List Byte) (l : List Byte) : List Byte :=
  (List.range l.length).map fun i => at_ l i 0 ^^^ Config.keyStream key nonce i

/-- The 16 tag bytes. -/
def gcmTagBytes (key nonce aad cipher : List Byte) : List Byte := bytesBE 16 (Config.gcmTag key nonce aad cipher).toNat

/-- A protected packet (R338). -/
def sealPacket (key salt hdr plain : List Byte) (seq : Nat) : List Byte :=
  let c := gcmCrypt key (packetNonce salt seq) plain
  hdr ++ c ++ gcmTagBytes key (packetNonce salt seq) hdr c

/-- The tag of a packet in clear: the first 16 bytes of SHA-384 over header and payload (R338). -/
def clearTag (l : List Byte) : List Byte := (bytesBE 48 (Config.sha384 l).toNat).take 16

/-- Keys of a session: Kc, Kd, Sc, Sd (R342). -/
def Session.kc (x : Session) : List Byte := x.keys.take 32
/-- Device-to-client key. -/
def Session.kd (x : Session) : List Byte := (x.keys.drop 32).take 32
/-- Client-to-device salt. -/
def Session.sc (x : Session) : List Byte := (x.keys.drop 64).take 4
/-- Device-to-client salt. -/
def Session.sd (x : Session) : List Byte := (x.keys.drop 68).take 4

/-- The session of an identifier. -/
def State.session (s : State) (sid : BitVec 32) : Option Session := s.cairn.sessions.find? fun x => x.sid == sid

/-- A session updated. -/
def State.updSession (s : State) (sid : BitVec 32) (f : Session → Session) : State :=
  s.updCairn fun c => { c with sessions := c.sessions.map fun x => if x.sid = sid then f x else x }

/-- Largest PLEN of a transport (Table 15-2). -/
def plenLimit (via : Transport) : Nat :=
  match via with
  | .host => 4096
  | _ => 1440

/-- Ethernet and the station ring transmit (R335, R380). -/
def State.netSends (s : State) : Bool := !s.fcu.fatal && (s.pwr.st == .run || s.pwr.st == .standby)

/-- A mailbox message of Cairn's MB15 to MB15 of a ring address (R332). -/
def State.ringMessage (s : State) (dst : Nat) (msg : List Byte) : State :=
  if !s.ringSends then s else
  let seq := ((s.mbox 15).seq + 1) % 256
  (s.updMbox 15 fun b => { b with seq := seq, sent := msg }).updRing fun x => x.emit
    { typ := 0, src := BitVec.ofNat 6 x.addr, dst := BitVec.ofNat 7 dst, seq := BitVec.ofNat 8 seq, b5 := 0xFF, payload := msg
      len := 0, crc := 0 }

/-- A packet as ring messages of up to 255 packet bytes: index, and MORE on all but the last (R339). -/
def fragments (l : List Byte) : List (List Byte) :=
  let n := (l.length + 254) / 255
  (List.range n).map fun i => BitVec.ofNat 8 ((if i + 1 < n then 128 else 0) + i) :: (l.drop (255 * i)).take 255

/-- A packet goes to MB15 of a ring address (R339, R358). -/
def State.ringPacket (s : State) (dst : Nat) (l : List Byte) : State :=
  (fragments l).foldl (fun (s : State) m => s.ringMessage dst m) s

/-- The ways that a packet takes: on a PRP or HSR pair it leaves on both ports (R339, R327); a port that is off sends nothing. -/
def State.waysOut (s : State) (via : Transport) : List Transport :=
  match via with
  | .eth p addr port =>
    let red := (s.eth (p.val / 2 * 2)).red
    ((List.finRange 4).filter fun q =>
      (q == p || ((red == 1 || red == 2) && q.val / 2 == p.val / 2)) && (s.eth q.val).en && (s.eth q.val).link).map fun q =>
        .eth q addr port
  | v => [v]

/-- A packet leaves on a transport (R339): the host port keeps four replies and discards the oldest (R334). -/
def State.sendOn (s : State) (via : Transport) (b : List Byte) : State :=
  match via with
  | .host =>
    let h := s.host
    if h.replies.length < 4 then { s with host := { h with replies := h.replies ++ [b] } }
    else { s with host := { h with replies := h.replies.drop 1 ++ [b], err := true } }
  | _ =>
    if !s.netSends then s else
    let s := s.updCairn fun c => { c with outbox := (s.waysOut via).map (fun v => (v, b)) ++ c.outbox }
    match via with
    | .ring d => s.ringPacket d.toNat b
    | _ => s

/-- The 8-byte prefix of a reply (R337). -/
def replyPrefix (status cseq : Nat) : List Byte := bytesBE 2 status ++ [0, 0] ++ bytesBE 4 cseq

/-- A reply of a session (R337, R338, R343, R344). A status other than OK and ACCEPTED carries no data, and a reply too long for
the transport becomes BAD_LEN (R339). kept: Cairn keeps it among the last 8. -/
def State.reply (s : State) (sid : BitVec 32) (cseq : Nat) (via : Transport) (flags op status : Nat) (data : List Byte)
    (kept : Bool) : State :=
  match s.session sid with
  | none => s
  | some x =>
    if 2 ^ 32 ≤ x.dseq then s else
    let data := if status = stOk ∨ status = stAccepted then data else []
    let long := decide (plenLimit via < 8 + data.length)
    let pay := if long then replyPrefix stBadLen cseq else replyPrefix status cseq ++ data
    let pkt := sealPacket x.kd x.sd (packetHeader flags sid.toNat x.dseq op pay.length) pay x.dseq
    let keep (l : List (Nat × List Byte)) : List (Nat × List Byte) := if kept then ((cseq, pkt) :: l).take 8 else l
    (s.updSession sid fun x => { x with dseq := x.dseq + 1, kept := keep x.kept }).sendOn via pkt

/-- Group and minimum role of an opcode (Table 15-5): 0 OBS, 1 OPR, 2 ENG, 3 CUS; none where it is not defined. -/
def minRole (op : Nat) : Option Nat :=
  if op = 0x0002 ∨ (3 ≤ op ∧ op ≤ 7) then some 0
  else if op = 0x0101 ∨ op = 0x0104 ∨ (0x0106 ≤ op ∧ op ≤ 0x010A) then some 2
  else if op = 0x0102 ∨ op = 0x0103 then some 1
  else if op = 0x0105 then some 0
  else if (0x0201 ≤ op ∧ op ≤ 0x0203) ∨ op = 0x0205 then some 2
  else if op = 0x0204 then some 0
  else if op = 0x0301 ∨ op = 0x0302 ∨ (0x0304 ≤ op ∧ op ≤ 0x0307) then some 2
  else if op = 0x0303 ∨ op = 0x0308 ∨ op = 0x0309 then some 0
  else if op = 0x0401 ∨ op = 0x0402 ∨ op = 0x0501 ∨ op = 0x0502 then some 2
  else if op = 0x0403 ∨ op = 0x0503 ∨ op = 0x0504 ∨ op = 0x0601 ∨ op = 0x0604 then some 0
  else if op = 0x0602 ∨ op = 0x0605 ∨ op = 0x0701 then some 1
  else if op = 0x0603 ∨ (0x0606 ≤ op ∧ op ≤ 0x0608) ∨ op = 0x0702 ∨ op = 0x0703 then some 2
  else if op = 0x0704 ∨ op = 0x0805 then some 0
  else if (0x0801 ≤ op ∧ op ≤ 0x0804) ∨ (0x0901 ≤ op ∧ op ≤ 0x0907) then some 3
  else if op = 0x0A01 ∨ op = 0x0A04 then some 0
  else if op = 0x0A02 ∨ op = 0x0A03 then some 2
  else none

/-- The lifecycle state and recovery let an opcode run (R347, R389). -/
def State.groupRuns (s : State) (op : Nat) : Bool :=
  let g := op / 256
  let life :=
    if s.nvm.lc = 0 then g = 0 || g = 8 || g = 9
    else if s.nvm.lc = 3 then g = 0 || op = 0x0601 || op = 0x0604 || g = 9
    else true
  let rec_ := !s.cairn.recovery || (1 ≤ op && op ≤ 4) || op = 7 || g = 8
  life && rec_

/-- The opcodes that Cairn executes in FATAL hold (R380). -/
def fatalOp (op : Nat) : Bool := op / 256 == 0 || op == 0x0601 || op == 0x0604

/-- Step 5 of R341: the first refusal, in its order; in FATAL hold every other opcode than its own is BAD_STATE (R380). -/
def State.gateOp (s : State) (x : Session) (op : Nat) : Option Nat :=
  if s.fcu.fatal && !fatalOp op then some stBadState else
  match minRole op with
  | none => some stUnknownOp
  | some m =>
    if x.role < m then some stDenied
    else if !s.groupRuns op then some stBadState
    else if x.open_ == decide (op = 0x0002) then some stBadState
    else none

/-- Cairn takes packets: it runs, and start-up is complete or the boot ROM is in recovery (R21, R389, R391). -/
def State.cairnServes (s : State) : Bool :=
  !s.cairn.halted && s.pwr.st != .off && (s.cairn.ready || s.cairn.recovery)

/-- Cairn executes an opcode of a session and replies (R341 steps 5 to 7, R348): f answers status, reply data and state. -/
def State.perform (s : State) (o : Origin) (op : Nat) (f : State → Nat × List Byte × State) : State :=
  if !s.cairnServes then s else
  match s.session o.session with
  | none => s
  | some x =>
    match s.gateOp x op with
    | some e => s.reply o.session o.seq.toNat o.via 0x80 op e [] true
    | none =>
      let r := f s
      r.2.2.reply o.session o.seq.toNat o.via (if r.1 = stAccepted then 0xC0 else 0x80) op r.1 r.2.1 true

/-- As perform, for a command whose reply follows an operation that is still to come: f answers a refusal or nothing. -/
def State.performLater (s : State) (o : Origin) (op : Nat) (f : State → Option Nat × State) : State :=
  if !s.cairnServes then s else
  match s.session o.session with
  | none => s
  | some x =>
    match s.gateOp x op with
    | some e => s.reply o.session o.seq.toNat o.via 0x80 op e [] true
    | none =>
      match f s with
      | (some e, s) => s.reply o.session o.seq.toNat o.via 0x80 op e [] true
      | (none, s) => s

/-- An opcode refused with a status. -/
def refuse (s : State) (status : Nat) : Nat × List Byte × State := (status, [], s)

/-- The board record that these bytes are, where MAGIC, VERSION and CRC-32C are correct (R388, Table 18-2: little-endian). -/
def boardOf (l : List Byte) : Option Board :=
  let f (i n : Nat) : Nat := ofBytesLE ((l.drop i).take n)
  if l.length ≠ 32 ∨ f 0 4 ≠ 0x42524431 ∨ f 4 2 ≠ 1 ∨ f 28 4 ≠ crc32c (l.take 28) then none
  else some { huK := f 6 2, huC := f 8 4, huVmin := f 12 2, huEta := f 14 1, bistEn := bitOf (f 15 1) 0, huPboard := f 16 4
              huEtrans := f 20 4, huPflash := f 24 2 }

/-- The board record that Cairn uses: flash A's when it is valid, else flash B's (R388). -/
def Nvm.board (v : Nvm) : Option Board := (boardOf v.boardA).or (boardOf v.boardB)

/-- The areas of a flash (Table 18-1). -/
inductive FlashArea where
  | board
  | fw (slot : Fin 2)
  | sealed (half : Fin 2)
  | journal (area : Fin 2)
  | faultLog
  | image (slot : Fin 64)
  deriving DecidableEq, Repr

/-- Offset and size in bytes of an area in each flash (Table 18-1). -/
def FlashArea.place : FlashArea → Nat × Nat
  | .board => (0, 0x10000)
  | .fw k => (0x10000 + 0x40000 * k.val, 0x40000)
  | .sealed k => (0x90000 + 0x8000 * k.val, 0x8000)
  | .journal k => (0xA0000 + 0x100000 * k.val, 0x100000)
  | .faultLog => (0x2A0000, 0x100000)
  | .image k => (0x3A0000 + 0x38000 * k.val, 0x38000)

/-- What slots 0 and 1 hold, as active and standby (R390, R409). -/
def Nvm.byRole (v : Nvm) (slots : Option Firmware × Option Firmware) : Option Firmware × Option Firmware :=
  if v.fwRole then (slots.2, slots.1) else slots

/-- The active firmware slot of flash A. -/
def Nvm.fwActive (v : Nvm) : Option Firmware := (v.byRole v.fwA).1

/-- The standby firmware slot of flash A. -/
def Nvm.fwStandby (v : Nvm) : Option Firmware := (v.byRole v.fwA).2

/-- The active firmware slot of flash B. -/
def Nvm.fwActiveB (v : Nvm) : Option Firmware := (v.byRole v.fwB).1

/-- The standby firmware slot of flash B. -/
def Nvm.fwStandbyB (v : Nvm) : Option Firmware := (v.byRole v.fwB).2

/-- A firmware image goes into the standby slot of both flashes. -/
def Nvm.putStandby (v : Nvm) (f : Firmware) : Nvm :=
  let put (x : Option Firmware × Option Firmware) : Option Firmware × Option Firmware :=
    if v.fwRole then (some f, x.2) else (x.1, some f)
  { v with fwA := put v.fwA, fwB := put v.fwB }

/-- The firmware slots exchange their roles, in both flashes (R409). -/
def Nvm.swapRoles (v : Nvm) : Nvm := { v with fwRole := !v.fwRole }

/-- t_PP of the flashes that have an SFDP table, the longer one where both have (R387, R407, log 7). -/
def Nvm.tpp (v : Nvm) : Option Nat :=
  match v.sfdpA, v.sfdpB with
  | some a, some b => some (max a.tpp b.tpp)
  | some a, none => some a.tpp
  | none, b => b.map (·.tpp)

/-- The changes that the journal records, oldest first. -/
def Nvm.records (v : Nvm) : List JRec := v.journal.flatMap (·.recs)

/-- Squares and sums of R407 in exact integers. P is p_hold in mW, times in microseconds. -/
def Board.pHold (b : Board) : Nat := 350 + b.huPboard + b.huPflash

/-- E_commit in nJ. -/
def Board.eCommit (b : Board) (tpp : Nat) : Nat := b.pHold * (2 * (tpp + 100))

/-- E_res in nJ. -/
def Board.eRes (b : Board) (tpp : Nat) : Nat := b.pHold * (2 * (5 * tpp + 100)) + 1000 * (2200 + b.huEtrans)

/-- E_avail in nJ as a fraction: numerator and denominator. -/
def Board.eAvail (b : Board) (code : Nat) : Nat × Nat :=
  let v := 49 * code * b.huK
  let d := 2048000 * 2048000
  (b.huEta * b.huC * (v * v * 1000000 - b.huVmin * b.huVmin * d), 200 * d * 1000)

/-- The hold-up check passes, with extra nJ of energy to spare (R407, R409). -/
def State.holdupOk (s : State) (extra : Nat) : Bool :=
  match s.nvm.board, s.nvm.tpp with
  | some b, some t =>
    let a := b.eAvail s.pwr.code
    decide ((b.eRes t + b.eCommit t + extra) * a.2 ≤ a.1)
  | _, _ => false

/-- HOLDUP_SENSE is sampled (R405, R407). -/
def State.sampleSense (s : State) : State := s.updPwr fun p => { p with code := p.sense }

/-- One flash takes a marker, or fails and is DEGRADED with its source (R405). -/
def State.markFlash (s : State) (isA bad : Bool) : Bool × State :=
  if 2 ≤ (if isA then s.pwr.flashA else s.pwr.flashB) then (false, s)
  else if bad then
    (false, (s.updPwr fun p => if isA then { p with flashA := 1 } else { p with flashB := 1 }).fcuEvent 0xF73)
  else (true, s)

/-- Steps 2 and 3 of R405: the status, none where the commit counts as made, and whether flash A and flash B hold the marker. -/
def State.markBoth (s : State) (extra : Nat) : Option Nat × Bool × Bool × State :=
  let s := s.sampleSense
  if !s.holdupOk extra then (some stHoldup, false, false, s.updPwr fun p => { p with refused := satInc 16 p.refused })
  else
    let (a, s) := s.markFlash true s.nvm.badA
    let (b, s) := s.markFlash false s.nvm.badB
    (if a || b then none else some stNvmFail, a, b, s)

/-- Steps 2 and 3 of R405 for data outside the journal. -/
def State.marker (s : State) (extra : Nat) : Option Nat × State :=
  let m := s.markBoth extra
  (m.1, m.2.2.2)

/-- A journal record of these changes is committed (R405). fresh: a checkpoint, which begins the other area. -/
def State.commitTo (s : State) (l : List JRec) (extra : Nat) (fresh : Bool) : Option Nat × State :=
  match s.markBoth extra with
  | (some e, _, _, s) => (some e, s)
  | (none, a, b, s) =>
    let n := (s.nvm.jnum + 1) % 2 ^ 32
    let x : JEntry := { seq := n, recs := l, crcOk := true, onA := a, onB := b }
    (none, (s.updNvm fun v =>
      { v with journal := if fresh then [x] else v.journal ++ [x]
               jnum := n, jareaY := v.jareaY != fresh
               jused := (if fresh then 0 else v.jused) + Config.recordPages n }).updPwr fun p => { p with jseq := n })

/-- An area of 1 MiB has 4,096 pages: when three quarters are used, a checkpoint of the whole configuration goes into the other area and
the old one is erased (R405). It comes before the next commit or status (log 7). -/
def State.checkpoint (s : State) : State :=
  if s.nvm.jused < 3072 then s else (s.commitTo s.nvm.records 0 true).2

/-- A journal record of these commands is committed (R348, R405). -/
def State.commit (s : State) (l : List JRec) (extra : Nat := 0) : Option Nat × State := s.checkpoint.commitTo l extra false

/-- A journaled short command: commit, then the change, then OK (R348). -/
def State.journaled (s : State) (i : JRec) (f : State → State) : Nat × List Byte × State :=
  match s.commit [i] with
  | (some e, s) => refuse s e
  | (none, s) => (stOk, [], f s)

/-- Eight jobs run (R349). -/
def State.jobsFull (s : State) : Bool := decide (8 ≤ s.cairn.jobs.length)

/-- A new L command is refused for the number of jobs or a waiting swap (R349, R359). -/
def State.jobRefusal (s : State) : Option Nat :=
  if s.cairn.fwSwap then some stBusy else if s.jobsFull then some stJobsFull else none

/-- A job starts; its number is the one data byte of the interim reply (R348). -/
def State.startJob (s : State) (o : Origin) (op : Nat) (w : JobWork) : Nat × List Byte × State :=
  let n := s.cairn.nextJob % 256
  (stAccepted, [BitVec.ofNat 8 n], s.updCairn fun c =>
    { c with nextJob := n + 1
             jobs := c.jobs ++ [{ num := n, session := o.session, opcode := op, cseq := o.seq.toNat, work := w,
                                  status := none, aborted := false, pct := 0 }] })

/-- A job ends: it joins the last 16 finished jobs and its final reply goes to the session's latest origin (R348, R349). -/
def State.finishJob (s : State) (j : Job) (status : Nat) (data : List Byte) : State :=
  let done : Job := { j with status := some status, pct := 100 }
  let s := s.updCairn fun c =>
    { c with jobs := c.jobs.filter fun k => k.num != j.num, finished := (done :: c.finished).take 16 }
  match s.session j.session with
  | none => s
  | some x => s.reply j.session j.cseq x.via 0x80 j.opcode status data false

/-- Some running job's work satisfies p. -/
def State.jobHolds (s : State) (p : JobWork → Bool) : Bool := s.cairn.jobs.any fun j => p j.work

/-- The job holds ridge r (R349). -/
def JobWork.holdsRidge (r : Nat) : JobWork → Bool
  | .form x .. => x.toNat == r
  | .dissolve x => x.toNat == r
  | .reload x .. => x.toNat == r
  | _ => false

/-- The job holds image slot i. -/
def JobWork.holdsSlot (i : Nat) : JobWork → Bool
  | .form _ _ _ _ _ _ _ x _ => x.toNat == i
  | .reload _ x _ => x.toNat == i
  | .imgEnd x => x.toNat == i
  | .imgErase x => x.toNat == i
  | _ => false

/-- The job checks the image whose upload has ended (R353). -/
def JobWork.endsImage : JobWork → Bool
  | .imgEnd _ => true
  | _ => false

/-- The job holds chain port n. -/
def JobWork.holdsPort (n : Nat) : JobWork → Bool
  | .chpEnum x _ => x.toNat == n
  | _ => false

/-- The job holds core c. -/
def JobWork.holdsCore (c : Nat) : JobWork → Bool
  | .coreTest x => x.toNat == c
  | .form _ _ a b d .. => a.toNat == c || b.toNat == c || d.toNat == c
  | _ => false

/-- The members of ridge r, and those that a test in place has taken from it (R193). -/
def State.coresOf (s : State) (r : Nat) : List Nat :=
  ((s.ridge r).valid.map Prod.snd) ++ (List.range 64).filter fun c => (s.core c).testFor == some .inPlace && (s.core c).ridge == r

/-- A FORM, RELOAD or CORE_TEST on ridge r or its cores (R349). -/
def State.abortable (s : State) (r : Nat) (w : JobWork) : Bool :=
  match w with
  | .form x .. => x.toNat == r
  | .reload x .. => x.toNat == r
  | .coreTest x => (s.coresOf r).contains x.toNat
  | _ => false

/-- Some job would end with the halt or dissolution of ridge r (R349). -/
def State.jobsToAbort (s : State) (r : Nat) : Bool := s.jobHolds (s.abortable r)

/-- A FORM, RELOAD or CORE_TEST job on ridge r or its cores ends with ABORTED (R349). -/
def State.abortJobs (s : State) (r : Nat) : State :=
  (s.cairn.jobs.filter fun j => s.abortable r j.work).foldl (fun s j => s.finishJob { j with aborted := true } stAborted []) s

/-- A batch in progress holds the domain (R349). -/
def State.domHeld (s : State) (d : Nat) : Bool :=
  s.jobHolds fun w => match w with
    | .astCommit x .. => x == d
    | _ => false

/-- A session ends: its keys, replies, open batch and open upload go (R345); an upload that a job checks stays (R349). -/
def State.endSession (s : State) (sid : BitVec 32) : State :=
  let s := s.updCairn fun c =>
    { c with sessions := c.sessions.filter fun x => x.sid != sid
             img := match c.img with
               | some i => if i.2.2.2.2 = sid && !(c.jobs.any fun j => j.work.endsImage) then none else some i
               | none => none }
  match s.ast.batch with
  | some b => if b.1 = sid then { s with ast := { s.ast with batch := none } } else s
  | none => s

/-- Every session ends. -/
def State.endSessions (s : State) : State := s.cairn.sessions.foldl (fun s x => s.endSession x.sid) s

/-- A received packet enters the command queue, or is dropped when it is full (R340). Before start-up is complete it is dropped
(R391), but the boot ROM in recovery takes those of the host port (R389). -/
def State.enqueue (s : State) (p : Packet) : State :=
  if !s.cairn.ready && !(s.cairn.recovery && p.via == .host) then s
  else if s.cairn.queue.length < 32 then s.updCairn fun c => { c with queue := c.queue ++ [p] }
  else s.updCairn fun c => { c with dropped := satInc 16 c.dropped }

/-- COMMAND_QUEUE_ENTRY (R340). A host-port packet waits in its port and is never dropped for a full queue. -/
def execCommandQueueEntry (p : Packet) (s : State) : Host.Outcome State Fault Refusal :=
  .next (if p.via = .host ∧ 32 ≤ s.cairn.queue.length then s else s.enqueue p)

end Sys2Proof.Machine
end

