-- ==== Sys2Proof/Machine/Session.lean ====
section
/-!
DEFINITION. The session commands 0x0001 to 0x0007 and the ends of sessions (15).
-/

namespace Sys2Proof.Machine

/-- Registers of the register view at offsets, as reply data (R336). -/
def State.regBytes (s : State) (l : List Nat) : List Byte := l.flatMap fun o => be ((s.regRead o).getD 0)

/-- A packet that fails step 1 of R341 is counted. -/
def State.countMalformed (s : State) : State := s.updCairn fun c => { c with malformed := satInc 16 c.malformed }

/-- Steps 1 of R341 that every packet meets: MAGIC, VER, FLAGS, length, PLEN within the limit. -/
def packetWellFormed (p : Packet) : Bool :=
  let b := p.bytes
  let plen := field b 14 2
  decide (32 ≤ b.length) && field b 0 2 == 0x4A4B && field b 2 1 == 1 && field b 3 1 == 0 &&
    b.length == 32 + plen && decide (plen ≤ plenLimit p.via)

/-- Step 1 of R341 for HELLO: PLEN 213, SESSION 0, SEQ 0, and the tag in clear. -/
def helloWellFormed (p : Packet) : Bool :=
  let b := p.bytes
  packetWellFormed p && field b 12 2 == 1 && field b 14 2 == 213 && field b 4 4 == 0 && field b 8 4 == 0 &&
    decide (b.drop (b.length - 16) = clearTag (b.take (b.length - 16)))

/-- A HELLO is answered in clear (R342). -/
def State.helloReply (s : State) (via : Transport) (sid : Nat) (pay : List Byte) : State :=
  let l := packetHeader 0x80 sid 0 1 pay.length ++ pay
  s.sendOn via (l ++ clearTag l)

/-- The credential table, which lives in the vault while that has power (R346, R398): none after a wipe until the identity part is
loaded again. Without power to the vault Cairn uses what it has opened (log 20). -/
def State.creds (s : State) : Option (List (Word × Nat × List Byte)) :=
  if s.pwr.st == .run && !s.pwr.vaultId then none else some s.nvm.creds

/-- The status with which a HELLO is refused, if it is (R342, R347, R389, R398). -/
def State.helloRefusal (s : State) (p : Packet) : Option Nat :=
  let pay := (p.bytes.drop 16).take 213
  let cred := BitVec.ofNat 32 (field pay 0 4)
  let cpub := (pay.drop 20).take 97
  let dig := Config.sha384 (p.bytes.take 16 ++ pay.take 117)
  let sig := pay.drop 117
  let blank := s.nvm.lc = 0
  if ((blank ∨ s.cairn.recovery = true) ∧ p.via ≠ .host) ∨ s.nvm.identity = false ∨ s.creds.isNone = true
  then some stBadState
  else
    let entry := if blank then (if cred = 0xFFFFFFFF then some cpub else none)
      else (s.nvm.creds.find? fun e => e.1 == cred).map fun e => e.2.2
    match entry with
    | none => some stCredUnknown
    | some pub =>
      if !(Config.ecdsaOk pub dig sig && Config.pointOk cpub) then some stSigBad
      else if 8 ≤ s.cairn.sessions.length then some stSessionLimit
      else none

/-- Role of a HELLO's credential (R347). -/
def State.helloRole (s : State) (p : Packet) : Nat :=
  if s.nvm.lc = 0 then 3
  else ((s.nvm.creds.find? fun e => e.1 == BitVec.ofNat 32 (field p.bytes 16 4)).map fun e => e.2.1).getD 0

/-- A random, non-zero SESSION that no session uses (R342): the free value, or where it does not serve the lowest that does. -/
def State.freshSession (s : State) : BitVec 32 :=
  let w := Config.freeWord s.free
  if w ≠ 0 ∧ (s.session w).isNone then w
  else ((((List.range 9).map fun i => BitVec.ofNat 32 (i + 1)).find? fun x => (s.session x).isNone)).getD 1

/-- HELLO as R342 handles it. -/
def State.hello (s : State) (p : Packet) : State :=
  if !s.cairnServes then s
  else if !helloWellFormed p then s.countMalformed
  else match s.helloRefusal p with
  | some e => s.helloReply p.via 0 (replyPrefix e 0)
  | none =>
    let pay := (p.bytes.drop 16).take 213
    let cnonce := (pay.drop 4).take 16
    let cpub := (pay.drop 20).take 97
    let sid := s.freshSession
    let dnonce := ((List.range 4).flatMap fun i => be (Config.freeWord (s.free + 1 + i)))
    let z := bytesBE 48 (Config.ecdhX s.free cpub).toNat
    let info := [0x4A, 0x49, 0x4B, 0x41, 0x52, 0x31] ++ be sid ++ pay.take 4
    let keys := (List.range 72).map fun i => Config.hkdf z (cnonce ++ dnonce) info i
    let role := s.helloRole p
    let head := packetHeader 0x80 sid.toNat 0 1 218
    let body := replyPrefix stOk 0 ++ dnonce ++ bytesBE 97 (Config.ephemeralPub s.free).toNat ++ [BitVec.ofNat 8 role]
    let dsig := bytesBE 96 (Config.identitySign (Config.sha384 (p.bytes ++ head ++ body))).toNat
    let x : Session := { sid := sid, open_ := false, cred := BitVec.ofNat 32 (field pay 0 4), role := role, keys := keys,
                         h := 0, win := 1, dseq := 1, kept := [], via := p.via }
    let s : State := { s with free := s.free + 5 }
    (s.updCairn fun c => { c with sessions := c.sessions ++ [x] }).helloReply p.via sid.toNat (body ++ dsig)

/-- HELLO (R342). -/
def execHello (p : Packet) (s : State) : Host.Outcome State Fault Refusal := .next (s.hello p)

/-- CONFIRM opens the session (R343). -/
def State.confirm (s : State) (o : Origin) : State :=
  s.perform o 0x0002 fun s => (stOk, [], s.updSession o.session fun x => { x with open_ := true })

/-- CONFIRM. -/
def execConfirm (o : Origin) (s : State) : Host.Outcome State Fault Refusal := .next (s.confirm o)

/-- The session exists and may run the opcode. -/
def State.mayRun (s : State) (o : Origin) (op : Nat) : Bool :=
  match s.session o.session with
  | some x => s.cairnServes && (s.gateOp x op).isNone
  | none => false

/-- CLOSE: the OK reply goes out, then the session ends (R345). -/
def State.close (s : State) (o : Origin) : State :=
  let t := s.perform o 0x0003 fun s => (stOk, [], s)
  if s.mayRun o 0x0003 then t.endSession o.session else t

/-- CLOSE. -/
def execClose (o : Origin) (s : State) : Host.Outcome State Fault Refusal := .next (s.close o)

/-- IDENTIFY's reply data (Table 15-5). -/
def State.identity (s : State) : List Byte :=
  be deviceId ++ bytesBE 8 s.nvm.serial.toNat ++ be s.pwr.fwVer ++ [BitVec.ofNat 8 s.nvm.lc, BitVec.ofNat 8 s.ring.addr, 0, 0] ++
    bytesBE 97 Config.identityPub.toNat

/-- IDENTIFY. -/
def State.identify (s : State) (o : Origin) : State := s.perform o 0x0004 fun s => (stOk, s.identity, s)

/-- IDENTIFY. -/
def execIdentify (o : Origin) (s : State) : Host.Outcome State Fault Refusal := .next (s.identify o)

/-- SESSION_INFO's reply data: role, open sessions, the four counters (R341). -/
def State.sessionData (s : State) (o : Origin) : List Byte :=
  let c := s.cairn
  let role := ((s.session o.session).map fun x => x.role).getD 0
  [BitVec.ofNat 8 role, BitVec.ofNat 8 (c.sessions.filter fun x => x.open_).length, 0, 0] ++ bytesBE 2 c.malformed ++
    bytesBE 2 c.authfail ++ bytesBE 2 c.replay ++ bytesBE 2 c.dropped

/-- SESSION_INFO. -/
def State.sessionInfo (s : State) (o : Origin) : State := s.perform o 0x0005 fun s => (stOk, s.sessionData o, s)

/-- SESSION_INFO. -/
def execSessionInfo (o : Origin) (s : State) : Host.Outcome State Fault Refusal := .next (s.sessionInfo o)

/-- JOB_STATUS's reply data for a job. -/
def Job.data (j : Job) (running : Bool) (status : Nat) : List Byte :=
  bytesBE 2 j.opcode ++ bytesBE 4 j.cseq ++ [if running then 0 else 1] ++ bytesBE 2 status ++ [BitVec.ofNat 8 j.pct]

/-- JOB_STATUS (R349): the percent done of a running job rises by a free amount and stays below 100; its STATUS, which the
manual does not give, is free (log 5). -/
def State.jobStatus (s : State) (o : Origin) (job : Byte) : State :=
  s.perform o 0x0006 fun s =>
    match s.cairn.jobs.find? fun j => j.num == job.toNat with
    | some j =>
      let (w, s) := s.draw
      let pct := j.pct + w.toNat % 2 ^ 16 % (100 - j.pct)
      let s := s.updCairn fun c => { c with jobs := c.jobs.map fun k => if k.num = j.num then { k with pct := pct } else k }
      (stOk, Job.data { j with pct := pct } true (w.toNat / 2 ^ 16), s)
    | none =>
      match s.cairn.finished.find? fun j => j.num == job.toNat with
      | some j => (stOk, j.data false (j.status.getD 0), s)
      | none => refuse s stBadParam

/-- JOB_STATUS. -/
def execJobStatus (o : Origin) (job : Byte) (s : State) : Host.Outcome State Fault Refusal := .next (s.jobStatus o job)

/-- PING: the payload comes back (Table 15-5). -/
def State.ping (s : State) (o : Origin) (data : List Byte) : State :=
  s.perform o 0x0007 fun s => if 64 < data.length then refuse s stBadLen else (stOk, data, s)

/-- PING. -/
def execPing (o : Origin) (data : List Byte) (s : State) : Host.Outcome State Fault Refusal := .next (s.ping o data)

/-- CONFIRM_TIMEOUT: a confirming session without a valid CONFIRM for 10 s is discarded (R343). -/
def execConfirmTimeout (session : BitVec 32) (s : State) : Host.Outcome State Fault Refusal :=
  match s.session session with
  | some x => .next (if x.open_ then s else s.endSession session)
  | none => .next s

/-- SESSION_IDLE_TIMEOUT: 300 s without an accepted packet (R345). -/
def execSessionIdleTimeout (session : BitVec 32) (s : State) : Host.Outcome State Fault Refusal := .next (s.endSession session)

/-- REASSEMBLY_TIMEOUT: a gap of 10 ms discards an incomplete ring packet (R339). -/
def execReassemblyTimeout (src : BitVec 6) (s : State) : Host.Outcome State Fault Refusal :=
  .next (s.updCairn fun c => { c with frags := Tbl.del c.frags src.toNat, fragIdx := Tbl.del c.fragIdx src.toNat })

end Sys2Proof.Machine
end

