-- ==== Sys2Proof/Machine/CmdRidge.lean ====
section
/-!
DEFINITION. The ridge commands 0x0101 to 0x010A (15, 07, 11).
-/

namespace Sys2Proof.Machine

/-- RIDGE_STATUS as reply data. -/
def State.ridgeData (s : State) (r : Nat) : List Byte := be (s.ridge r).status

/-- Cores that a RIDGE_FORM payload names in the slots of its kind. -/
def formCores (kind c0 c1 c2 : Byte) : List Nat := ([c0, c1, c2].take kind.toNat).map fun c => c.toNat

/-- The value checks of R350. -/
def State.formParamsOk (s : State) (ridge kind c0 c1 c2 attr policy slot zero : Byte) (start : Word) : Bool :=
  decide (ridge.toNat < 64) && decide (1 ≤ kind.toNat ∧ kind.toNat ≤ 3) &&
    ((formCores kind c0 c1 c2).all fun c => decide (c < 64)) &&
    (([c0, c1, c2].drop kind.toNat).all fun c => c == 0xFF) &&
    attr.toNat / 4 == 0 && policy.toNat % 16 / 2 == 0 && zero == 0 &&
    decide (slot.toNat < 64) && (Tbl.get none s.nvm.images slot.toNat).isSome &&
    start.toNat % 4 == 0 && decide (start.toNat ≤ 0x17FFF)

/-- The rows of R146, in order: the status of the first that fails. -/
def State.check146 (s : State) (r kind : Nat) (cores : List Nat) (secure : Bool) : Option Nat :=
  let m := massifOf (cores.headD 0)
  if (s.ridge r).st != .free then some stRidgeBusy
  else if cores.any fun c => (s.core c).st != .free then some stCoreBusy
  else if cores.any fun c => massifOf c != m then some stMassif
  else if cores.length != kind || !decide cores.Nodup then some stBadParam
  else if kind == 3 && decide ((s.coresIn m .free).length + (s.coresIn m .spare).length < 4 ∨ 5 ≤ s.triads m) then some stNoSpare
  else if secure && !(s.nvm.lc == 1 || s.nvm.lc == 2) then some stBadState
  else none

/-- Steps 1 and 2 of R148. -/
def State.formStart (s : State) (r kind : Nat) (cores : List Nat) (attr policy slot : Byte) (start : Word) : State :=
  let m := massifOf (cores.headD 0)
  let mem (k : Nat) : Bool × Nat := match cores[k]? with
    | some c => (true, c)
    | none => (false, 0)
  let s := s.setRidge r
    { Ridge.reset with st := .loading, kind := kind, massif := m, members := [mem 0, mem 1, mem 2], start := start
                       maxrst := policy.toNat / 16, restart := bitOf policy.toNat 0, priv := bitOf attr.toNat 0
                       secure := bitOf attr.toNat 1, image := slot.toNat }
  let s := ((List.range kind).zip cores).foldl (fun (s : State) (e : Nat × Nat) =>
    s.updCore e.2 fun x => (x.renew .member).join .member r e.1) s
  (s.fixQuad r).fixSpare m

/-- Steps 3 and 4 of R148. -/
def State.formEnd (s : State) (r : Nat) : State := (s.loadImage r).updRidge r fun x => { x with st := .ready }

/-- A slot's image matches its digest (R351). -/
def State.imageGood (s : State) (slot : Nat) : Bool :=
  match Tbl.get none s.nvm.images slot with
  | some i => decide (Config.sha384 (i.pm ++ i.dm) = i.digest)
  | none => false

/-- A job whose image fails its check ends with IMAGE_BAD. -/
def State.badImage (s : State) : State :=
  s.updCairn fun c => { c with jobs := c.jobs.dropLast ++ (c.jobs.drop (c.jobs.length - 1)).map fun (j : Job) =>
    { j with status := some stImageBad } }

/-- RIDGE_FORM (R350, R351): the checks, the commit and the start of the job. -/
def State.ridgeForm (s : State) (o : Origin) (ridge kind c0 c1 c2 attr policy slot zero : Byte) (start : Word) : State :=
  s.perform o 0x0101 fun s =>
    let cores := formCores kind c0 c1 c2
    if !s.formParamsOk ridge kind c0 c1 c2 attr policy slot zero start then refuse s stBadParam
    else if s.pwr.st != .run || (s.nvm.lc != 0 && !s.nvm.identity) then refuse s stBadState
    else match s.check146 ridge.toNat kind.toNat cores (bitOf attr.toNat 1) with
    | some e => refuse s e
    | none =>
      if s.jobHolds fun w => w.holdsRidge ridge.toNat || w.holdsSlot slot.toNat && !(match w with | .form .. => true | .reload .. => true | _ => false)
      then refuse s stBusy
      else match s.jobRefusal with
      | some e => refuse s e
      | none =>
        match s.commit [.form ridge kind c0 c1 c2 attr policy slot start] with
        | (some e, s) => refuse s e
        | (none, s) =>
          let (st, d, s) := s.startJob o 0x0101 (.form ridge kind c0 c1 c2 attr policy slot start)
          (st, d, if s.imageGood slot.toNat then s.formStart ridge.toNat kind.toNat cores attr policy slot start else s.badImage)

/-- RIDGE_FORM. -/
def execRidgeForm (o : Origin) (ridge kind c0 c1 c2 attr policy slot zero : Byte) (start : Word) (s : State) :
    Host.Outcome State Fault Refusal := .next (s.ridgeForm o ridge kind c0 c1 c2 attr policy slot zero start)

/-- The release that a command makes: RSTCNT is 0 (R351). A ridge whose halt still drains is reset first. -/
def State.commandRelease (s : State) (r : Nat) : State :=
  let s := if (s.ridge r).draining then s.ridgeReset r else s
  (s.updRidge r fun x => { x with rstcnt := 0 }).release r

/-- RIDGE_RELEASE (R351, R149, Table 8-6, R193). -/
def State.ridgeRelease (s : State) (o : Origin) (ridge : Byte) : State :=
  s.perform o 0x0102 fun s =>
    let r := ridge.toNat
    let x := s.ridge r
    if 64 ≤ r then refuse s stBadParam
    else if s.jobHolds (·.holdsRidge r) then refuse s stBusy
    else if x.underTest != 0 then refuse s stRidgeBusy
    else if s.pwr.st != .run || s.fcu.fatal || x.testFailed || x.dissolve || !(x.st == .ready || x.st == .halted)
    then refuse s stBadState
    else match s.commit [.release ridge] with
    | (some e, s) => refuse s e
    | (none, s) =>
      let s := s.commandRelease r
      (stOk, s.ridgeData r, s)

/-- RIDGE_RELEASE. -/
def execRidgeRelease (o : Origin) (ridge : Byte) (s : State) : Host.Outcome State Fault Refusal := .next (s.ridgeRelease o ridge)

/-- RIDGE_HALT (R351): HALTCAUSE 0x7 of a RUNNING ridge; jobs on the ridge end with ABORTED (R349), where it does not run too. -/
def State.ridgeHalt (s : State) (o : Origin) (ridge : Byte) : State :=
  s.perform o 0x0103 fun s =>
    let r := ridge.toNat
    if 64 ≤ r then refuse s stBadParam
    else if !(s.ridge r).running && !s.jobsToAbort r then refuse s stBadState
    else match s.commit [.halt ridge] with
    | (some e, s) => refuse s e
    | (none, s) =>
      let s := (s.abortJobs r).haltRidge r 7
      (stOk, s.ridgeData r, s)

/-- RIDGE_HALT. -/
def execRidgeHalt (o : Origin) (ridge : Byte) (s : State) : Host.Outcome State Fault Refusal := .next (s.ridgeHalt o ridge)

/-- RIDGE_DISSOLVE (R150, R349). -/
def State.ridgeDissolve (s : State) (o : Origin) (ridge : Byte) : State :=
  s.perform o 0x0104 fun s =>
    let r := ridge.toNat
    if 64 ≤ r then refuse s stBadParam
    else if (s.ridge r).st == .free then refuse s stBadState
    else if s.jobHolds (fun w => match w with | .dissolve x => x.toNat == r | _ => false) then refuse s stBusy
    else match s.jobRefusal with
    | some e => refuse s e
    | none =>
      match s.commit [.dissolve ridge] with
      | (some e, s) => refuse s e
      | (none, s) => ((s.abortJobs r).dissolve r).startJob o 0x0104 (.dissolve ridge)

/-- RIDGE_DISSOLVE. -/
def execRidgeDissolve (o : Origin) (ridge : Byte) (s : State) : Host.Outcome State Fault Refusal := .next (s.ridgeDissolve o ridge)

/-- RIDGE_STATUS (Table 15-5). -/
def State.ridgeStatus (s : State) (o : Origin) (ridge : Byte) : State :=
  s.perform o 0x0105 fun s =>
    let x := s.ridge ridge.toNat
    if 64 ≤ ridge.toNat then refuse s stBadParam
    else (stOk, be x.status ++ be x.membersReg ++ be x.voteInfo ++ be x.votePc, s)

/-- RIDGE_STATUS. -/
def execRidgeStatus (o : Origin) (ridge : Byte) (s : State) : Host.Outcome State Fault Refusal := .next (s.ridgeStatus o ridge)

/-- RESTART and MAXRST of a ridge (Table 7-12). -/
def State.setPolicy (s : State) (r : Nat) (policy : Byte) : State :=
  s.updRidge r fun x => { x with maxrst := policy.toNat / 16, restart := bitOf policy.toNat 0 }

/-- RIDGE_POLICY (R166). -/
def State.ridgePolicy (s : State) (o : Origin) (ridge policy : Byte) : State :=
  s.perform o 0x0106 fun s =>
    let r := ridge.toNat
    if 64 ≤ r ∨ policy.toNat % 16 / 2 ≠ 0 then refuse s stBadParam
    else if s.jobHolds (·.holdsRidge r) then refuse s stBusy
    else if (s.ridge r).st == .free then refuse s stBadState
    else s.journaled (.policy ridge policy) fun s => s.setPolicy r policy

/-- RIDGE_POLICY. -/
def execRidgePolicy (o : Origin) (ridge policy : Byte) (s : State) : Host.Outcome State Fault Refusal :=
  .next (s.ridgePolicy o ridge policy)

/-- The job tests a core of ridge r (R349). -/
def State.testsMember (s : State) (r : Nat) (w : JobWork) : Bool :=
  match w with
  | .coreTest c => (s.coresOf r).contains c.toNat
  | _ => false

/-- RIDGE_RELOAD (R351). -/
def State.ridgeReload (s : State) (o : Origin) (ridge slot : Byte) (start : Word) : State :=
  s.perform o 0x0107 fun s =>
    let r := ridge.toNat
    let x := s.ridge r
    if 64 ≤ r ∨ 64 ≤ slot.toNat ∨ (Tbl.get none s.nvm.images slot.toNat).isNone ∨ start.toNat % 4 ≠ 0 ∨ 0x17FFF < start.toNat
    then refuse s stBadParam
    else if s.jobHolds (fun w => w.holdsRidge r || s.testsMember r w || (w.holdsSlot slot.toNat && !(match w with
        | .form .. => true | .reload .. => true | _ => false))) then refuse s stBusy
    else if s.pwr.st != .run || x.underTest != 0 || x.testFailed || x.dissolve || !(x.st == .ready || x.st == .halted)
    then refuse s stBadState
    else match s.jobRefusal with
    | some e => refuse s e
    | none =>
      match s.commit [.reload ridge slot start] with
      | (some e, s) => refuse s e
      | (none, s) =>
        let (st, d, s) := s.startJob o 0x0107 (.reload ridge slot start)
        let s := if x.draining then s.ridgeReset r else s
        (st, d, if s.imageGood slot.toNat then s else s.badImage)

/-- RIDGE_RELOAD. -/
def execRidgeReload (o : Origin) (ridge slot : Byte) (start : Word) (s : State) : Host.Outcome State Fault Refusal :=
  .next (s.ridgeReload o ridge slot start)

/-- The end of a RIDGE_RELOAD job: image, RIDGE_START, READY (R351). -/
def State.reloadEnd (s : State) (r slot : Nat) (start : Word) : State :=
  (s.updRidge r fun x => { x with image := slot, start := start }).formEnd r

/-- The index names a resource of the kind (R352). -/
def assignIndexOk (kind i : Nat) : Bool :=
  match kind with
  | 0 => decide (i < 256)
  | 1 => decide (i < 64)
  | 2 => decide (i < 95)
  | 3 => decide (i < 32)
  | 4 => decide (i < 16)
  | 5 => decide (i < 128)
  | 6 => decide (i / 32 < 4 ∧ i % 32 < 24)
  | 7 => decide (i < 15)
  | 8 => decide (i < 8)
  | 9 => decide (i = 0)
  | _ => false

/-- The pages of a queue all lie in the buffers and have this owner (R321). -/
def State.queuePages (s : State) (page npage : Nat) (w : Option Nat) : Bool :=
  (List.range npage).all fun k => decide (page + k < 128) && Tbl.get none s.pages (page + k) == w

/-- Owner of a resource (R352). -/
def State.ownerOf (s : State) (kind i : Nat) : Option Nat :=
  match kind with
  | 0 => (s.chan i).owner
  | 1 => (s.port i).owner
  | 2 => (s.gp i).owner
  | 3 => (s.cap i).owner
  | 4 => (s.dma i).owner
  | 5 => Tbl.get none s.pages i
  | 6 => (s.queue (i / 32) (i % 32)).owner
  | 7 => (s.mbox i).owner
  | 8 => if (s.dom i).stg.fv then some (s.dom i).stg.feeder else none
  | 9 => s.ptp.owner
  | _ => none

/-- A resource gets an owner (R352), and its block's registers act as its chapter states (R217, R288, R202). -/
def State.giveTo (s : State) (kind i : Nat) (w : Option Nat) : State :=
  if s.ownerOf kind i = w then s else
  match kind with
  | 0 => s.updChan i fun c => c.giveTo s.tick w
  | 1 => s.updPort i fun p => { p with owner := w }
  | 2 => s.updGp i fun g => { g with owner := w }
  | 3 => s.updCap i fun _ => { CapUnit.reset with owner := w }
  | 4 => s.updDma i fun d => { d.stop with owner := w }
  | 5 => { s with pages := Tbl.set s.pages i w }
  | 6 => s.updQueue (i / 32) (i % 32) fun q => { q with owner := w }
  | 7 => s.updMbox i fun b => { b with owner := w }
  | 8 => s.stageFeeder i w
  | 9 => { s with ptp := { s.ptp with owner := w } }
  | _ => s

/-- The ridge that an ASSIGN names; none for 0xFF. -/
def assignTo (ridge : Byte) : Option Nat := if ridge = 0xFF then none else some ridge.toNat

/-- ASSIGN (R352, R254, R349). -/
def State.assign (s : State) (o : Origin) (kind : Byte) (index : BitVec 16) (ridge : Byte) : State :=
  s.perform o 0x0108 fun s =>
    let k := kind.toNat
    let i := index.toNat
    let w := assignTo ridge
    let own := s.ownerOf k i
    if !assignIndexOk k i || (w.isSome && decide (64 ≤ ridge.toNat)) then refuse s stBadParam
    else if (k = 1 ∧ s.jobHolds (·.holdsPort i) = true) ∨ (k = 8 ∧ s.domHeld i = true) then refuse s stBusy
    else match w with
    | none => s.journaled (.assign kind index ridge) fun s => s.giveTo k i none
    | some r =>
      if (s.ridge r).st == .free then refuse s stBadState
      else if k = 4 ∧ (s.ridge r).massif ≠ i / 4 then refuse s stBadParam
      else if own.isSome ∧ own ≠ w then refuse s stBusy
      else if k = 6 ∧ s.queuePages (s.queue (i / 32) (i % 32)).page (s.queue (i / 32) (i % 32)).npage w = false
      then refuse s stBadParam
      else s.journaled (.assign kind index ridge) fun s => s.giveTo k i w

/-- ASSIGN. -/
def execAssign (o : Origin) (kind : Byte) (index : BitVec 16) (ridge : Byte) (s : State) : Host.Outcome State Fault Refusal :=
  .next (s.assign o kind index ridge)

/-- A massif region is configured (R251, Table 11-3). -/
def State.setRegion (s : State) (m n : Nat) (cfg rdlo rdhi wrlo wrhi : Word) : State :=
  let g : Region := { en := bitOf cfg.toNat 31, limit := bitsOf cfg.toNat 24 16, base := bitsOf cfg.toNat 8 0
                      rd := rdhi ++ rdlo, wr := wrhi ++ wrlo }
  s.updMassif m fun x => { x with regions := Tbl.set x.regions n g }

/-- MEM_REGION (R251). -/
def State.memRegion (s : State) (o : Origin) (massif region : Byte) (cfg rdlo rdhi wrlo wrhi : Word) : State :=
  s.perform o 0x0109 fun s =>
    if 4 ≤ massif.toNat ∨ 32 ≤ region.toNat then refuse s stBadParam
    else s.journaled (.memRegion massif region cfg rdlo rdhi wrlo wrhi) fun s =>
      s.setRegion massif.toNat region.toNat cfg rdlo rdhi wrlo wrhi

/-- MEM_REGION. -/
def execMemRegion (o : Origin) (massif region : Byte) (cfg rdlo rdhi wrlo wrhi : Word) (s : State) :
    Host.Outcome State Fault Refusal := .next (s.memRegion o massif region cfg rdlo rdhi wrlo wrhi)

/-- Bank ownership (R252). -/
def State.setBankOwn (s : State) (m b en r : Nat) : State :=
  s.updMassif m fun x => { x with bankOwn := Tbl.set x.bankOwn b (en == 1, r) }

/-- MEM_BANKOWN (R252). -/
def State.memBankown (s : State) (o : Origin) (massif bank en ridge : Byte) : State :=
  s.perform o 0x010A fun s =>
    if 4 ≤ massif.toNat ∨ 32 ≤ bank.toNat ∨ 1 < en.toNat ∨ 64 ≤ ridge.toNat then refuse s stBadParam
    else s.journaled (.memBankown massif bank en ridge) fun s => s.setBankOwn massif.toNat bank.toNat en.toNat ridge.toNat

/-- MEM_BANKOWN. -/
def execMemBankown (o : Origin) (massif bank en ridge : Byte) (s : State) : Host.Outcome State Fault Refusal :=
  .next (s.memBankown o massif bank en ridge)

end Sys2Proof.Machine
end

