-- ==== Sys2Proof/Machine/CmdImage.lean ====
section
/-!
DEFINITION. The image commands 0x0201 to 0x0205 (15).
-/

namespace Sys2Proof.Machine

/-- Some formed ridge uses the image slot (R353). -/
def State.slotUsed (s : State) (slot : Nat) : Bool :=
  s.ridges.any fun e => e.2.st != .free && e.2.image == slot

/-- A job forms or reloads from the slot, or works on it (R349). -/
def State.slotHeld (s : State) (slot : Nat) : Bool := s.jobHolds fun w => w.holdsSlot slot

/-- IMG_BEGIN (R353): opens a slot; one slot is open at a time. -/
def State.imgBegin (s : State) (o : Origin) (slot : Byte) (pmLen dmLen : Word) (digest : BitVec 384) : State :=
  s.perform o 0x0201 fun s =>
    if 64 ≤ slot.toNat ∨ 98304 < pmLen.toNat ∨ 131072 < dmLen.toNat then refuse s stBadParam
    else if s.slotUsed slot.toNat || s.slotHeld slot.toNat || s.jobHolds JobWork.endsImage then refuse s stBusy
    else if (match s.cairn.img with | some i => decide (i.2.2.2.2 ≠ o.session) | none => false) then refuse s stBusy
    else (stOk, [], s.updCairn fun c =>
      { c with img := some (slot.toNat, pmLen.toNat, dmLen.toNat, digest, o.session), imgBuf := [] })

/-- IMG_BEGIN. -/
def execImgBegin (o : Origin) (slot : Byte) (pmLen dmLen : Word) (digest : BitVec 384) (s : State) :
    Host.Outcome State Fault Refusal := .next (s.imgBegin o slot pmLen dmLen digest)

/-- Data in units of 8 bytes, the last one shorter, keyed by unit number (R353). -/
def unitsOf : Nat → Nat → List Byte → Tbl (List Byte)
  | 0, _, _ => []
  | n + 1, u, l => if l.isEmpty then [] else (u, l.take 8) :: unitsOf n (u + 1) (l.drop 8)

/-- A buffer of units with data written at a unit. -/
def bufWrite (buf : Tbl (List Byte)) (unit : Nat) (data : List Byte) : Tbl (List Byte) :=
  (unitsOf (data.length / 8 + 1) unit data).foldl (fun b e => Tbl.set b e.1 e.2) buf

/-- The bytes of a buffer of total bytes, where every one has been received. -/
def bufBytes (buf : Tbl (List Byte)) (total : Nat) : Option (List Byte) :=
  let l := (List.range ((total + 7) / 8)).flatMap fun u => Tbl.get [] buf u
  if l.length = total then some l else none

/-- The offset and length of uploaded data suit an upload of total bytes (R353). -/
def chunkOk (offset len total : Nat) : Bool :=
  offset % 8 == 0 && decide (offset + len ≤ total) && (len % 8 == 0 || offset + len == total)

/-- IMG_DATA (R353). -/
def State.imgData (s : State) (o : Origin) (slot : Byte) (offset : Word) (data : List Byte) : State :=
  s.perform o 0x0202 fun s =>
    match s.cairn.img with
    | some (n, pm, dm, _, sid) =>
      if sid ≠ o.session ∨ n ≠ slot.toNat then refuse s stBadState
      else if s.slotHeld n then refuse s stBusy
      else if !chunkOk offset.toNat data.length (pm + dm) then refuse s stBadParam
      else (stOk, [], s.updCairn fun c => { c with imgBuf := bufWrite c.imgBuf (offset.toNat / 8) data })
    | none => refuse s stBadState

/-- IMG_DATA. -/
def execImgData (o : Origin) (slot : Byte) (offset : Word) (data : List Byte) (s : State) : Host.Outcome State Fault Refusal :=
  .next (s.imgData o slot offset data)

/-- IMG_END (R353): the job that checks the image. -/
def State.imgEnd (s : State) (o : Origin) (slot : Byte) : State :=
  s.perform o 0x0203 fun s =>
    match s.cairn.img with
    | some (n, _, _, _, sid) =>
      if sid ≠ o.session ∨ n ≠ slot.toNat then refuse s stBadState
      else if s.slotHeld n then refuse s stBusy
      else match s.jobRefusal with
      | some e => refuse s e
      | none =>
        match s.commit [.other 0x0203] with
        | (some e, s) => refuse s e
        | (none, s) => s.startJob o 0x0203 (.imgEnd slot)
    | none => refuse s stBadState

/-- IMG_END. -/
def execImgEnd (o : Origin) (slot : Byte) (s : State) : Host.Outcome State Fault Refusal := .next (s.imgEnd o slot)

/-- The end of an IMG_END job: status and state (R353). -/
def State.imgStore (s : State) (slot : Nat) : Nat × State :=
  let put (s : State) (i : Option Image) : State :=
    (s.updNvm fun v => { v with images := Tbl.set v.images slot i }).updCairn fun c => { c with img := none, imgBuf := [] }
  match s.cairn.img with
  | some (n, pm, dm, dig, _) =>
    match bufBytes s.cairn.imgBuf (pm + dm) with
    | some l =>
      if n = slot ∧ Config.sha384 l = dig then (stOk, put s (some { pm := l.take pm, dm := l.drop pm, digest := dig }))
      else (stImageBad, put s none)
    | none => (stImageBad, put s none)
  | none => (stImageBad, put s none)

/-- IMG_LIST's data of one slot (Table 15-5); an empty slot reads zero. -/
def imgEntry (i : Option Image) : List Byte :=
  match i with
  | some i => bytesBE 4 i.pm.length ++ bytesBE 4 i.dm.length ++ (bytesBE 48 i.digest.toNat).take 8
  | none => List.replicate 16 0

/-- IMG_LIST. -/
def State.imgList (s : State) (o : Origin) : State :=
  s.perform o 0x0204 fun s => (stOk, (List.range 64).flatMap fun n => imgEntry (Tbl.get none s.nvm.images n), s)

/-- IMG_LIST. -/
def execImgList (o : Origin) (s : State) : Host.Outcome State Fault Refusal := .next (s.imgList o)

/-- IMG_ERASE: like IMG_BEGIN refused while a formed ridge uses the slot (R353, R166). -/
def State.imgErase (s : State) (o : Origin) (slot : Byte) : State :=
  s.perform o 0x0205 fun s =>
    if 64 ≤ slot.toNat then refuse s stBadParam
    else if s.slotUsed slot.toNat || s.slotHeld slot.toNat ||
        (match s.cairn.img with | some i => i.1 == slot.toNat && decide (i.2.2.2.2 ≠ o.session) | none => false)
    then refuse s stBusy
    else match s.jobRefusal with
    | some e => refuse s e
    | none =>
      match s.commit [.other 0x0205] with
      | (some e, s) => refuse s e
      | (none, s) => s.startJob o 0x0205 (.imgErase slot)

/-- IMG_ERASE. -/
def execImgErase (o : Origin) (slot : Byte) (s : State) : Host.Outcome State Fault Refusal := .next (s.imgErase o slot)

/-- The end of an IMG_ERASE job. -/
def State.imgClear (s : State) (slot : Nat) : State :=
  s.updNvm fun v => { v with images := Tbl.set v.images slot none }

end Sys2Proof.Machine
end

