-- ==== Sys2Proof/Machine/CmdAngle.lean ====
section
/-!
DEFINITION. The angle, AST and channel commands 0x0301 to 0x0309 and 0x0401 to 0x0403 (15, 09, 10, 12).
-/

namespace Sys2Proof.Machine

/-- The staged copy that the words of an AD_CONFIG payload give, FEEDER and FV kept (R202, R212); reserved bits have no
effect (R12). -/
def AdCfg.ofWords (old : AdCfg) (w : List Word) : AdCfg :=
  let v (k : Nat) : Nat := (at_ w k 0).toNat
  { en := bitOf (v 0) 31, fire := bitOf (v 0) 30, fv := old.fv, src := bitsOf (v 0) 26 24, pin := bitsOf (v 0) 23 20
    edge := BitVec.ofNat 2 (bitsOf (v 0) 19 18), feeder := old.feeder, kp := bitsOf (v 0) 11 8, ki := bitsOf (v 0) 7 4
    filt := bitsOf (v 0) 3 0, evpc := bitsOf (v 1) 15 0, phase := bitsOf (v 2) 23 0, miss := bitsOf (v 4) 31 24
    hold := bitsOf (v 4) 15 0, fnom := v 5, tol := bitsOf (v 6) 15 0, lockn := bitsOf (v 7) 31 24, win := bitsOf (v 7) 23 0
    acc := bitsOf (v 8) 23 0, num := bitsOf (v 9) 31 16, den := bitsOf (v 9) 7 0 }

/-- Cairn accepts the configuration (R196, R197, R203). -/
def AdCfg.ok (c : AdCfg) : Bool :=
  decide (21990 ≤ c.fnom ∧ c.fnom ≤ 1099511628) && decide (c.src ≤ 4) &&
    !(c.src == 2 && decide (13 < c.pin)) && !(c.src == 1 && c.edge == 0) &&
    c.num != 0 && c.den != 0 &&
    (c.src == 4 || decide (c.n * c.limits.2 * 320000000 ≤ 10000000 * 2 ^ 46))

/-- The staged copy of a domain is written (R212). -/
def State.stageCfg (s : State) (d : Nat) (w : List Word) : State :=
  s.stage d fun x => { x with stg := x.stg.ofWords w, commitReq := x.st == .off }

/-- AD_CONFIG (R212). -/
def State.adConfig (s : State) (o : Origin) (domain : Byte) (w : List Word) : State :=
  s.perform o 0x0301 fun s =>
    let d := domain.toNat
    if 8 ≤ d then refuse s stBadParam
    else if !((s.dom d).stg.ofWords w).ok then refuse s stBadParam
    else if s.domHeld d then refuse s stBusy
    else s.journaled (.adConfig domain w) fun s => s.stageCfg d w

/-- AD_CONFIG. -/
def execAdConfig (o : Origin) (domain : Byte) (cfg evpc phase offset hold fnom ftol lock accept ptp : Word) (s : State) :
    Host.Outcome State Fault Refusal :=
  .next (s.adConfig o domain [cfg, evpc, phase, offset, hold, fnom, ftol, lock, accept, ptp])

/-- An offset is staged; zero stages none (R211). -/
def State.stageOffset (s : State) (d : Nat) (off : BitVec 24) : State :=
  s.stage d fun x => { x with offStg := if off = 0 then none else some off }

/-- AD_OFFSET (R211). -/
def State.adOffsetCmd (s : State) (o : Origin) (domain : Byte) (off : BitVec 24) : State :=
  s.perform o 0x0302 fun s =>
    let d := domain.toNat
    if 8 ≤ d then refuse s stBadParam
    else if s.domHeld d then refuse s stBusy
    else s.journaled (.adOffset domain off) fun s => s.stageOffset d off

/-- AD_OFFSET. -/
def execAdOffset (o : Origin) (domain : Byte) (off : BitVec 24) (s : State) : Host.Outcome State Fault Refusal :=
  .next (s.adOffsetCmd o domain off)

/-- AD_STATUS (Table 15-5). -/
def State.adStatus (s : State) (o : Origin) (domain : Byte) : State :=
  s.perform o 0x0303 fun s =>
    if 8 ≤ domain.toNat then refuse s stBadParam
    else (stOk, s.regBytes ([0x40, 0x44, 0x48, 0x4C, 0x50, 0x54, 0x58].map (· + 0x100000 + domain.toNat * 0x100)), s)

/-- AD_STATUS. -/
def execAdStatus (o : Origin) (domain : Byte) (s : State) : Host.Outcome State Fault Refusal := .next (s.adStatus o domain)

/-- The open batch, where this session holds it. -/
def State.batchOf (s : State) (sid : BitVec 32) : Option (Nat × Nat × List AstRec) :=
  match s.ast.batch with
  | some b => if b.1 = sid then some b.2 else none
  | none => none

/-- AST_OPEN (R354). A session's own open batch is replaced. -/
def State.astOpen (s : State) (o : Origin) (domain : Byte) (x : BitVec 16) : State :=
  s.perform o 0x0304 fun s =>
    if 8 ≤ domain.toNat then refuse s stBadParam
    else if s.ast.batch.isSome && (s.batchOf o.session).isNone then refuse s stBusy
    else (stOk, [], { s with ast := { s.ast with batch := some (o.session, domain.toNat, x.toNat, []) } })

/-- AST_OPEN. -/
def execAstOpen (o : Origin) (domain : Byte) (x : BitVec 16) (s : State) : Host.Outcome State Fault Refusal :=
  .next (s.astOpen o domain x)

/-- A record has the form of Table 15-7 and R354. -/
def AstRec.formOk (r : AstRec) : Bool :=
  decide (r.index.toNat < 2 ^ 19) &&
    ((r.op == 1 && r.flags.toNat / 2 == 0 && r.w3.toNat % 2 ^ 19 == 0) ||
     (r.op == 2 && r.flags == 0 && r.until_ == 0 && r.w0 == 0 && r.w1 == 0 && r.w3 == 0))

/-- AST_ADD (R354). -/
def State.astAdd (s : State) (o : Origin) (recs : List AstRec) : State :=
  s.perform o 0x0305 fun s =>
    match s.batchOf o.session with
    | none => refuse s stBadState
    | some (d, x, l) =>
      if 8192 < l.length + recs.length ∨ !recs.all AstRec.formOk then refuse s stBadParam
      else (stOk, bytesBE 2 (l.length + recs.length),
        { s with ast := { s.ast with batch := some (o.session, d, x, l ++ recs) } })

/-- AST_ADD. -/
def execAstAdd (o : Origin) (recs : List AstRec) (s : State) : Host.Outcome State Fault Refusal := .next (s.astAdd o recs)

/-- Chain port n exists as a port of its own: not the odd one of a dual pair (R315). -/
def State.portFree (s : State) (n : Nat) : Bool := n % 2 == 0 || !(s.port (n - 1)).dual

/-- An entry passes R219, R220 and R223, its VALID_FROM apart. -/
def State.entryOk (s : State) (w0 w1 w3 : Word) : Bool :=
  let kind := bitsOf w0.toNat 31 28
  let tgt := bitsOf w1.toNat 15 0
  let par := bitsOf w1.toNat 31 16
  let rk := bitsOf w3.toNat 22 19
  let rm := bitsOf w3.toNat 26 23
  let target :=
    if kind = 0 then tgt == 0 && par == 0
    else if kind = 1 then decide (tgt < 128) && par == 0
    else if kind = 2 then decide (tgt < 64) && decide (par < 16) && s.portFree tgt
    else if kind = 3 then decide (tgt < 96) && decide (par < 3) && (s.gp tgt).src == 2
    else if kind = 4 then decide (tgt < 32) && par == 0
    else false
  target && decide (rk ≤ 8) && decide (rm ≤ 5) && decide (bitsOf w0.toNat 23 0 < 2 ^ (24 - rk)) &&
    decide (bitsOf w3.toNat 31 27 < 2 ^ rm)

/-- Status of the check of one record of a batch for domain d and cycle x: none where it passes (R223, R237, R354). -/
def State.checkRec (s : State) (d x : Nat) (r : AstRec) : Option Nat :=
  let i := r.index.toNat
  let link := Tbl.find s.ast.links i
  if r.op = 2 then
    match link with
    | some l => if bitsOf l.w0.toNat 26 24 = d then none else some stBadParam
    | none => some stBadParam
  else if link.isSome || bitsOf r.w0.toNat 26 24 != d || !s.entryOk r.w0 r.w1 r.w3
      || decide (32767 < (x + 2 ^ 16 - (s.dom d).cyc) % 2 ^ 16) then some stBadParam
  else if (match Tbl.find s.ast.waiting i with | some w => decide (0 < w.1) | none => false) then some stBusy
  else none

/-- Status of the checks of a whole batch (R354): an index is named once. -/
def State.checkBatch (s : State) (d x : Nat) (recs : List AstRec) : Option Nat :=
  if !decide (recs.map (·.index)).Nodup then some stBadParam
  else if recs.any fun r => s.checkRec d x r == some stBadParam then some stBadParam
  else if recs.any fun r => (s.checkRec d x r).isSome then some stBusy
  else none

/-- An entry is linked: written with its NEXT, then its predecessor's NEXT or the head (R224, R237). -/
def State.linkEntry (s : State) (i : Nat) (l : AstLink) : State :=
  let key := listKey l.w0.toNat l.w3.toNat
  let frac (j : Nat) : Nat := match Tbl.find s.ast.links j with
    | some m => bitsOf m.w0.toNat 23 0
    | none => 0
  let rank (j : Nat) : Nat := frac j * 2 ^ 19 + j
  let mine := bitsOf l.w0.toNat 23 0 * 2 ^ 19 + i
  let es := s.listOf key
  let next := (es.find? fun j => decide (mine < rank j)).getD i
  let s := s.writeEntry i l.w0.toNat l.w1.toNat l.w2.toNat (l.w3.toNat + next)
  let s : State := { s with ast := { s.ast with links := Tbl.set s.ast.links i { l with next := next }
                                                waiting := Tbl.del s.ast.waiting i } }
  match (es.filter fun j => decide (rank j < mine)).getLast? with
  | some p => s.writeNext p i
  | none => { s with ast := { s.ast with heads := Tbl.set s.ast.heads key i } }

/-- The value of a domain's turns at its entry into cycle x, the nearest to the current one (R240). -/
def State.turnOf (s : State) (d x : Nat) : Int :=
  let y := s.dom d
  y.turns - y.back + cycDiff x y.cyc

/-- Steps 2 to 4 of R238 for one record. DESIGN CHOICE (log 45): an entry that ends at a requested U = X - 1 is valid in every cycle by
R221 and still ends there by R238; its last valid cycle is the X - 1 that comes 65,535 cycles after X. -/
def State.applyRec (s : State) (x : Nat) (r : AstRec) : State :=
  let i := r.index.toNat
  if r.op = 2 then
    (s.writeW2 i (w2Of (x + 2 ^ 16 - 1) (x + 2 ^ 15))).updLink i fun l => { l with indef := none, ends := some (s.turnOf (bitsOf l.w0.toNat 26 24) x) }
  else
    let u := if bitOf r.flags.toNat 0 then r.until_.toNat else x + 0x7FFF
    s.linkEntry i
      { indef := if bitOf r.flags.toNat 0 then none else some x
        ends := if bitOf r.flags.toNat 0
          then some (s.turnOf (bitsOf r.w0.toNat 26 24) x + ((u + 2 ^ 16 - x) % 2 ^ 16 + 1 : Nat)) else none
        w0 := r.w0, w1 := r.w1, w2 := BitVec.ofNat 32 (w2Of u x), w3 := r.w3, next := i }

/-- AST_EDIT shows a batch (Table 10-8). -/
def State.setEdit (s : State) (busy : Bool) (d result x : Nat) : State :=
  { s with ast := { s.ast with busy := busy, editDom := d, result := result, xcyc := x, tooFar := false } }

/-- The latest element that passes p goes. -/
def eraseLast {α : Type} (p : α → Bool) (l : List α) : List α :=
  let r := l.reverse
  match r.findIdx? p with
  | some k => (r.eraseIdx k).reverse
  | none => l

/-- The latest change that passes p is void in the journal. -/
def voidLast (p : JRec → Bool) (l : List JEntry) : List JEntry :=
  let r := l.reverse
  match r.findIdx? fun e => e.recs.any p with
  | some k => (r.modify k fun e => { e with recs := eraseLast p e.recs }).reverse
  | none => l

/-- A batch ends with TOO_LATE: its journal record is void (R354). -/
def State.voidBatch (s : State) (d x : Nat) : State :=
  let hit (r : JRec) : Bool := match r with
    | .astBatch a b _ => a == d && b == x
    | _ => false
  (s.updNvm fun v => { v with journal := voidLast hit v.journal }).setEdit false d 2 x

/-- The batch starts after its commit (R238): step 1, then its writes; the job's work and the status if it has ended. -/
def State.runBatch (s : State) (d x : Nat) (recs : List AstRec) : Option Nat × JobWork × State :=
  let ahead := (x + 2 ^ 16 - (s.dom d).cyc) % 2 ^ 16
  if ahead < 2 ∨ 32767 < ahead then (some stTooLate, .astCommit d x [] [], s.voidBatch d x)
  else
    let added := (recs.filter fun r => r.op == 1).map fun r => r.index.toNat
    let old := (recs.filter fun r => r.op == 2).filterMap fun r =>
      (Tbl.find s.ast.links r.index.toNat).map fun l => (r.index.toNat, l)
    let s := (recs.filter fun r => r.op == 1).foldl (fun (s : State) r => s.applyRec x r) s
    let s := (recs.filter fun r => r.op == 2).foldl (fun (s : State) r => s.applyRec x r) s
    (none, .astCommit d x added old, s.setEdit true d 0 x)

/-- A job that starts with its status already given, if any. -/
def State.startJobWith (s : State) (o : Origin) (op : Nat) (w : JobWork) (st : Option Nat) : Nat × List Byte × State :=
  let r := s.startJob o op w
  match st with
  | none => r
  | some e => (r.1, r.2.1, r.2.2.updCairn fun c =>
      { c with jobs := c.jobs.map fun (j : Job) => if j.num = s.cairn.nextJob % 256 then { j with status := some e } else j })

/-- AST_COMMIT (R354, R238): the batch closes. -/
def State.astCommit (s : State) (o : Origin) : State :=
  s.perform o 0x0306 fun s =>
    match s.batchOf o.session with
    | none => refuse s stBadState
    | some (d, x, recs) =>
      if s.pwr.st != .run then refuse s stBadState
      else if s.jobHolds (fun w => match w with | .astCommit .. => true | _ => false) then refuse s stBusy
      else
        let s : State := { s with ast := { s.ast with batch := none } }
        match s.checkBatch d x recs with
        | some e => refuse (if e = stBadParam then s.setEdit false d 3 x else s) e
        | none =>
          match s.jobRefusal with
          | some e => refuse s e
          | none =>
            match s.commit [.astBatch d x recs] with
            | (some e, s) => refuse s e
            | (none, s) =>
              let (st, w, s) := s.runBatch d x recs
              s.startJobWith o 0x0306 w st

/-- AST_COMMIT. -/
def execAstCommit (o : Origin) (s : State) : Host.Outcome State Fault Refusal := .next (s.astCommit o)

/-- R239: EN is cleared on what the batch added, W2 restored on what it narrowed. -/
def State.undoBatch (s : State) (added : List Nat) (old : List (Nat × AstLink)) : State :=
  let s := added.foldl (fun (s : State) i =>
    (s.mergeAst (2 * i) fun lo => if bitOf lo 27 then lo - 2 ^ 27 else lo).updLink i
      fun l => { l with w0 := l.w0 &&& ~~~(1#32 <<< 27) }) s
  old.foldl (fun (s : State) e => (s.writeW2 e.1 e.2.w2.toNat).updLink e.1
    fun l => { l with indef := e.2.indef, ends := e.2.ends }) s

/-- The end of an AST_COMMIT job (R238, R239): status and state. A resynchronisation that has carried the domain to bin 4,095 of
cycle X - 1 or later has stopped it. -/
def State.endBatch (s : State) (d x : Nat) (added : List Nat) (old : List (Nat × AstLink)) : Nat × State :=
  if s.ast.tooFar then (stTooLate, (s.undoBatch added old).voidBatch d x)
  else (stOk, s.setEdit false d 1 x)

/-- AST_DISCARD (R354). -/
def State.astDiscard (s : State) (o : Origin) : State :=
  s.perform o 0x0307 fun s =>
    match s.batchOf o.session with
    | none => refuse s stBadState
    | some _ => (stOk, [], { s with ast := { s.ast with batch := none } })

/-- AST_DISCARD. -/
def execAstDiscard (o : Origin) (s : State) : Host.Outcome State Fault Refusal := .next (s.astDiscard o)

/-- An AST entry as reply data: W0 to W3. -/
def State.entryBytes (s : State) (i : Nat) : List Byte × State :=
  let (lo, _, s) := s.astHalf i 0
  let (hi, _, s) := s.astHalf i 1
  (bytesBE 4 lo ++ bytesBE 4 (lo / 2 ^ 32) ++ bytesBE 4 hi ++ bytesBE 4 (hi / 2 ^ 32), s)

/-- AST_READ (Table 15-5): outside RUN the memory serves the walker alone (R244). -/
def State.astRead (s : State) (o : Origin) (first : Word) (count : Byte) : State :=
  s.perform o 0x0308 fun s =>
    if count.toNat = 0 ∨ 64 < count.toNat ∨ 2 ^ 19 < first.toNat + count.toNat then refuse s stBadParam
    else if s.pwr.st != .run then refuse s stBadState
    else
      let r := (List.range count.toNat).foldl (fun (a : List Byte × State) k =>
        let (b, s) := a.2.entryBytes (first.toNat + k)
        (a.1 ++ b, s)) (([] : List Byte), s)
      (stOk, r.1, r.2)

/-- AST_READ. -/
def execAstRead (o : Origin) (first : Word) (count : Byte) (s : State) : Host.Outcome State Fault Refusal :=
  .next (s.astRead o first count)

/-- AST_STATS (Table 15-5). -/
def State.astStats (s : State) (o : Origin) (domain : Byte) : State :=
  s.perform o 0x0309 fun s =>
    if 8 ≤ domain.toNat then refuse s stBadParam
    else (stOk, s.regBytes (0x101000 :: [0, 4, 8, 0xC].map (· + 0x101100 + domain.toNat * 0x20)), s)

/-- AST_STATS. -/
def execAstStats (o : Origin) (domain : Byte) (s : State) : Host.Outcome State Fault Refusal := .next (s.astStats o domain)

/-- Owner of a producer's block (Table 12-1); none inside some where no ridge owns it. The outer none: a producer that belongs to
no ridge by R286. -/
def State.producerOwner (s : State) (p : Nat) : Option (Option Nat) :=
  if p < 144 ∨ (480 ≤ p ∧ p < 496) then none
  else if p < 176 then some (s.cap (p - 144)).owner
  else if p < 240 then some (s.port (p - 176)).owner
  else if p < 304 then some (s.port (p - 240)).owner
  else if p < 320 then some (s.dma (p - 304)).owner
  else if p < 384 then some (some (p - 320))
  else if p < 480 then some (s.gp (p - 384)).owner
  else some none

/-- A ridge is SECURE. -/
def State.secureRidge (s : State) (r : Option Nat) : Bool :=
  match r with
  | some r => (s.ridge r).secure
  | none => false

/-- Status of a row for a channel with this owner and SEC: none where R286 and R287 allow it. -/
def State.checkRow (s : State) (owner : Option Nat) (sec : Bool) (row : BitVec 512) : Option Nat :=
  let ps := (List.range 512).filter fun p => row.getLsbD p
  if owner.isSome && ps.any fun p => (match s.producerOwner p with | some w => w != owner | none => false) then some stBadParam
  else if sec && ps.any fun p => (match s.producerOwner p with | some w => !s.secureRidge w | none => false) then some stBadState
  else none

/-- CINDEX lies in its range and CKIND, PARAM are not reserved (R281, Table 12-3). -/
def consOk (kind param idx : Nat) : Bool :=
  (if kind = 4 then decide (param < 3) else param == 0) &&
    match kind with
    | 0 => idx == 0
    | 1 => decide (idx < 1024)
    | 2 => decide (idx < 16)
    | 3 => decide (idx < 64)
    | 4 => decide (idx < 96)
    | 5 => decide (idx < 32)
    | 6 => decide (idx < 16)
    | _ => false

/-- Owner of a consumer's block (R281). -/
def State.consumerOwner (s : State) (kind idx : Nat) : Option Nat :=
  match kind with
  | 1 => some (idx / 16)
  | 2 => (s.dma idx).owner
  | 3 => (s.port idx).owner
  | 4 => (s.gp idx).owner
  | 5 => (s.cap idx).owner
  | _ => none

/-- Owner that CH_CFG names (Table 12-5). -/
def cfgOwner (cfg : Word) : Option Nat := if bitOf cfg.toNat 31 then some (bitsOf cfg.toNat 21 16) else none

/-- Status of a CH_CONFIG: none where R281, R286 and R287 allow it. -/
def State.checkChannel (s : State) (c : Nat) (cfg cons : Word) : Option Nat :=
  let kind := bitsOf cons.toNat 14 12
  let param := bitsOf cons.toNat 11 10
  let idx := bitsOf cons.toNat 9 0
  let owner := cfgOwner cfg
  let sec := bitOf cfg.toNat 30
  let taken := kind != 0 && s.chans.any fun e => e.1 != c && e.2.ckind == kind && e.2.cindex == idx
  if !consOk kind param idx || taken then some stBadParam
  else if owner.isSome && kind != 0 && s.consumerOwner kind idx != owner then some stBadParam
  else match s.checkRow owner sec (s.chan c).row with
  | some e => some e
  | none => if sec && (kind == 6 || (owner.isSome && !s.secureRidge owner)) then some stBadState else none

/-- CH_CFG and CH_CONS of a channel are written (R288). -/
def State.setChannel (s : State) (c : Nat) (cfg cons : Word) : State :=
  ((s.updChan c fun x => x.change s.tick id).giveTo 0 c (cfgOwner cfg)).updChan c fun x =>
    { x with sec := bitOf cfg.toNat 30, automask := bitOf cfg.toNat 29, lim := bitsOf cfg.toNat 8 0
             ckind := bitsOf cons.toNat 14 12, param := bitsOf cons.toNat 11 10, cindex := bitsOf cons.toNat 9 0 }

/-- CH_CONFIG (R281, R288). -/
def State.chConfig (s : State) (o : Origin) (ch : Byte) (cfg cons : Word) : State :=
  s.perform o 0x0401 fun s =>
    match s.checkChannel ch.toNat cfg cons with
    | some e => refuse s e
    | none => s.journaled (.chConfig ch cfg cons) fun s => s.setChannel ch.toNat cfg cons

/-- CH_CONFIG. -/
def execChConfig (o : Origin) (ch : Byte) (cfg cons : Word) (s : State) : Host.Outcome State Fault Refusal :=
  .next (s.chConfig o ch cfg cons)

/-- A channel's row is written, whole (R288). -/
def State.setRow (s : State) (c : Nat) (row : BitVec 512) : State := s.updChan c fun x => x.change s.tick fun x => { x with row := row }

/-- CH_ROW (R286, R287). -/
def State.chRow (s : State) (o : Origin) (ch : Byte) (row : BitVec 512) : State :=
  s.perform o 0x0402 fun s =>
    match s.checkRow (s.chan ch.toNat).owner (s.chan ch.toNat).sec row with
    | some e => refuse s e
    | none => s.journaled (.chRow ch row) fun s => s.setRow ch.toNat row

/-- CH_ROW. -/
def execChRow (o : Origin) (ch : Byte) (row : BitVec 512) (s : State) : Host.Outcome State Fault Refusal :=
  .next (s.chRow o ch row)

/-- CH_STATUS (Table 15-5). -/
def State.chStatus (s : State) (o : Origin) (ch : Byte) : State :=
  s.perform o 0x0403 fun s =>
    (stOk, s.regBytes ([0, 4, 8, 0xC].map (· + 0x110000 + ch.toNat * 0x10) ++
      (List.range 16).map fun w => 0x114000 + ch.toNat * 0x40 + 4 * w), s)

/-- CH_STATUS. -/
def execChStatus (o : Origin) (ch : Byte) (s : State) : Host.Outcome State Fault Refusal := .next (s.chStatus o ch)

end Sys2Proof.Machine
end

