-- ==== Sys2Proof/Machine/CmdChain.lean ====
section
/-!
DEFINITION. The chain-port commands 0x0501 to 0x0504 (15, 13).
-/

namespace Sys2Proof.Machine

/-- The descriptor that three words of a payload give (Table 13-18); reserved bits have no effect (R12). -/
def Desc.ofWords (w : List Word) (k : Nat) : Desc :=
  let v (i : Nat) : Nat := (at_ w (3 * k + i) 0).toNat
  { en := bitOf (v 0) 31, d := bitsOf (v 0) 13 8, u := bitsOf (v 0) 5 0, ubase := bitsOf (v 1) 29 16, dbase := bitsOf (v 1) 13 0
    adly := bitsOf (v 2) 31 16, sdly := bitsOf (v 2) 15 0 }

/-- Buffer areas of a descriptor for N nodes: first byte and end of the command area and of both slot halves (R298). -/
def Desc.areas (d : Desc) (N : Nat) : List (Nat × Nat) :=
  [(d.dbase, d.dbase + N * ((d.d + 7) / 8 * 8)), (d.ubase, d.ubase + 2 * N * recordSize d.u)]

/-- Two areas overlap. -/
def areaMeets (a b : Nat × Nat) : Bool := decide (a.1 < b.2 ∧ b.1 < a.2 ∧ a.1 < a.2 ∧ b.1 < b.2)

/-- An enabled descriptor passes R298 for N nodes, a timeout in µs, the largest TCONV and the loop delay in bit times. -/
def Desc.ok (d : Desc) (N tmo tconv loop : Nat) : Bool :=
  decide (d.d ≤ 60) && decide (2 ≤ d.u ∧ d.u ≤ 62) && d.dbase % 8 == 0 && d.ubase % 8 == 0 &&
    decide ((16 + N * (d.d + d.u + 8)) * 40 ≤ max 1 tmo * 1000) &&
    (d.areas N).all (fun a => decide (a.2 ≤ 0x4000)) &&
    decide (d.sdly + tconv ≤ 15 + N * (d.d + 4)) && decide (16 + N * (d.d + 4) + (loop + 9) / 10 ≤ d.adly)

/-- Every enabled descriptor of a configuration passes, and no two overlap (R298). N, TCONVmax and the loop delay are those of the
latest enumeration. -/
def State.descsOk (s : State) (n tmo : Nat) (dual : Bool) (w : List Word) : Bool :=
  let p := s.port n
  let N := p.nodes
  let tconv := p.idents.foldl (fun (a : Nat) e => max a (field e.2 10 2)) 0
  let loop := if dual then max p.loop (s.port (n + 1)).loop else p.loop
  let on := (List.range 16).filter fun k => (Desc.ofWords w k).en
  on.all fun k => (Desc.ofWords w k).ok N tmo tconv loop &&
    on.all fun j => j == k || ((Desc.ofWords w k).areas N).all fun a => ((Desc.ofWords w j).areas N).all fun b => !areaMeets a b

/-- DUAL is allowed on port n (R315). -/
def State.dualOk (s : State) (n : Nat) : Bool :=
  n % 2 == 0 && (s.port n).owner == (s.port (n + 1)).owner && (s.port n).idents.all fun e => field e.2 7 1 % 2 == 1

/-- CHP_CFG and the descriptors are written. -/
def State.setPort (s : State) (n : Nat) (cfg : Word) (w : List Word) : State :=
  s.updPort n fun p =>
    { p with en := bitOf cfg.toNat 31, dual := bitOf cfg.toNat 30, tmo := bitsOf cfg.toNat 23 16, nexp := bitsOf cfg.toNat 5 0
             descs := (List.range 16).map fun k => (k, Desc.ofWords w k) }

/-- A change that the nodes hold (R435): DUAL, or a descriptor that is enabled before or after. -/
def ChPort.heldChange (p q : ChPort) : Bool :=
  p.dual != q.dual || (List.range 16).any fun k =>
    let a := Tbl.get Desc.reset p.descs k
    let b := Tbl.get Desc.reset q.descs k
    (a.en || b.en) && a != b

/-- A job holds port n, or the other port of a pair that it is or becomes one of (R349). -/
def State.portHeld (s : State) (n : Nat) (dual : Bool) : Bool :=
  s.jobHolds (·.holdsPort n) || ((dual || s.dualPair n || (s.port (n / 2 * 2)).dual) &&
    s.jobHolds (·.holdsPort (if n % 2 = 0 then n + 1 else n - 1)))

/-- The port under which the ring of port n is enumerated: the even one where that has EN and DUAL (R315). -/
def State.enumPort (s : State) (n : Nat) : Nat :=
  let a := n / 2 * 2
  if (s.port a).dual && (s.port a).en then a else n

/-- What CHP_CONFIG does (R435). -/
def State.configurePort (s : State) (n : Nat) (cfg : Word) (w : List Word) : State :=
  let old := s.port n
  let running := s.portRunning n
  if old.en && !bitOf cfg.toNat 31 then (s.portOff n).setPort n cfg w
  else
    let s := s.setPort n cfg w
    if !old.en && (s.port n).en then
      let a := s.enumPort n
      (s.enumStart a).enumRun a false
    else if running && old.heldChange (s.port n) then (s.enumStart n).enumRun n false else s

/-- CHP_CONFIG (R298, R315, R435). -/
def State.chpConfig (s : State) (o : Origin) (port : Byte) (cfg : Word) (w : List Word) : State :=
  s.perform o 0x0501 fun s =>
    let n := port.toNat
    let dual := bitOf cfg.toNat 30
    if 64 ≤ n ∨ w.length ≠ 48 then refuse s stBadParam
    else if s.portHeld n dual then refuse s stBusy
    else if !s.descsOk n (bitsOf cfg.toNat 23 16) dual w || (dual && !s.dualOk n) then refuse s stBadParam
    else s.journaled (.chpConfig port cfg w) fun s => s.configurePort n cfg w

/-- CHP_CONFIG. -/
def execChpConfig (o : Origin) (port : Byte) (cfg : Word) (descs : List Word) (s : State) : Host.Outcome State Fault Refusal :=
  .next (s.chpConfig o port cfg descs)

/-- CHP_ENUM (R311, R355): the job that enumerates one port. A port with EN = 0 cannot enumerate. -/
def State.chpEnum (s : State) (o : Origin) (port learn : Byte) : State :=
  s.perform o 0x0502 fun s =>
    let n := port.toNat
    if 64 ≤ n ∨ 1 < learn.toNat then refuse s stBadParam
    else if s.portHeld n false then refuse s stBusy
    else if !(s.port n).en then refuse s stBadState
    else match s.jobRefusal with
    | some e => refuse s e
    | none =>
      match (if learn = 1 then s.commit [.other 0x0502] else (none, s)) with
      | (some e, s) => refuse s e
      | (none, s) => (s.enumStart n).startJob o 0x0502 (.chpEnum port learn)

/-- CHP_ENUM. -/
def execChpEnum (o : Origin) (port learn : Byte) (s : State) : Host.Outcome State Fault Refusal := .next (s.chpEnum o port learn)

/-- CHP_NODE (Table 15-5): a node that the latest enumeration did not find reads zero. -/
def State.chpNode (s : State) (o : Origin) (port node : Byte) : State :=
  s.perform o 0x0503 fun s =>
    let n := port.toNat
    let k := node.toNat
    if 64 ≤ n ∨ 32 ≤ k then refuse s stBadParam
    else (stOk, Tbl.get (List.replicate 32 0) (s.port n).idents k ++ be (Tbl.get 0 (s.port n).ntab k), s)

/-- CHP_NODE. -/
def execChpNode (o : Origin) (port node : Byte) (s : State) : Host.Outcome State Fault Refusal := .next (s.chpNode o port node)

/-- CHP_STATUS (Table 15-5). -/
def State.chpStatus (s : State) (o : Origin) (port : Byte) : State :=
  s.perform o 0x0504 fun s =>
    if 64 ≤ port.toNat then refuse s stBadParam
    else (stOk, s.regBytes ([4, 8, 0xC, 0x10, 0x14, 0x18].map (· + 0x200000 + port.toNat * 0x1000)), s)

/-- CHP_STATUS. -/
def execChpStatus (o : Origin) (port : Byte) (s : State) : Host.Outcome State Fault Refusal := .next (s.chpStatus o port)

end Sys2Proof.Machine
end

