-- ==== Sys2Proof/Machine/CmdFault.lean ====
section
/-!
DEFINITION. The fault and self-test commands 0x0601 to 0x0608 and 0x0701 to 0x0704, and the operations of the ECC test port
(15, 17, 11, 08).
-/

namespace Sys2Proof.Machine

/-- The sticky bits, source 0 in byte 0 bit 0 (Table 15-5). -/
def State.stickyBytes (s : State) : List Byte :=
  (List.range 512).map fun i => BitVec.ofNat 8 (packN ((List.range 8).map fun j => (j, b2n (s.src (8 * i + j)).sticky)))

/-- FCU_READ. -/
def State.fcuRead (s : State) (o : Origin) : State := s.perform o 0x0601 fun s => (stOk, s.stickyBytes, s)

/-- FCU_READ. -/
def execFcuRead (o : Origin) (s : State) : Host.Outcome State Fault Refusal := .next (s.fcuRead o)

/-- Sticky bits are cleared; FCU_FIRST.VALID goes with the last (17, Registers). -/
def State.clearSticky (s : State) (l : List Nat) : State :=
  let s := l.foldl (fun (s : State) n => s.updSrc n fun x => { x with sticky := false }) s
  if s.stickySet = 0 then s.updFcu fun u => { u with first := none } else s

/-- FCU_CLEAR (R356). -/
def State.fcuClear (s : State) (o : Origin) (sources : List (BitVec 16)) : State :=
  s.perform o 0x0602 fun s =>
    let l := sources.map BitVec.toNat
    if l.any fun n => decide (4096 ≤ n) || (srcInfo n).1 == 0 then refuse s stBadParam
    else if l.any fun n => (srcInfo n).1 == 3 then refuse s stBadState
    else (stOk, [], s.clearSticky l)

/-- FCU_CLEAR. -/
def execFcuClear (o : Origin) (sources : List (BitVec 16)) (s : State) : Host.Outcome State Fault Refusal :=
  .next (s.fcuClear o sources)

/-- Status of a change of mask: none where R372 allows it. -/
def checkMask (n m : Nat) : Option Nat :=
  if 4096 ≤ n ∨ 32 ≤ m ∨ (srcInfo n).1 = 0 then some stBadParam
  else if (srcInfo n).1 = 3 then some stBadState
  else if m % 4 ≠ 0 ∧ srcHasRidge n = false then some stBadParam
  else if bitOf m 2 = true ∧ srcHasBrst n = false then some stBadParam
  else if n = 0xF72 ∧ bitOf m 3 = false then some stBadParam
  else none

/-- A mask is written. -/
def State.setMask (s : State) (n m : Nat) : State := s.updSrc n fun x => { x with mask := some (BitVec.ofNat 5 m) }

/-- FCU_REACT (R372). -/
def State.fcuReact (s : State) (o : Origin) (source : BitVec 16) (mask : Byte) : State :=
  s.perform o 0x0603 fun s =>
    match checkMask source.toNat mask.toNat with
    | some e => refuse s e
    | none => s.journaled (.fcuReact source mask) fun s => s.setMask source.toNat mask.toNat

/-- FCU_REACT. -/
def execFcuReact (o : Origin) (source : BitVec 16) (mask : Byte) (s : State) : Host.Outcome State Fault Refusal :=
  .next (s.fcuReact o source mask)

/-- A fault-log record (Table 17-4); a number of lost records beyond its byte reads 255 (R406, log 20). -/
def LogRec.bytes (r : LogRec) : List Byte :=
  bytesBE 4 r.num ++ bytesBE 6 r.time ++ bytesBE 2 r.source ++
    [BitVec.ofNat 8 (r.cls * 64 + r.react.toNat), BitVec.ofNat 8 r.target, BitVec.ofNat 8 (min 255 r.count), BitVec.ofNat 8 r.flags]

/-- LOG_READ (R385): the records numbered from first on. -/
def State.logRead (s : State) (o : Origin) (first : Word) (count : Byte) : State :=
  s.perform o 0x0604 fun s =>
    if count.toNat = 0 ∨ 32 < count.toNat then refuse s stBadParam
    else (stOk, ((s.nvm.log ++ s.fcu.pendLog).filter fun r =>
      decide (first.toNat ≤ r.num ∧ r.num < first.toNat + count.toNat)).flatMap LogRec.bytes, s)

/-- LOG_READ. -/
def execLogRead (o : Origin) (first : Word) (count : Byte) (s : State) : Host.Outcome State Fault Refusal :=
  .next (s.logRead o first count)

/-- The sticky bits and counts of one block instance are cleared (R356). -/
def State.clearStats (s : State) (kind i : Nat) : State :=
  match kind with
  | 0 => s.updDom i fun d => { d with stale := false, rev := false, clamp := false, rej := 0, missCnt := 0 }
  | 1 => s.updDom i fun d =>
      { d with resync := false, broken := false, late := false, skip := false, drop := false, lateCnt := 0, skipCnt := 0
               dropCnt := 0, discCnt := 0, last := none }
  | 2 => s.updChan i fun c =>
      { c.writeStat s.tick 0xFFFFFFFF with drops := 0, fires := 0 }
  | 3 => s.updPort i fun p => { p with brk := false, crce := false, refu := false, refused := 0, sloterr := 0 }
  | 4 => s.updMassif i fun m => { m with confCnt := [], confMax := [] }
  | 5 => s.updEth i fun e =>
      { e with bad := 0, nomatch_ := 0, rxq := e.rxq.map fun (q : Nat × Queue) => (q.1, { q.2 with drop := 0 })
               txq := e.txq.map fun (q : Nat × Queue) => (q.1, { q.2 with drop := 0 }) }
  | 6 => s.updRing fun r => { r with crce := 0, brka := false, brkb := false }
  | _ => s

/-- Instances of a block kind of STAT_CLEAR (R356). -/
def statCount (kind : Nat) : Nat :=
  match kind with
  | 0 | 1 => 8
  | 2 => 256
  | 3 => 64
  | 4 | 5 => 4
  | 6 => 1
  | _ => 0

/-- A job holds the block whose bits and counts STAT_CLEAR would clear: a domain or a chain port (R349). -/
def State.statHeld (s : State) (kind i : Nat) : Bool :=
  match kind with
  | 0 | 1 => s.domHeld i
  | 3 => s.jobHolds (·.holdsPort i)
  | _ => false

/-- STAT_CLEAR (R356, R349). -/
def State.statClear (s : State) (o : Origin) (kind index : Byte) : State :=
  s.perform o 0x0605 fun s =>
    if statCount kind.toNat ≤ index.toNat then refuse s stBadParam
    else if s.statHeld kind.toNat index.toNat then refuse s stBusy
    else (stOk, [], s.clearStats kind.toNat index.toNat)

/-- STAT_CLEAR. -/
def execStatClear (o : Origin) (kind index : Byte) (s : State) : Host.Outcome State Fault Refusal :=
  .next (s.statClear o kind index)

/-- Whether the test port and injection may act on a memory now (R273; unpowered or retained memories take no access, R244,
R268). -/
def State.eccMayAct (s : State) (m : Nat) : Bool :=
  (m != 0x88 || s.nvm.lc == 0 || s.nvm.lc == 3) && (s.pwr.st == .run || decide (0x85 ≤ m ∧ m ≤ 0x87))

/-- ECC_TEST (R271, R273): the test port takes the operation; the reply follows its completion. -/
def State.eccTest (s : State) (o : Origin) (mem op : Byte) (word : Word) (data : BitVec 64) (check : Byte) : State :=
  s.performLater o 0x0606 fun s =>
    let m := mem.toNat
    if memWords m ≤ word.toNat ∨ op.toNat = 0 ∨ 2 < op.toNat then (some stBadParam, s)
    else if !s.eccMayAct m then (some stBadState, s)
    else if s.ecc.busy then (some stBusy, s)
    else (none, s.updEcc fun e =>
      { e with tMem := m, tWord := word.toNat, td := if m < 0x40 then data &&& 0xFFFFFFFF#64 else data
               chk := if m < 0x40 then check &&& 0x7F#8 else check, op := op.toNat, busy := true, origin := some o })

/-- ECC_TEST. -/
def execEccTest (o : Origin) (mem op : Byte) (word : Word) (data : BitVec 64) (check : Byte) (s : State) :
    Host.Outcome State Fault Refusal := .next (s.eccTest o mem op word data check)

/-- The test port's operation is over: BUSY is 0 and the reply goes out (Table 15-5). -/
def State.testPortDone (s : State) : State :=
  let e := s.ecc
  let s := s.updEcc fun e => { e with busy := false, origin := none }
  match e.origin with
  | some o => s.reply o.session o.seq.toNat o.via 0x80 0x0606 stOk
      (bytesBE 8 e.td.toNat ++ [e.chk, e.syn, BitVec.ofNat 8 e.result]) true
  | none => s

/-- An operation of the test port on a memory that takes no access any more ends without effect and without a reply (R244, R273).
DESIGN CHOICE (log 46). -/
def State.testPortShut (s : State) : State :=
  if s.ecc.busy && !s.eccMayAct s.ecc.tMem then s.updEcc fun e => { e with busy := false, origin := none } else s

/-- RAW_READ: the stored data and check bits, the syndrome and the outcome (R271). -/
def execRawRead (s : State) : Host.Outcome State Fault Refusal :=
  let e := s.ecc
  if !e.busy || e.op != 1 then .next s else
  let d := s.wordData e.tMem e.tWord
  let syn := (s.memSyn e.tMem e.tWord).toNat
  .next (s.updEcc fun e =>
    { e with td := BitVec.ofNat 64 d, chk := BitVec.ofNat 8 (syn ^^^ eccEncode e.tMem d), syn := BitVec.ofNat 8 syn
             result := eccOutcome e.tMem syn }).testPortDone

/-- RAW_WRITE: data and check bits as given, unencoded (R271). -/
def execRawWrite (s : State) : Host.Outcome State Fault Refusal :=
  let e := s.ecc
  if !e.busy || e.op != 2 then .next s else
  .next (s.storeWord e.tMem e.tWord e.td.toNat (e.chk.toNat ^^^ eccEncode e.tMem e.td.toNat)).testPortDone

/-- ECC_INJECT (R272, R273). -/
def State.eccInject (s : State) (o : Origin) (mem : Byte) (word : Word) (ena bita enb bitb : Byte) : State :=
  s.perform o 0x0607 fun s =>
    let m := mem.toNat
    let top := if m < 0x40 then 38 else 71
    let bad (en b : Byte) : Bool := decide (1 < en.toNat) || decide (128 ≤ b.toNat) || (en == 1 && decide (top < b.toNat))
    if memWords m ≤ word.toNat ∨ bad ena bita = true ∨ bad enb bitb = true then refuse s stBadParam
    else if m = 0x88 ∧ s.nvm.lc ≠ 0 ∧ s.nvm.lc ≠ 3 then refuse s stBadState
    else (stOk, [], s.updEcc fun e =>
      { e with injArm := true, injEna := ena == 1, injEnb := enb == 1, injMem := m, injWord := word.toNat, injA := bita.toNat
               injB := bitb.toNat })

/-- ECC_INJECT. -/
def execEccInject (o : Origin) (mem : Byte) (word : Word) (ena bita enb bitb : Byte) (s : State) :
    Host.Outcome State Fault Refusal := .next (s.eccInject o mem word ena bita enb bitb)

/-- CHECKER_TEST (R383, R384): detect-only injection. -/
def State.checkerTest (s : State) (o : Origin) (source : BitVec 16) : State :=
  s.perform o 0x0608 fun s =>
    let n := source.toNat
    if 4096 ≤ n ∨ (srcInfo n).2 = false then refuse s stBadParam
    else match s.jobRefusal with
    | some e => refuse s e
    | none =>
      let job := s.cairn.nextJob % 256
      (s.updFcu fun u => { u with injArm := true, injHit := false, injMode := false, injSrc := n, injAt := some job
                                  injJobs := Tbl.set u.injJobs job (s.tick, none) }).startJob o 0x0608 (.checkerTest n)

/-- CHECKER_TEST. -/
def execCheckerTest (o : Origin) (source : BitVec 16) (s : State) : Host.Outcome State Fault Refusal :=
  .next (s.checkerTest o source)

/-- Engine ticks from the arming of a CHECKER_TEST job's injection to its HIT, once there is one (R384). -/
def State.injTime (s : State) (j : Job) : Option Nat := (Tbl.get (0, none) s.fcu.injJobs j.num).2

/-- A CHECKER_TEST job has its HIT (R384). -/
def State.injDone (s : State) (j : Job) : Bool := (s.injTime j).isSome

/-- A CHECKER_TEST job is over: what it waited for goes. -/
def State.injOver (s : State) (j : Job) : State := s.updFcu fun u => { u with injJobs := Tbl.del u.injJobs j.num }

/-- Reply data of CHECKER_TEST (R384): source, HIT, microseconds from arming to HIT. -/
def State.injData (s : State) (j : Job) (source : Nat) : List Byte :=
  bytesBE 2 source ++ [1] ++ bytesBE 4 ((s.injTime j).getD 0 / 320)

/-- A running CHECKER_TEST job. -/
def Job.isChecker (j : Job) : Bool :=
  match j.work with
  | .checkerTest _ => true
  | _ => false

/-- CHECKER_TEST_TIMEOUT (R384): 100 ms without HIT; ARM clears. -/
def execCheckerTestTimeout (s : State) : Host.Outcome State Fault Refusal :=
  match s.cairn.jobs.find? fun j => j.isChecker && !s.injDone j with
  | none => .next s
  | some j =>
    let s := s.advanceTo (s.fcu.armedAt j.num + 32000000)
    if s.injDone j then .next s else
    let s := if s.fcu.injAt = some j.num then s.updFcu fun u => { u with injArm := false, injAt := none } else s
    .next ((s.injOver j).finishJob j stTimeout [])

/-- Status of a CORE_TEST request: none where Table 8-6 accepts it. DESIGN CHOICE (log 44): a member of a RUNNING triad with DEGRADED = 1
in a massif without a SPARE or FREE core meets two rows of the table; the request is accepted. -/
def State.checkCoreTest (s : State) (c : Nat) : Option Nat :=
  let x := s.core c
  let y := s.ridge x.ridge
  match x.st with
  | .member =>
    if y.running then
      if y.kind = 1 then some stBadState
      else if s.noSpareIn (massifOf c) && !(y.kind == 3 && y.degraded) then some stNoSpare
      else none
    else if y.st == .ready || y.st == .halted then none
    else some stBadState
  | .spare | .free | .quarantined => none
  | _ => some stBadState

/-- What an accepted CORE_TEST starts at once (Table 8-6): a member of a running ridge waits for its rotation col.
DESIGN CHOICE (log 44): a FREE core under test may be recalled for a fill col as a SPARE may (R189), of which alone the table says so. -/
def State.coreTestStart (s : State) (c : Nat) : State :=
  let x := s.core c
  match x.st with
  | .member => if (s.ridge x.ridge).running then s else s.testInPlace c
  | .quarantined => s.updCore c fun x => x.startTest .quarantine
  | _ => s.updCore c fun x => x.startTest .spare

/-- CORE_TEST (R192, R357). -/
def State.coreTest (s : State) (o : Origin) (core : Byte) : State :=
  s.perform o 0x0701 fun s =>
    let c := core.toNat
    if 64 ≤ c then refuse s stBadParam
    else if s.pwr.st != .run then refuse s stBadState
    else match s.checkCoreTest c with
    | some e => refuse s e
    | none =>
      if s.jobHolds (fun w => w.holdsCore c || ((s.core c).st == .member && w.holdsRidge (s.core c).ridge)) then refuse s stBusy else
      match s.jobRefusal with
      | some e => refuse s e
      | none => (s.coreTestStart c).startJob o 0x0701 (.coreTest core)

/-- CORE_TEST. -/
def execCoreTest (o : Origin) (core : Byte) (s : State) : Host.Outcome State Fault Refusal := .next (s.coreTest o core)

/-- ROT_CFG is written (Table 8-11). -/
def State.setRot (s : State) (m en pairs step : Nat) : State :=
  s.updMassif m fun x => { x with rotEn := en == 1, rotPairs := pairs == 1, rotStep := step }

/-- ROT_CONFIG. -/
def State.rotConfig (s : State) (o : Origin) (massif en pairs : Byte) (stepMs : BitVec 16) : State :=
  s.perform o 0x0702 fun s =>
    if 4 ≤ massif.toNat ∨ 1 < en.toNat ∨ 1 < pairs.toNat then refuse s stBadParam
    else s.journaled (.rotConfig massif en pairs stepMs) fun s => s.setRot massif.toNat en.toNat pairs.toNat stepMs.toNat

/-- ROT_CONFIG. -/
def execRotConfig (o : Origin) (massif en pairs : Byte) (stepMs : BitVec 16) (s : State) : Host.Outcome State Fault Refusal :=
  .next (s.rotConfig o massif en pairs stepMs)

/-- COL_CFG is written (Table 8-7). -/
def State.setCol (s : State) (m prio delay : Nat) : State := s.updMassif m fun x => { x with prio := prio, prioDelay := delay }

/-- COL_CONFIG. -/
def State.colConfig (s : State) (o : Origin) (massif prio delay : Byte) : State :=
  s.perform o 0x0703 fun s =>
    if 4 ≤ massif.toNat ∨ 2 < prio.toNat then refuse s stBadParam
    else s.journaled (.colConfig massif prio delay) fun s => s.setCol massif.toNat prio.toNat delay.toNat

/-- COL_CONFIG. -/
def execColConfig (o : Origin) (massif prio delay : Byte) (s : State) : Host.Outcome State Fault Refusal :=
  .next (s.colConfig o massif prio delay)

/-- TEST_STATUS (Table 15-5). -/
def State.testStatus (s : State) (o : Origin) (massif : Byte) : State :=
  s.perform o 0x0704 fun s =>
    if 4 ≤ massif.toNat then refuse s stBadParam
    else
      let b := 0x40000 + massif.toNat * 0x1000
      (stOk, s.regBytes ([0xE04, 0xE08, 0xE0C, 0xE10].map (· + b) ++ (List.range 16).map (fun i => b + 0xE40 + 4 * i) ++
        (List.range 16).map fun i => b + 0xF00 + 4 * i), s)

/-- TEST_STATUS. -/
def execTestStatus (o : Origin) (massif : Byte) (s : State) : Host.Outcome State Fault Refusal := .next (s.testStatus o massif)

end Sys2Proof.Machine
end

