-- ==== Sys2Proof/Machine/CmdSystem.lean ====
section
/-!
DEFINITION. The firmware, lifecycle, vault and station-ring commands 0x0801 to 0x0A04, the firmware swap and the epoch (15, 18).
-/

namespace Sys2Proof.Machine

/-- A job holds the firmware store (R349). -/
def State.fwHeld (s : State) : Bool :=
  s.jobHolds fun w => match w with
    | .fwEnd => true
    | .fwActivate => true
    | _ => false

/-- FW_BEGIN: an image is at most 192 KiB (R390). -/
def State.fwBegin (s : State) (o : Origin) (len : Word) (digest : BitVec 384) : State :=
  s.perform o 0x0801 fun s =>
    if 196608 < len.toNat then refuse s stBadParam
    else if s.fwHeld then refuse s stBusy
    else (stOk, [], s.updCairn fun c => { c with fw := some (len.toNat, digest), fwBuf := [] })

/-- FW_BEGIN. -/
def execFwBegin (o : Origin) (len : Word) (digest : BitVec 384) (s : State) : Host.Outcome State Fault Refusal :=
  .next (s.fwBegin o len digest)

/-- FW_DATA: data at an offset of the image; the latest chunk counts. -/
def State.fwData (s : State) (o : Origin) (offset : Word) (data : List Byte) : State :=
  s.perform o 0x0802 fun s =>
    match s.cairn.fw with
    | none => refuse s stBadState
    | some (len, _) =>
      if s.fwHeld then refuse s stBusy
      else if len < offset.toNat + data.length then refuse s stBadParam
      else (stOk, [], s.updCairn fun c => { c with fwBuf := (offset.toNat, data) :: c.fwBuf })

/-- FW_DATA. -/
def execFwData (o : Origin) (offset : Word) (data : List Byte) (s : State) : Host.Outcome State Fault Refusal :=
  .next (s.fwData o offset data)

/-- Byte i of chunks. -/
def chunkByte (l : Tbl (List Byte)) (i : Nat) : Option Byte :=
  match l.find? fun e => decide (e.1 ≤ i ∧ i < e.1 + e.2.length) with
  | some e => e.2[i - e.1]?
  | none => none

/-- FW_END (R359): the job that verifies the image. -/
def State.fwEnd (s : State) (o : Origin) : State :=
  s.perform o 0x0803 fun s =>
    if s.cairn.fw.isNone then refuse s stBadState
    else if s.fwHeld then refuse s stBusy
    else match s.jobRefusal with
    | some e => refuse s e
    | none => s.startJob o 0x0803 .fwEnd

/-- FW_END. -/
def execFwEnd (o : Origin) (s : State) : Host.Outcome State Fault Refusal := .next (s.fwEnd o)

/-- The end of a FW_END job (R359): status, reply data and state. -/
def State.fwStore (s : State) : Nat × List Byte × State :=
  match s.cairn.fw with
  | none => (stImageBad, [], s)
  | some (len, dig) =>
    let l := (List.range len).filterMap (chunkByte s.cairn.fwBuf)
    let s := s.updCairn fun c => { c with fw := none, fwBuf := [] }
    if l.length = len ∧ Config.sha384 l = dig ∧ Config.fwSigned l = true then
      let f : Firmware := { bytes := l, version := Config.fwVersion l, epoch := Config.fwEpoch l }
      (stOk, be f.version, s.updNvm fun v => v.putStandby f)
    else (stImageBad, [], s)

/-- An image passes the checks of R390. -/
def State.fwGood (s : State) (f : Firmware) : Bool :=
  Config.fwSigned f.bytes && (s.nvm.lc != 2 || decide (s.nvm.fwEpoch ≤ f.epoch))

/-- An image goes into the upper half of Cairn RAM (R409), whose words it initialises; the last one is filled up with zeros (log 20). -/
def State.loadFirmware (s : State) (f : Firmware) : State :=
  let b := f.bytes.take 0x40000
  s.loadBytes 0x85 0x40000 (b ++ List.replicate ((8 - b.length % 8) % 8) 0)

/-- FW_ACTIVATE (R359, R409): the standby image is loaded and verified again, and the exchange of slot roles committed, with which it is
the active one. -/
def State.fwActivate (s : State) (o : Origin) : State :=
  s.perform o 0x0804 fun s =>
    match s.nvm.fwStandby with
    | none => refuse s stBadState
    | some f =>
      if s.fwHeld then refuse s stBusy
      else match s.jobRefusal with
      | some e => refuse s e
      | none =>
        let s := s.loadFirmware f
        if !s.fwGood f then s.startJobWith o 0x0804 .fwActivate (some stImageBad)
        else
          let extra := match s.nvm.board with
            | some b => b.pHold * 5000
            | none => 0
          match s.commit [.other 0x0804] extra with
          | (some e, s) => refuse s e
          | (none, s) => ((s.updNvm Nvm.swapRoles).updCairn fun c => { c with fwSwap := true }).startJob o 0x0804 .fwActivate

/-- FW_ACTIVATE. -/
def execFwActivate (o : Origin) (s : State) : Host.Outcome State Fault Refusal := .next (s.fwActivate o)

/-- FIRMWARE_SWAP (R359, R409): at the first moment at which no other job runs the image that is now active takes over. In recovery it
then starts as a normal start-up would (R389). -/
def execFirmwareSwap (s : State) : Host.Outcome State Fault Refusal :=
  match s.cairn.jobs, s.nvm.fwActive with
  | [j], some f =>
    if !s.cairn.fwSwap || j.work != .fwActivate || !s.cairnRuns then .next s else
    let s := (s.updCairn fun c => { c with fwSwap := false, swapAt := some s.tick }).updFcu fun u => { u with keep := true }
    let s := (s.updPwr fun p => { p with fwVer := f.version }).finishJob j stOk (be f.version)
    .next (if s.cairn.recovery then
      (s.updCairn fun c => { c with recovery := false, ready := false }).updPwr fun p => { p with bootsel := 0 }
     else s)
  | _, _ => .next s

/-- EPOCH_RAISE (R409): 60 s after the swap, in OPERATIONAL. -/
def execEpochRaise (s : State) : Host.Outcome State Fault Refusal :=
  match s.cairn.swapAt with
  | none => .next s
  | some t =>
    if !s.cairnServes then .next s else
    let s := s.advanceTo (t + 60 * 320000000)
    let s := s.updCairn fun c => { c with swapAt := none }
    .next (if s.nvm.lc = 2 then
      s.updNvm fun v => { v with fwEpoch := max v.fwEpoch (match v.fwActive with | some f => f.epoch | none => 0) }
     else s)

/-- NVM_STATUS (18, Registers): the journal area's use counts the pages of its records, whose sizes are free (log 7). -/
def State.nvmStatus (s : State) (o : Origin) : State :=
  s.perform o 0x0805 fun s =>
    let s := s.checkpoint
    (stOk, s.regBytes ((List.range 8).map fun i => 0x700000 + 4 * i) ++
      be (match s.nvm.fwStandby with | some f => f.version | none => 0) ++ [BitVec.ofNat 8 (min 100 (s.nvm.jused * 100 / 4096))] ++
      bytesBE 2 s.fcu.pendLog.length ++ [0], s)

/-- NVM_STATUS. -/
def execNvmStatus (o : Origin) (s : State) : Host.Outcome State Fault Refusal := .next (s.nvmStatus o)

/-- A part of the sealed store is rewritten in its unused half (R398). -/
def Nvm.reseal (v : Nvm) : Nvm := { v with sealHalf := 1 - v.sealHalf }

/-- CRED_ADD (R346). An identifier that the table holds already is refused, as is every change while the table is not held (log 20). -/
def State.credAdd (s : State) (o : Origin) (cred : Word) (role : Byte) (key : List Byte) : State :=
  s.perform o 0x0901 fun s =>
    if cred = 0 ∨ cred = 0xFFFFFFFF ∨ 3 < role.toNat ∨ Config.pointOk key = false ∨ (s.nvm.creds.any fun e => e.1 == cred) = true
    then refuse s stBadParam
    else if s.creds.isNone = true ∨ 64 ≤ s.nvm.creds.length then refuse s stBadState
    else s.journaled (.other 0x0901) fun s => s.updNvm fun v => ({ v with creds := v.creds ++ [(cred, role.toNat, key)] } : Nvm).reseal

/-- CRED_ADD. -/
def execCredAdd (o : Origin) (cred : Word) (role : Byte) (key : List Byte) (s : State) : Host.Outcome State Fault Refusal :=
  .next (s.credAdd o cred role key)

/-- CRED_REVOKE (R345, R346): its sessions end. -/
def State.credRevoke (s : State) (o : Origin) (cred : Word) : State :=
  s.perform o 0x0902 fun s =>
    if !s.nvm.creds.any fun e => e.1 == cred then refuse s stBadParam
    else if s.creds.isNone then refuse s stBadState
    else s.journaled (.other 0x0902) fun s =>
      let s := s.updNvm fun v => ({ v with creds := v.creds.filter fun e => e.1 != cred } : Nvm).reseal
      (s.cairn.sessions.filter fun x => x.cred == cred).foldl (fun (s : State) x => s.endSession x.sid) s

/-- CRED_REVOKE. -/
def execCredRevoke (o : Origin) (cred : Word) (s : State) : Host.Outcome State Fault Refusal := .next (s.credRevoke o cred)

/-- CRED_LIST (Table 15-5). -/
def State.credList (s : State) (o : Origin) : State :=
  s.perform o 0x0903 fun s =>
    match s.creds with
    | some l => (stOk, BitVec.ofNat 8 l.length :: l.flatMap fun e => be e.1 ++ [BitVec.ofNat 8 e.2.1], s)
    | none => refuse s stBadState

/-- CRED_LIST. -/
def execCredList (o : Origin) (s : State) : Host.Outcome State Fault Refusal := .next (s.credList o)

/-- The vault may hold data: it is powered and not being wiped (R268, R400). -/
def State.vaultUp (s : State) : Bool := s.pwr.st == .run && !s.pwr.wipeBusy

/-- A load of the vault in flight ends with an error response and zeros (R400, R33). -/
def LoadReq.shut (l : LoadReq) : LoadReq :=
  if l.sent && rowOf l.req.addr.toNat == some .vault then
    { l with ready := true, err := some 3, data := List.replicate l.req.size (0, false) }
  else l

/-- The same of a posted store, and of the reads and writes of a DMA channel (R400, R254). -/
def Posted.shut (f : Posted) : Posted :=
  if rowOf f.req.addr.toNat == some .vault then { f with ready := true, resp := f.resp.or (some 3) } else f

/-- Reads and writes of a DMA channel in flight to the vault end with an error response (R400, R254). -/
def Dma.shut (d : Dma) : Dma :=
  let vault (q : Req) : Bool := rowOf q.addr.toNat == some .vault
  { d with reads := d.reads.map fun e => if vault e.req then { e with ready := true, err := e.err.or (some 3), data := [] } else e
           writes := d.writes.map fun e => if vault e.1 then (e.1, e.2.1.or (some 3), true) else e }

/-- Every vault access in flight returns an error response (R400). -/
def State.shutVault (s : State) : State :=
  { s with
    ridges := s.ridges.map fun (e : Nat × Ridge) =>
      (e.1, { e.2 with loads := e.2.loads.map LoadReq.shut, flying := e.2.flying.map Posted.shut })
    massifs := s.massifs.map fun (e : Nat × Massif) => (e.1, { e.2 with dma := e.2.dma.map fun (d : Nat × Dma) => (d.1, d.2.shut) }) }

/-- Everything that the vault holds is gone: its memory, and with it keys and identity part (R268, R400). -/
def State.clearVault (s : State) : State := (s.clearAll 0x88).updPwr fun p => { p with vaultId := false, lateKeys := [] }

/-- A vault wipe starts, or starts again, or falls due at the next wake (R400). after: bits of what follows it. -/
def State.startWipe (s : State) (after : Nat) : State :=
  let s := s.updPwr fun p => { p with wiped := false, wipeThen := p.wipeThen ||| after }
  if s.pwr.st == .run then
    s.shutVault.clearVault.updPwr fun p => { p with wipeBusy := true, wipeDue := false }
  else s.updPwr fun p => { p with wipeDue := true }

/-- Every word of the vault holds zero data and zero check bits, as a raw read-back finds it (R400). -/
def State.vaultZero (s : State) : Bool :=
  (s.mem.all fun c => !decide (memKey 0x88 0 ≤ c.1 ∧ c.1 < memKey 0x89 0)) &&
    s.syn.all fun c => !decide (synKey 0x88 0 ≤ c.1 ∧ c.1 < synKey 0x89 0)

/-- Every ridge that passes p is dissolved. -/
def State.dissolveIf (s : State) (p : Ridge → Bool) : State :=
  (List.range 64).foldl (fun (s : State) r => if p (s.ridge r) then (s.abortJobs r).dissolve r else s) s

/-- Every chain port stops, with EN = 0 (R397, R401). -/
def State.stopPorts (s : State) : State :=
  (List.range 64).foldl (fun (s : State) n => if (s.port n).en then (s.portOff n).updPort n fun p => { p with en := false } else s) s

/-- Table 18-4: the change is allowed. -/
def State.lcAllowed (s : State) (target : Nat) : Bool :=
  let custodian := (s.creds.getD []).any fun e => e.2.1 == 3
  if s.nvm.lc = 0 ∧ target = 1 then custodian && s.nvm.identity && s.pwr.brdok
  else if s.nvm.lc = 1 ∧ target = 2 then custodian
  else (s.nvm.lc == 1 || s.nvm.lc == 2) && target == 3

/-- LC_ADVANCE (R397, R359): the checks and the commit; the job does the rest. -/
def State.lcAdvance (s : State) (o : Origin) (target : Byte) (serial : BitVec 64) : State :=
  s.perform o 0x0904 fun s =>
    if !s.lcAllowed target.toNat then refuse s stBadState
    else if serial ≠ s.nvm.serial then refuse s stBadParam
    else if s.jobHolds (fun w => match w with | .lcAdvance _ => true | _ => false) then refuse s stBusy
    else match s.jobRefusal with
    | some e => refuse s e
    | none =>
      match s.commit [.lcAdvance target serial] with
      | (some e, s) => refuse s e
      | (none, s) => s.startJob o 0x0904 (.lcAdvance target)

/-- LC_ADVANCE. -/
def execLcAdvance (o : Origin) (target : Byte) (serial : BitVec 64) (s : State) : Host.Outcome State Fault Refusal :=
  .next (s.lcAdvance o target serial)

/-- Step 3 of R397: the OTP bits of the new state; the secrets part no longer opens and is erased (R398). -/
def State.lcProgram (s : State) (target : Nat) : State :=
  (s.updNvm fun v => { v with lc := max v.lc target, keys := [], keySeal := none }).testPortShut

/-- The identity part of the sealed store goes into the vault (R398). -/
def State.loadIdentity (s : State) : State := s.updPwr fun p => { p with vaultId := s.nvm.identity && p.st == .run }

/-- Steps 5 to 7 of R397, after the wipe. -/
def State.lcFinish (s : State) (target : Nat) : State :=
  let s := s.endSessions
  (if target = 3 then (s.dissolveIf fun _ => true).stopPorts else s.dissolveIf fun x => x.secure).loadIdentity

/-- How far a JOB_COMPLETION brings an LC_ADVANCE job (R397): steps 3 and 4; once that wipe has ended, or has fallen due at the next
wake (R400), the rest. -/
def State.lcJob (s : State) (j : Job) (target : Byte) : State :=
  let s := if s.nvm.lc < target.toNat then (s.lcProgram target.toNat).startWipe 0 else s
  if s.pwr.wipeBusy then s else (s.lcFinish target.toNat).finishJob j stOk [target]

/-- The key that wraps a vault key (R399). -/
def wrapKey (kc : List Byte) (slot : Nat) : List Byte :=
  (List.range 32).map fun i => Config.hkdf kc [] [0x4A, 0x49, 0x4B, 0x41, 0x52, 0x2D, 0x56, 0x4B, BitVec.ofNat 8 slot] i

/-- A key slot goes into the vault, after the wipe where one is in progress (R399, R400). -/
def State.putKey (s : State) (slot : Nat) (key : List Byte) : State :=
  if s.vaultUp then s.loadBytes 0x88 (0x3FE00 + 32 * slot) key
  else if s.pwr.wipeBusy then s.updPwr fun p => { p with lateKeys := Tbl.set p.lateKeys slot key }
  else s

/-- Cairn opens the secrets part (R398, R399): a pending tamper advances TEPOCH first, and a part sealed to another state does not open
and is erased. -/
def State.openSecrets (s : State) : State :=
  let s := if s.pwr.tamperPend then
      (s.updNvm fun v => { v with tepoch := min 64 (v.tepoch + 1) }).updPwr fun p => { p with tamperPend := false }
    else s
  if s.nvm.keySeal = some (s.nvm.lc, s.nvm.tepoch) then s else s.updNvm fun v => { v with keys := [], keySeal := none }

/-- VAULT_KEY (R399). The additional data of its GCM is empty. -/
def State.vaultKey (s : State) (o : Origin) (slot : Byte) (wrapped : List Byte) : State :=
  s.perform o 0x0905 fun s =>
    let kc := ((s.session o.session).map Session.kc).getD []
    let k := wrapKey kc slot.toNat
    let nonce := List.replicate 8 0 ++ be o.seq
    let c := wrapped.take 32
    if 16 ≤ slot.toNat ∨ wrapped.length ≠ 64 ∨ (wrapped.drop 48).any (fun b => b != 0) = true then refuse s stBadParam
    else if gcmTagBytes k nonce [] c ≠ (wrapped.drop 32).take 16 then refuse s stBadParam
    else
      let s := s.openSecrets
      if 64 ≤ s.nvm.tepoch then refuse s stBadState
      else
        let key := gcmCrypt k nonce c
        s.journaled (.other 0x0905) fun s =>
          (s.updNvm fun v => ({ v with keys := Tbl.set v.keys slot.toNat key, keySeal := some (v.lc, v.tepoch) } : Nvm).reseal).putKey
            slot.toNat key

/-- VAULT_KEY. -/
def execVaultKey (o : Origin) (slot : Byte) (wrapped : List Byte) (s : State) : Host.Outcome State Fault Refusal :=
  .next (s.vaultKey o slot wrapped)

/-- VAULT_WIPE (R400). -/
def State.vaultWipe (s : State) (o : Origin) : State :=
  s.perform o 0x0906 fun s =>
    match s.jobRefusal with
    | some e => refuse s e
    | none => (s.startWipe 0).startJob o 0x0906 .vaultWipe

/-- VAULT_WIPE. -/
def execVaultWipe (o : Origin) (s : State) : Host.Outcome State Fault Refusal := .next (s.vaultWipe o)

/-- SCAN_ENABLE (R401): the OK reply, then the steps. -/
def State.scanEnable (s : State) (o : Origin) : State :=
  let t := s.perform o 0x0907 fun s => if s.nvm.lc = 0 ∨ s.nvm.lc = 3 then (stOk, [], s) else refuse s stBadState
  if s.mayRun o 0x0907 && (s.nvm.lc == 0 || s.nvm.lc == 3) then ((t.dissolveIf fun _ => true).stopPorts).startWipe 1 else t

/-- SCAN_ENABLE. -/
def execScanEnable (o : Origin) (s : State) : Host.Outcome State Fault Refusal := .next (s.scanEnable o)

/-- SR_STATUS (Table 15-5). -/
def State.srStatus (s : State) (o : Origin) : State :=
  s.perform o 0x0A01 fun s => (stOk, s.regBytes [0x310000, 0x310004], s)

/-- SR_STATUS. -/
def execSrStatus (o : Origin) (s : State) : Host.Outcome State Fault Refusal := .next (s.srStatus o)

/-- SR_MIN is written (Table 14-8). -/
def State.setMirror (s : State) (k src line en : Nat) : State :=
  s.updRing fun x => { x with min := Tbl.set x.min k (en == 1, src, line) }

/-- SR_MIRROR (R331). -/
def State.srMirror (s : State) (o : Origin) (k src line en : Byte) : State :=
  s.perform o 0x0A02 fun s =>
    if 16 ≤ k.toNat ∨ 64 ≤ src.toNat ∨ 16 ≤ line.toNat ∨ 1 < en.toNat then refuse s stBadParam
    else s.journaled (.srMirror k src line en) fun s => s.setMirror k.toNat src.toNat line.toNat en.toNat

/-- SR_MIRROR. -/
def execSrMirror (o : Origin) (k src line en : Byte) (s : State) : Host.Outcome State Fault Refusal :=
  .next (s.srMirror o k src line en)

/-- SR_MB_CFG is written; EN is 1 while the mailbox has an owner (Table 14-8). -/
def State.setMailbox (s : State) (m : Nat) (owner : Option Nat) (peer peerMb page : Nat) : State :=
  s.updMbox m fun b => { b with en := owner.isSome, owner := owner, peer := peer, peerMb := peerMb, page := page }

/-- SR_MAILBOX (R332, R352): owner 0xFF is none. -/
def State.srMailbox (s : State) (o : Origin) (mb owner peer peerMb page : Byte) : State :=
  s.perform o 0x0A03 fun s =>
    let m := mb.toNat
    let w := assignTo owner
    if 15 ≤ m ∨ (w.isSome = true ∧ 64 ≤ owner.toNat) ∨ 64 ≤ peer.toNat ∨ 16 ≤ peerMb.toNat ∨ 128 ≤ page.toNat
    then refuse s stBadParam
    else if w.isSome && (s.ridge owner.toNat).st == .free then refuse s stBadState
    else if w.isSome && (s.mbox m).owner.isSome && (s.mbox m).owner != w then refuse s stBusy
    else if w.isSome && Tbl.get none s.pages page.toNat != w then refuse s stBadParam
    else s.journaled (.srMailbox mb owner peer peerMb page) fun s => s.setMailbox m w peer.toNat peerMb.toNat page.toNat

/-- SR_MAILBOX. -/
def execSrMailbox (o : Origin) (mb owner peer peerMb page : Byte) (s : State) : Host.Outcome State Fault Refusal :=
  .next (s.srMailbox o mb owner peer peerMb page)

/-- A device has this ring address: it lies below the COUNT of an enumeration, is this device's, or was heard on the ring, where every
device sends supervision frames (R329, R330, R358, log 18). -/
def SRing.has (x : SRing) (a : Nat) : Bool := decide (a < x.count) || (x.addr == a && a != 0x3F) || x.peers.contains a

/-- SR_FORWARD (R358): the inner packet goes to MB15 of the device; the reply waits. -/
def State.srForward (s : State) (o : Origin) (addr : Byte) (inner : List Byte) : State :=
  s.performLater o 0x0A04 fun s =>
    let a := addr.toNat
    if 64 ≤ a ∨ s.ring.has a = false then (some stBadParam, s)
    else if 1472 < inner.length then (some stBadLen, s)
    else if s.cairn.fwds.any fun e => e.1 == a then (some stBusy, s)
    else (none, (s.ringPacket a inner).updCairn fun c => { c with fwds := c.fwds ++ [(a, o)] })

/-- SR_FORWARD. -/
def execSrForward (o : Origin) (addr : Byte) (inner : List Byte) (s : State) : Host.Outcome State Fault Refusal :=
  .next (s.srForward o addr inner)

/-- A forwarded packet is answered, or has not been in time (R358). -/
def State.forwardDone (s : State) (a status : Nat) (data : List Byte) : State :=
  match s.cairn.fwds.find? fun e => e.1 == a with
  | none => s
  | some e =>
    (s.updCairn fun c => { c with fwds := c.fwds.filter fun x => x.1 != a }).reply e.2.session e.2.seq.toNat e.2.via 0x80 0x0A04
      status data true

/-- SR_FORWARD_TIMEOUT (R358): no inner reply within 100 ms. -/
def execSrForwardTimeout (addr : BitVec 6) (s : State) : Host.Outcome State Fault Refusal :=
  .next (s.forwardDone addr.toNat stTimeout [])

end Sys2Proof.Machine
end

