-- ==== Sys2Proof/Machine/Packet.lean ====
section
/-!
DEFINITION. What Cairn does with the packet at the head of the command queue (R341, R344), the payload of each opcode
(Table 15-5), and the end of a job (R348, R349).
-/

namespace Sys2Proof.Machine

/-- Step 6 of R341: the payload's length, then its zero fields; f is the opcode itself. -/
def State.opWith (s : State) (o : Origin) (op : Nat) (lenOk zeroOk : Bool) (f : Unit → State) : State :=
  if !lenOk then s.perform o op fun s => refuse s stBadLen
  else if !zeroOk then s.perform o op fun s => refuse s stBadParam
  else f ()

/-- Word of a payload at a byte offset. -/
def wordAt (l : List Byte) (i : Nat) : Word := BitVec.ofNat 32 (field l i 4)

/-- Words of a payload from a byte offset on. -/
def wordsAt (l : List Byte) (i n : Nat) : List Word := (List.range n).map fun k => wordAt l (i + 4 * k)

/-- The record of 20 bytes at a place of an AST_ADD payload (Table 15-7). -/
def recAt (l : List Byte) (i : Nat) : AstRec :=
  { op := at_ l i 0, flags := at_ l (i + 1) 0, until_ := BitVec.ofNat 16 (field l (i + 2) 2), index := wordAt l (i + 4)
    w0 := wordAt l (i + 8), w1 := wordAt l (i + 12), w3 := wordAt l (i + 16) }

/-- The matrix row that CH_EN0 to CH_EN15 of a payload give (Table 12-6). -/
def rowAt (l : List Byte) (i : Nat) : BitVec 512 :=
  (List.range 16).foldl (fun (a : BitVec 512) k => a ||| ((wordAt l (i + 4 * k)).setWidth 512 <<< (32 * k))) 0

/-- Opcodes 0x00xx and 0x01xx with their payloads (Table 15-5). -/
def State.runOp0 (s : State) (o : Origin) (op : Nat) (l : List Byte) : State :=
  let n := l.length
  let b (i : Nat) : Byte := at_ l i 0
  match op with
  | 0x0002 => s.opWith o op (n == 0) true fun _ => s.confirm o
  | 0x0003 => s.opWith o op (n == 0) true fun _ => s.close o
  | 0x0004 => s.opWith o op (n == 0) true fun _ => s.identify o
  | 0x0005 => s.opWith o op (n == 0) true fun _ => s.sessionInfo o
  | 0x0006 => s.opWith o op (n == 1) true fun _ => s.jobStatus o (b 0)
  | 0x0007 => s.ping o l
  | 0x0101 => s.opWith o op (n == 13) true fun _ =>
      s.ridgeForm o (b 0) (b 1) (b 2) (b 3) (b 4) (b 5) (b 6) (b 7) (b 8) (wordAt l 9)
  | 0x0102 => s.opWith o op (n == 1) true fun _ => s.ridgeRelease o (b 0)
  | 0x0103 => s.opWith o op (n == 1) true fun _ => s.ridgeHalt o (b 0)
  | 0x0104 => s.opWith o op (n == 1) true fun _ => s.ridgeDissolve o (b 0)
  | 0x0105 => s.opWith o op (n == 4) (field l 1 3 == 0) fun _ => s.ridgeStatus o (b 0)
  | 0x0106 => s.opWith o op (n == 2) true fun _ => s.ridgePolicy o (b 0) (b 1)
  | 0x0107 => s.opWith o op (n == 6) true fun _ => s.ridgeReload o (b 0) (b 1) (wordAt l 2)
  | 0x0108 => s.opWith o op (n == 4) true fun _ => s.assign o (b 0) (BitVec.ofNat 16 (field l 1 2)) (b 3)
  | 0x0109 => s.opWith o op (n == 22) true fun _ =>
      s.memRegion o (b 0) (b 1) (wordAt l 2) (wordAt l 6) (wordAt l 10) (wordAt l 14) (wordAt l 18)
  | 0x010A => s.opWith o op (n == 4) true fun _ => s.memBankown o (b 0) (b 1) (b 2) (b 3)
  | _ => s.perform o op fun s => refuse s stUnknownOp

/-- Opcodes 0x02xx to 0x05xx. -/
def State.runOp1 (s : State) (o : Origin) (op : Nat) (l : List Byte) : State :=
  let n := l.length
  let b (i : Nat) : Byte := at_ l i 0
  match op with
  | 0x0201 => s.opWith o op (n == 60) (field l 1 3 == 0) fun _ =>
      s.imgBegin o (b 0) (wordAt l 4) (wordAt l 8) (BitVec.ofNat 384 (field l 12 48))
  | 0x0202 => s.opWith o op (decide (8 ≤ n)) (field l 1 3 == 0) fun _ => s.imgData o (b 0) (wordAt l 4) (l.drop 8)
  | 0x0203 => s.opWith o op (n == 1) true fun _ => s.imgEnd o (b 0)
  | 0x0204 => s.opWith o op (n == 0) true fun _ => s.imgList o
  | 0x0205 => s.opWith o op (n == 1) true fun _ => s.imgErase o (b 0)
  | 0x0301 => s.opWith o op (n == 44) (field l 1 3 == 0) fun _ => s.adConfig o (b 0) (wordsAt l 4 10)
  | 0x0302 => s.opWith o op (n == 4) true fun _ => s.adOffsetCmd o (b 0) (BitVec.ofNat 24 (field l 1 3))
  | 0x0303 => s.opWith o op (n == 1) true fun _ => s.adStatus o (b 0)
  | 0x0304 => s.opWith o op (n == 4) (b 1 == 0) fun _ => s.astOpen o (b 0) (BitVec.ofNat 16 (field l 2 2))
  | 0x0305 => s.opWith o op (n % 20 == 0) true fun _ => s.astAdd o ((List.range (n / 20)).map fun k => recAt l (20 * k))
  | 0x0306 => s.opWith o op (n == 0) true fun _ => s.astCommit o
  | 0x0307 => s.opWith o op (n == 0) true fun _ => s.astDiscard o
  | 0x0308 => s.opWith o op (n == 5) true fun _ => s.astRead o (wordAt l 0) (b 4)
  | 0x0309 => s.opWith o op (n == 1) true fun _ => s.astStats o (b 0)
  | 0x0401 => s.opWith o op (n == 12) (field l 1 3 == 0) fun _ => s.chConfig o (b 0) (wordAt l 4) (wordAt l 8)
  | 0x0402 => s.opWith o op (n == 68) (field l 1 3 == 0) fun _ => s.chRow o (b 0) (rowAt l 4)
  | 0x0403 => s.opWith o op (n == 1) true fun _ => s.chStatus o (b 0)
  | 0x0501 => s.opWith o op (n == 200) (field l 1 3 == 0) fun _ => s.chpConfig o (b 0) (wordAt l 4) (wordsAt l 8 48)
  | 0x0502 => s.opWith o op (n == 2) true fun _ => s.chpEnum o (b 0) (b 1)
  | 0x0503 => s.opWith o op (n == 2) true fun _ => s.chpNode o (b 0) (b 1)
  | 0x0504 => s.opWith o op (n == 1) true fun _ => s.chpStatus o (b 0)
  | _ => s.perform o op fun s => refuse s stUnknownOp

/-- Opcodes 0x06xx to 0x0Axx. -/
def State.runOp2 (s : State) (o : Origin) (op : Nat) (l : List Byte) : State :=
  let n := l.length
  let b (i : Nat) : Byte := at_ l i 0
  match op with
  | 0x0601 => s.opWith o op (n == 0) true fun _ => s.fcuRead o
  | 0x0602 => s.opWith o op (decide (2 ≤ n) && n == 2 + 2 * field l 0 2) true fun _ =>
      s.fcuClear o ((List.range (field l 0 2)).map fun k => BitVec.ofNat 16 (field l (2 + 2 * k) 2))
  | 0x0603 => s.opWith o op (n == 3) true fun _ => s.fcuReact o (BitVec.ofNat 16 (field l 0 2)) (b 2)
  | 0x0604 => s.opWith o op (n == 5) true fun _ => s.logRead o (wordAt l 0) (b 4)
  | 0x0605 => s.opWith o op (n == 4) (field l 2 2 == 0) fun _ => s.statClear o (b 0) (b 1)
  | 0x0606 => s.opWith o op (n == 17) (field l 2 2 == 0) fun _ =>
      s.eccTest o (b 0) (b 1) (wordAt l 4) (BitVec.ofNat 64 (field l 8 8)) (b 16)
  | 0x0607 => s.opWith o op (n == 12) (field l 1 3 == 0) fun _ => s.eccInject o (b 0) (wordAt l 4) (b 8) (b 9) (b 10) (b 11)
  | 0x0608 => s.opWith o op (n == 2) true fun _ => s.checkerTest o (BitVec.ofNat 16 (field l 0 2))
  | 0x0701 => s.opWith o op (n == 1) true fun _ => s.coreTest o (b 0)
  | 0x0702 => s.opWith o op (n == 6) (b 3 == 0) fun _ => s.rotConfig o (b 0) (b 1) (b 2) (BitVec.ofNat 16 (field l 4 2))
  | 0x0703 => s.opWith o op (n == 3) true fun _ => s.colConfig o (b 0) (b 1) (b 2)
  | 0x0704 => s.opWith o op (n == 1) true fun _ => s.testStatus o (b 0)
  | 0x0801 => s.opWith o op (n == 52) true fun _ => s.fwBegin o (wordAt l 0) (BitVec.ofNat 384 (field l 4 48))
  | 0x0802 => s.opWith o op (decide (4 ≤ n)) true fun _ => s.fwData o (wordAt l 0) (l.drop 4)
  | 0x0803 => s.opWith o op (n == 0) true fun _ => s.fwEnd o
  | 0x0804 => s.opWith o op (n == 0) true fun _ => s.fwActivate o
  | 0x0805 => s.opWith o op (n == 0) true fun _ => s.nvmStatus o
  | 0x0901 => s.opWith o op (n == 102) true fun _ => s.credAdd o (wordAt l 0) (b 4) (l.drop 5)
  | 0x0902 => s.opWith o op (n == 4) true fun _ => s.credRevoke o (wordAt l 0)
  | 0x0903 => s.opWith o op (n == 0) true fun _ => s.credList o
  | 0x0904 => s.opWith o op (n == 12) (field l 1 3 == 0) fun _ => s.lcAdvance o (b 0) (BitVec.ofNat 64 (field l 4 8))
  | 0x0905 => s.opWith o op (n == 68) (field l 1 3 == 0) fun _ => s.vaultKey o (b 0) (l.drop 4)
  | 0x0906 => s.opWith o op (n == 0) true fun _ => s.vaultWipe o
  | 0x0907 => s.opWith o op (n == 0) true fun _ => s.scanEnable o
  | 0x0A01 => s.opWith o op (n == 0) true fun _ => s.srStatus o
  | 0x0A02 => s.opWith o op (n == 4) true fun _ => s.srMirror o (b 0) (b 1) (b 2) (b 3)
  | 0x0A03 => s.opWith o op (n == 5) true fun _ => s.srMailbox o (b 0) (b 1) (b 2) (b 3) (b 4)
  | 0x0A04 => s.opWith o op (decide (4 ≤ n)) (field l 1 3 == 0) fun _ => s.srForward o (b 0) (l.drop 4)
  | _ => s.perform o op fun s => refuse s stUnknownOp

/-- Steps 5 to 7 of R341 for an opcode with its decrypted payload. -/
def State.runOp (s : State) (o : Origin) (op : Nat) (l : List Byte) : State :=
  if op < 0x0200 then s.runOp0 o op l else if op < 0x0600 then s.runOp1 o op l else s.runOp2 o op l

/-- SEQ n is new in a session (R344). -/
def Session.isNew (x : Session) (n : Nat) : Bool :=
  decide (x.h < n) || (decide (x.h < n + 64) && !x.win.getLsbD (x.h - n))

/-- SEQ n is accepted (R344). -/
def Session.accept (x : Session) (n : Nat) (via : Transport) : Session :=
  if x.h < n then { x with h := n, win := (x.win <<< (n - x.h)) ||| 1#64, via := via }
  else { x with win := x.win ||| (1#64 <<< (x.h - n)), via := via }

/-- A protected packet from step 3 of R341 on. -/
def State.takeProtected (s : State) (p : Packet) : State :=
  let b := p.bytes
  let hdr := b.take 16
  let sid := BitVec.ofNat 32 (field b 4 4)
  let seq := field b 8 4
  let cipher := (b.drop 16).take (field b 14 2)
  match s.session sid with
  | none => s.updCairn fun c => { c with authfail := satInc 16 c.authfail }
  | some x =>
    if gcmTagBytes x.kc (packetNonce x.sc seq) hdr cipher ≠ b.drop (16 + field b 14 2) then
      s.updCairn fun c => { c with authfail := satInc 16 c.authfail }
    else if !x.isNew seq then
      match x.kept.find? fun e => e.1 == seq with
      | some e => s.sendOn p.via e.2
      | none => s.updCairn fun c => { c with replay := satInc 16 c.replay }
    else
      (s.updSession sid fun x => x.accept seq p.via).runOp { session := sid, seq := BitVec.ofNat 32 seq, via := p.via }
        (field b 12 2) (gcmCrypt x.kc (packetNonce x.sc seq) cipher)

/-- One packet is processed (R341). -/
def State.takePacket (s : State) (p : Packet) : State :=
  if !packetWellFormed p then s.countMalformed
  else if field p.bytes 12 2 = 1 then s.hello p
  else s.takeProtected p

/-- A short command is still waiting for its answer (R271, R348, R358). -/
def State.cairnWaits (s : State) : Bool := (s.ecc.busy && s.ecc.origin.isSome) || !s.cairn.fwds.isEmpty

/-- PACKET_PROCESSING: the packet at the head of the command queue (R340, R341). -/
def execPacketProcessing (s : State) : Host.Outcome State Fault Refusal :=
  match s.cairn.queue with
  | [] => .next s
  | p :: rest =>
    if !s.cairnServes || s.cairnWaits then .next s
    else .next ((s.updCairn fun c => { c with queue := rest }).takePacket p)

/-- The end of a running job (R348, R349): a job whose work has not come to its end runs on. -/
def State.endJob (s : State) (j : Job) : State :=
  match j.work with
  | .form r .. =>
    match j.status with
    | some e => s.finishJob j e []
    | none =>
      if (s.ridge r.toNat).st != .loading then s.finishJob j stAborted []
      else
        let s := s.formEnd r.toNat
        s.finishJob j stOk (s.ridgeData r.toNat)
  | .dissolve r => if (s.ridge r.toNat).st == .free then s.finishJob j stOk [] else s
  | .reload r slot start =>
    match j.status with
    | some e => s.finishJob j e []
    | none =>
      if !((s.ridge r.toNat).st == .ready || (s.ridge r.toNat).st == .halted) then s.finishJob j stAborted []
      else
        let s := s.reloadEnd r.toNat slot.toNat start
        s.finishJob j stOk (s.ridgeData r.toNat)
  | .imgEnd slot =>
    let (e, s) := s.imgStore slot.toNat
    s.finishJob j e []
  | .imgErase slot => (s.imgClear slot.toNat).finishJob j stOk []
  | .astCommit d x added old =>
    match j.status with
    | some e => s.finishJob j e []
    | none =>
      let (e, s) := s.endBatch d x added old
      s.finishJob j e (be s.astEdit)
  | .chpEnum n learn =>
    let s := s.enumRun n.toNat (learn == 1)
    s.finishJob j stOk (be (s.port n.toNat).stat ++ bytesBE 4 (s.port n.toNat).loop)
  | .checkerTest n =>
    if s.injDone j then (s.injOver j).finishJob j stOk (s.injData j n) else s
  | .coreTest c =>
    match j.status with
    | some _ => s.finishJob j stOk (be (s.core c.toNat).bist)
    | none => s
  | .fwEnd =>
    let (e, d, s) := s.fwStore
    s.finishJob j e d
  | .fwActivate =>
    match j.status with
    | some e => s.finishJob j e []
    | none => s
  | .lcAdvance t => s.lcJob j t
  | .vaultWipe => if s.pwr.wiped && !s.pwr.wipeBusy && !s.pwr.wipeDue then s.finishJob j stOk [] else s

/-- JOB_COMPLETION. -/
def execJobCompletion (job : Byte) (s : State) : Host.Outcome State Fault Refusal :=
  match s.cairn.jobs.find? fun j => j.num == job.toNat with
  | none => .next s
  | some j => .next (if s.cairnServes then s.endJob j else s)

end Sys2Proof.Machine
end

