-- ==== Sys2Proof/Machine/Ether.lean ====
section
/-!
DEFINITION. The Ethernet ports: classifier, timestamps, receive and transmit queues, PRP and HSR (14, R320 to R327).
-/

namespace Sys2Proof.Machine

/-- The network blocks run in this power state (R335). -/
def State.netRuns (s : State) : Bool := s.pwr.st == .run || s.pwr.st == .standby

/-- The pair of port p runs PRP (1) or HSR (2); 0 is no pair (R327). -/
def State.redOf (s : State) (p : Nat) : Nat := (s.eth (p / 2 * 2)).red

/-- The port whose queues serve port p (R327). -/
def State.queuePort (s : State) (p : Nat) : Nat := if s.redOf p = 1 ∨ s.redOf p = 2 then p / 2 * 2 else p

/-- Place of the Ethertype after one VLAN tag and one HSR tag (R324). -/
def etherPos (b : List Byte) : Nat :=
  let i := if field b 12 2 = 0x8100 then 16 else 12
  let i := if field b i 2 = 0x892F then i + 6 else i
  if i = 18 ∧ field b i 2 = 0x8100 then i + 4 else i

/-- Place of the VLAN tag's TCI, if the frame has a VLAN tag. -/
def vlanPos (b : List Byte) : Option Nat :=
  if field b 12 2 = 0x8100 then some 14
  else if field b 12 2 = 0x892F ∧ field b 18 2 = 0x8100 then some 20 else none

/-- Place of the UDP header of an unfragmented start of a UDP over IPv4 datagram (R324). -/
def udpPos (b : List Byte) : Option Nat :=
  let i := etherPos b + 2
  if field b (i - 2) 2 = 0x0800 ∧ (at_ b i 0).toNat / 16 = 4 ∧ at_ b (i + 9) 0 = 17 ∧ field b (i + 6) 2 % 0x2000 = 0 then
    some (i + 4 * ((at_ b i 0).toNat % 16))
  else none

/-- A rule's words match a frame that arrived on port p (Table 14-2). -/
def ruleMatches (w : Word × Word × Word × Word) (p : Nat) (b : List Byte) : Bool :=
  let w0 := w.1.toNat
  let w2 := w.2.2.1.toNat
  let daOk := !bitOf w0 26 || field b 0 6 == w.2.1.toNat * 65536 + bitsOf w2 31 16
  let typeOk := !bitOf w0 25 || field b (etherPos b) 2 == bitsOf w0 15 0
  let vidOk := !bitOf w0 24 || (match vlanPos b with | some i => field b i 2 % 4096 == bitsOf w2 11 0 | none => false)
  let pcpOk := !bitOf w2 12 || (match vlanPos b with | some i => field b i 2 / 8192 == bitsOf w2 15 13 | none => false)
  let udpOk := !bitOf w0 23 || (match udpPos b with
    | some i => field b (i + 2) 2 == bitsOf w.2.2.2.toNat 31 16
    | none => false)
  bitOf w0 31 && bitOf w0 (27 + p) && daOk && typeOk && vidOk && pcpOk && udpOk

/-- Lowest-numbered rule of 8 to 255 that matches (R324). -/
def State.matchRule (s : State) (p : Nat) (b : List Byte) : Option (Nat × Nat) :=
  match (List.range 248).find? fun k => ruleMatches (Tbl.get (0, 0, 0, 0) s.rules (k + 8)) p b with
  | some k => some (k + 8, (Tbl.get (0, 0, 0, 0) s.rules (k + 8)).1.toNat)
  | none => none

/-- A Jikar datagram: UDP to the journal's port, which rules 0 to 7 give Cairn (R324, R339). -/
def State.isJikar (s : State) (b : List Byte) : Bool :=
  match udpPos b with
  | some i => field b (i + 2) 2 == s.nvm.jport
  | none => false

/-- ARP, or an ICMP echo request: Cairn's too (R324). -/
def isArpOrEcho (b : List Byte) : Bool :=
  let i := etherPos b
  field b i 2 == 0x0806 ||
    (field b i 2 == 0x0800 && at_ b (i + 11) 0 == 1 && at_ b (i + 2 + 4 * ((at_ b (i + 2) 0).toNat % 16)) 0 == 8)

/-- A Jikar datagram reaches the command queue; one to another address and an IPv4 fragment are discarded (R339). -/
def State.jikarFrame (s : State) (p : Fin 4) (b : List Byte) : State :=
  let i := etherPos b + 2
  match udpPos b with
  | none => s
  | some u =>
    if field b (i + 16) 4 ≠ s.nvm.ip.toNat ∨ field b (i + 6) 2 % 0x4000 ≠ 0 then s
    else s.enqueue { via := .eth p (BitVec.ofNat 32 (field b (i + 12) 4)) (BitVec.ofNat 16 (field b u 2))
                     bytes := (b.drop (u + 8)).take (field b (u + 4) 2 - 8) }

/-- The device clock moved by a signed number of nanoseconds: seconds and nanoseconds (R326). -/
def Ptp.stamp (x : Ptp) (ns : Int) : Nat × Nat :=
  let t : Int := (x.ns : Int) + ns
  ((((x.sec : Int) + t / (1000000000 : Int)) % (2 ^ 48 : Int)).toNat, (t % (1000000000 : Int)).toNat)

/-- The 16 bytes before a frame in its slot (Table 14-1; R7: memory is little-endian). -/
def slotHeader (len flags rule : Nat) (ts : Nat × Nat) : List Byte :=
  bytesLE 2 len ++ [BitVec.ofNat 8 flags, BitVec.ofNat 8 rule] ++ bytesLE 6 ts.1 ++ bytesLE 4 ts.2 ++ [0, 0]

/-- A frame is delivered to receive queue j of port e (R323): stored in the slot at HEAD, HEAD advances, and the line pulses;
a full ring drops it. -/
def State.deliver (s : State) (e j : Nat) (b : List Byte) (flags rule : Nat) (ts : Nat × Nat) : State :=
  let q := s.queue e j
  if !q.en || q.slots ≤ q.held then s.updQueue e j fun q => { q with drop := satInc 16 q.drop }
  else
    let s := s.writeBytes 0x87 (q.slotAt q.head)
      ((slotHeader b.length flags rule ts ++ b).map fun (x : Byte) => (x, false))
    (s.updQueue e j fun q => { q with head := q.after q.head, held := q.held + 1 }).line (0x180 + 16 * e + j)

/-- Source address of a frame. -/
def srcMac (b : List Byte) : BitVec 48 := BitVec.ofNat 48 (field b 6 6)

/-- Sequence number of a frame with an HSR tag or a PRP trailer (R327; layouts of IEC 62439-3, PRESUMED, log 18). -/
def redSeq (red : Nat) (b : List Byte) : Option (BitVec 16) :=
  if red = 2 then
    let i := if field b 12 2 = 0x8100 then 16 else 12
    if field b i 2 = 0x892F then some (BitVec.ofNat 16 (field b (i + 4) 2)) else none
  else if red = 1 then
    if field b (b.length - 2) 2 = 0x88FB then some (BitVec.ofNat 16 (field b (b.length - 6) 2)) else none
  else none

/-- A frame over IPv6, which gets no timestamp (R325). -/
def isIpv6 (b : List Byte) : Bool := field b (etherPos b) 2 == 0x86DD

/-- The classifier decides a good frame's fate (R324); dup flags a frame with a tag or trailer (Table 14-1). -/
def State.classify (s : State) (p : Fin 4) (b : List Byte) (dup : Bool) : State :=
  if s.isJikar b then s.jikarFrame p b
  else if isArpOrEcho b then s
  else
    match s.matchRule p.val b with
    | none => s.updEth p.val fun e => { e with nomatch_ := satInc 16 e.nomatch_ }
    | some (n, w) =>
      let action := bitsOf w 22 21
      if 2 ≤ action then s
      else
        let stamped := action == 1 && !isIpv6 b
        let ts : Nat × Nat := if stamped then s.ptp.stamp (-((s.eth p.val).ingress : Int)) else (0, 0)
        let flags := b2n stamped + 2 * b2n dup + 4 * b2n (s.queuePort p.val != p.val)
        s.deliver (s.queuePort p.val) (bitsOf w 19 16) b flags n ts

/-- FRAME_RECEIVED on port p (R320, R323, R324, R327). -/
def State.frameIn (s : State) (p : Fin 4) (f : Frame) : State :=
  let e := s.eth p.val
  let even := p.val / 2 * 2
  let n := f.bytes.length + 4
  if !s.netRuns || !e.en || !e.link then s
  else if n < 64 || 1528 < n || !f.fcsOk then s.updEth p.val fun e => { e with bad := satInc 16 e.bad }
  else
    match redSeq (s.redOf p.val) f.bytes with
    | none => s.classify p f.bytes false
    | some q =>
      let key := (srcMac f.bytes, q)
      let x := s.eth even
      if s.redOf p.val = 2 ∧ x.mine.contains key then s
      else if x.dups.contains key then s.updEth even fun x => { x with dupDrops := x.dupDrops + 1 }
      else
        (s.updEth even fun x => { x with dups := (if x.dups.length < 1024 then x.dups else x.dups.drop 1) ++ [key] }).classify
          p f.bytes true

/-- FRAME_RECEIVED. -/
def execFrameReceived (p : Fin 4) (f : Frame) (s : State) : Host.Outcome State Fault Refusal := .next (s.frameIn p f)

/-- originTimestamp of a Sync, 34 bytes into the message, and a zero UDP checksum (R325; the place is IEEE 1588's, PRESUMED,
log 18). Other frames are unchanged. -/
def oneStep (b : List Byte) (ts : Nat × Nat) : List Byte :=
  let put (b : List Byte) (i : Nat) (v : List Byte) : List Byte := b.take i ++ v ++ b.drop (i + v.length)
  let stamp := bytesBE 6 ts.1 ++ bytesBE 4 ts.2
  let i := etherPos b + 2
  if field b (i - 2) 2 = 0x88F7 then
    if (at_ b i 0).toNat % 16 = 0 ∧ i + 44 ≤ b.length then put b (i + 34) stamp else b
  else
    match udpPos b with
    | some u =>
      if (field b (u + 2) 2 = 319 ∨ field b (u + 2) 2 = 320) ∧ (at_ b (u + 8) 0).toNat % 16 = 0 ∧ u + 52 ≤ b.length then
        put (put b (u + 6) [0, 0]) (u + 42) stamp
      else b
    | none => b

/-- A frame with the trailer or tag of its lane, 0 for the even port (R327; IEC 62439-3, PRESUMED, log 18). -/
def redFrame (red lane seq : Nat) (b : List Byte) : List Byte :=
  if red = 1 then b ++ bytesBE 2 seq ++ bytesBE 2 ((10 + lane) * 4096 + (b.length - 14 + 6) % 4096) ++ [0x88, 0xFB]
  else if red = 2 then
    let i := if field b 12 2 = 0x8100 then 16 else 12
    b.take i ++ [0x89, 0x2F] ++ bytesBE 2 (lane * 4096 + (b.length - i + 4) % 4096) ++ bytesBE 2 seq ++ b.drop i
  else b

/-- A frame leaves port p, and the odd port of a pair as well (R323, R327). Inverted: with its FCS inverted (R265). -/
def State.sendFrame (s : State) (p : Nat) (b : List Byte) (inverted : Bool) : State :=
  let red := s.redOf p
  if red = 1 ∨ red = 2 then
    let seq := (s.eth p).pairSeq
    let key := (srcMac b, BitVec.ofNat 16 seq)
    let put (s : State) (q lane : Nat) : State :=
      if (s.eth q).en && (s.eth q).link then
        s.updEth q fun x => { x with sent := redFrame red lane seq b, sentBad := inverted }
      else s
    (put (put s p 0) (p + 1) 1).updEth p fun x =>
      { x with pairSeq := (seq + 1) % 65536, mine := if red = 2 && !x.mine.contains key then x.mine ++ [key] else x.mine }
  else s.updEth p fun x => { x with sent := b, sentBad := inverted }

/-- Flag bits of a transmit slot's header are set (Table 14-1). -/
def State.markSlot (s : State) (off flags : Nat) (hdr : List PByte) : State :=
  s.writeBytes 0x87 (off + 2) [((at_ hdr 2 (0, false)).1 ||| BitVec.ofNat 8 flags, false)]

/-- The lowest-numbered transmit queue of port e that has a frame and whose owner's outputs are live (R323, R163, R164). -/
def State.nextTx (s : State) (e : Nat) : Option Nat :=
  firstBelow 8 fun j =>
    let q := s.queue e (16 + j)
    q.en && decide (0 < q.held) && (match q.owner with | some r => s.outputsLive r | none => false)

/-- Port p can send: it, or the other port of its pair, is enabled with its link up (R320, R327). -/
def State.canSend (s : State) (p : Nat) : Bool :=
  let up (q : Nat) : Bool := (s.eth q).en && (s.eth q).link
  s.netSends && s.queuePort p == p && (up p || ((s.redOf p == 1 || s.redOf p == 2) && up (p + 1)))

/-- The slot at HEAD of transmit queue j of port e goes out, or is marked and passed over (R323, R265, R325). -/
def State.sendSlot (s : State) (e j : Nat) : State :=
  let q := s.queue e (16 + j)
  let off := q.slotAt q.head
  let (h, s) := s.readBytes 0x87 off 16
  let s := s.updQueue e (16 + j) fun q => { q with head := q.after q.head, held := q.held - 1 }
  let len := ofBytesLE ((h.take 2).map (·.1))
  let flags := (at_ h 2 (0, false)).1.toNat
  let limit := if s.redOf e = 1 ∨ s.redOf e = 2 then 1518 else 1524
  if h.any (·.2) then (s.fcuEvent (0xF41 + 4 * e)).markSlot off 8 h
  else if len < 14 ∨ limit < len then
    (s.updEth e fun x => { x with bad := satInc 16 x.bad }).markSlot off 0x30 h
  else
    let (d, s) := s.readBytes 0x87 (off + 16) len
    let poisoned := d.any (·.2)
    let (w, s) := if poisoned then s.draw else (0, s)
    let s := if poisoned then s.fcuEvent (0xF41 + 4 * e) else s
    if poisoned && !bitOf w.toNat 0 then s.markSlot off 8 h
    else
      let ts := s.ptp.stamp ((s.eth e).egress : Int)
      let b := d.map (·.1)
      let b := if bitOf flags 1 then oneStep b ts else b
      let b := b ++ List.replicate (60 - b.length) 0
      let s := (s.sendFrame e b poisoned).markSlot off 0x10 h
      if bitOf flags 0 && !isIpv6 b then
        s.writeBytes 0x87 (off + 4) ((bytesLE 6 ts.1 ++ bytesLE 4 ts.2).map fun (x : Byte) => (x, false))
      else s

/-- FRAME_TRANSMIT on port p: the next frame of its transmit queues (R323). -/
def execFrameTransmit (p : Fin 4) (s : State) : Host.Outcome State Fault Refusal :=
  if !s.canSend p.val then .next s else
  match s.nextTx p.val with
  | some j => .next (s.sendSlot p.val j)
  | none => .next s

/-- LINK_DOWN: the port's link source, class corrected (R320). -/
def execLinkDown (p : Fin 4) (s : State) : Host.Outcome State Fault Refusal :=
  if (s.eth p.val).link then .next ((s.updEth p.val fun e => { e with link := false }).fcuEvent (0xF40 + 4 * p.val)) else .next s

/-- LINK_UP: the link of an enabled port has been negotiated (R320, R335). -/
def execLinkUp (p : Fin 4) (s : State) : Host.Outcome State Fault Refusal :=
  .next (if s.netRuns && (s.eth p.val).en then s.updEth p.val fun e => { e with link := true } else s)

/-- The pair of a port originated a frame that has come back: its source and number, or its source where it has no tag (R327). -/
def Eth.isMine (x : Eth) (b : List Byte) : Bool :=
  match redSeq 2 b with
  | some q => x.mine.contains (srcMac b, q)
  | none => x.mine.any fun e => e.1 == srcMac b

/-- HSR_FORWARD: a good frame that arrived on port p leaves the other port once, unless the pair originated it (R327, R320). A frame
without a tag carries no number, and each one is forwarded (log 18). -/
def execHsrForward (p : Fin 4) (f : Frame) (s : State) : Host.Outcome State Fault Refusal :=
  let even := p.val / 2 * 2
  let other := 2 * even + 1 - p.val
  let up (q : Nat) : Bool := (s.eth q).en && (s.eth q).link
  let n := f.bytes.length + 4
  let x := s.eth even
  let send (s : State) : State := s.updEth other fun x => { x with fwd := f.bytes }
  if !s.netSends || s.redOf p.val != 2 || !f.fcsOk || n < 64 || 1528 < n || !up p.val || !up other || x.isMine f.bytes then .next s
  else
    match redSeq 2 f.bytes with
    | none => .next (send s)
    | some q =>
      let key := (srcMac f.bytes, q)
      if x.fwdSeen.contains key then .next s
      else .next (send (s.updEth even fun x =>
        { x with fwdSeen := (if x.fwdSeen.length < 1024 then x.fwdSeen else x.fwdSeen.drop 1) ++ [key] }))

/-- DUPLICATE_ENTRY_AGED: the oldest entry of a pair's duplicate table is 400 ms old and goes; a frame of its source and number
may then be forwarded again (R327). -/
def execDuplicateEntryAged (pair : Fin 2) (s : State) : Host.Outcome State Fault Refusal :=
  .next (s.updEth (2 * pair.val) fun x =>
    match x.dups with
    | [] => x
    | k :: rest => { x with dups := rest, fwdSeen := x.fwdSeen.filter fun e => e != k })

end Sys2Proof.Machine
end

