-- ==== Sys2Proof/Machine/Ring.lean ====
section
/-!
DEFINITION. The station ring's frames, addresses, mirror lines and mailboxes (14, R328 to R332).
-/

namespace Sys2Proof.Machine

/-- A control frame of this device: ENUM with its CNT, or a supervision frame with CNT 0 (Table 14-4, log 18). -/
def SRing.control (x : SRing) (seq cnt : Nat) : RingFrame :=
  { typ := 3, src := BitVec.ofNat 6 x.addr, dst := 0x40, seq := BitVec.ofNat 8 seq, b5 := BitVec.ofNat 8 cnt, payload := [],
    len := 0, crc := 0 }

/-- The device takes no address: DUP for a doubled address, CONFLICT for a second master (R329, Table 14-8). -/
def State.ringNoAddr (s : State) (st : Nat) : State :=
  (s.updRing fun x => { x with st := st, addr := 0x3F }).fcuEvent 0xF60

/-- A mirror frame of a source, line and number: its second copy is dropped, and each inbound line that names it fires (R331). -/
def State.mirrorIn (s : State) (src line seq : Nat) : State :=
  let key := src * 16 + line
  if !s.ringRunning || (Tbl.get [] s.ring.mseen key).contains seq then s
  else
    let s := s.updRing fun x => { x with mseen := Tbl.set x.mseen key (noteSeq (Tbl.get [] x.mseen key) seq) }
    (List.range 16).foldl (fun (s : State) k =>
      if Tbl.get (false, 0, 0) s.ring.min k = (true, src, line) then s.pulse (496 + k) else s) s

/-- MIRROR_FRAME_RECEIVED. -/
def execMirrorFrameReceived (src : BitVec 6) (line : BitVec 4) (seq : Byte) (s : State) : Host.Outcome State Fault Refusal :=
  .next (s.mirrorIn src.toNat line.toNat seq.toNat)

/-- First free inbound slot of a mailbox in order from IHEAD (R332). -/
def Mbox.freeSlot (b : Mbox) : Option Nat :=
  ((List.range 7).map fun k => (b.ihead + k) % 7).find? fun i => !b.full.getLsbD i

/-- An acknowledge goes back to the mailbox that sent a message (R332). -/
def State.mbAnswer (s : State) (m src srcMb seq : Nat) (stored : Bool) : State :=
  if !s.ringSends then s else s.updRing fun x => x.emit
    { typ := 1, src := BitVec.ofNat 6 x.addr, dst := BitVec.ofNat 7 src, seq := BitVec.ofNat 8 seq
      b5 := BitVec.ofNat 8 (srcMb * 16 + m), payload := [if stored then 1 else 0], len := 0, crc := 0 }

/-- A whole ring packet for Cairn: the reply to a packet that SR_FORWARD sent, or a packet for the command queue (R339, R358). -/
def State.ringPacketIn (s : State) (src : BitVec 6) (pkt : List Byte) : State :=
  if bitOf (field pkt 3 1) 7 && (s.cairn.fwds.any fun e => e.1 == src.toNat) then s.forwardDone src.toNat stOk pkt
  else s.enqueue { via := .ring src, bytes := pkt }

/-- A message for MB15: the fragment joins its source's packet in index order; index 0 starts anew (R339). -/
def State.fragmentIn (s : State) (src : BitVec 6) (msg : List Byte) : State :=
  let h := field msg 0 1
  let i := h % 8
  let a := src.toNat
  let drop (s : State) : State := s.updCairn fun c => { c with frags := Tbl.del c.frags a, fragIdx := Tbl.del c.fragIdx a }
  let s := if i = 0 then drop s else s
  let sofar := Tbl.get [] s.cairn.frags a
  if i ≠ Tbl.get 0 s.cairn.fragIdx a ∨ 6 ≤ i then drop s
  else if h < 128 then (drop s).ringPacketIn src (sofar ++ msg.drop 1)
  else s.updCairn fun c =>
    { c with frags := Tbl.set c.frags a (sofar ++ msg.drop 1), fragIdx := Tbl.set c.fragIdx a (i + 1) }

/-- MAILBOX_MESSAGE_RECEIVED (R332): the first copy is stored and acknowledged, or refused where every slot is full; the
duplicate is dropped. A mailbox that is not enabled answers nothing. -/
def State.mailIn (s : State) (m : Nat) (src : BitVec 6) (srcMb seq : Nat) (msg : List Byte) : State :=
  let b := s.mbox m
  let key := src.toNat * 16 + srcMb
  if !s.ringRunning || (m != 15 && !b.en) || (Tbl.get [] b.taken key).contains seq || msg.isEmpty || 256 < msg.length then s
  else
    let s := s.updMbox m fun b => { b with taken := Tbl.set b.taken key (noteSeq (Tbl.get [] b.taken key) seq) }
    if m = 15 then (s.fragmentIn src msg).mbAnswer m src.toNat srcMb seq true
    else
      match b.freeSlot with
      | none => s.mbAnswer m src.toNat srcMb seq false
      | some i =>
        let s := s.writeBytes 0x87 (b.page * 4096 + 512 * (i + 1))
          ((bytesLE 4 msg.length ++ msg).map fun (x : Byte) => (x, false))
        let s := s.updMbox m fun b => { b with full := b.full ||| (1#7 <<< i), ihead := (i + 1) % 7 }
        (s.line (0x1C0 + m)).mbAnswer m src.toNat srcMb seq true

/-- MAILBOX_MESSAGE_RECEIVED. -/
def execMailboxMessageReceived (mb : Fin 16) (src : BitVec 6) (srcMb : BitVec 4) (seq : Byte) (msg : List Byte) (s : State) :
    Host.Outcome State Fault Refusal := .next (s.mailIn mb.val src srcMb.toNat seq.toNat msg)

/-- The answer to a mailbox's message in flight: RESULT 1 DONE, 2 FULL or 3 TIMEOUT (R332). -/
def State.mailDone (s : State) (m res : Nat) : State :=
  if (s.mbox m).busy then (s.updMbox m fun b => { b with busy := false }).mbResult m res else s

/-- MAILBOX_ACK (R332). -/
def execMailboxAck (mb : Fin 16) (stored : Bool) (s : State) : Host.Outcome State Fault Refusal :=
  .next (if s.netRuns then s.mailDone mb.val (if stored then 1 else 2) else s)

/-- MAILBOX_TIMEOUT: no acknowledge within 1 ms (R332). -/
def execMailboxTimeout (mb : Fin 16) (s : State) : Host.Outcome State Fault Refusal := .next (s.mailDone mb.val 3)

/-- The ring forwards a frame that it does not strip, in its direction (R328); in FATAL hold it transmits nothing (R380). -/
def State.ringForward (s : State) (dirB : Bool) (f : RingFrame) : State :=
  if s.netSends then s.updRing fun x => { x with fwd := some (dirB, f) } else s

/-- A frame carries the address that this device has (R328). -/
def SRing.ownFrame (x : SRing) (f : RingFrame) : Bool :=
  (x.st == 1 && x.master || x.st == 2) && x.addr != 0x3F && f.src.toNat == x.addr

/-- A frame that this device sent has returned and goes no further (R328). -/
def State.ringStrip (s : State) (f : RingFrame) : State := s.updRing fun x => { x with out := x.out.erase f }

/-- An ENUM arrives (Table 14-3): it returns to the master that sent it, meets another master, or numbers this device. -/
def State.enumIn (s : State) (dirB : Bool) (f : RingFrame) : State :=
  let x := s.ring
  let cnt := f.b5.toNat
  let onward := { f with b5 := BitVec.ofNat 8 (cnt + 1) }
  if dirB then s.ringForward dirB f
  else if x.master then
    if x.st = 1 ∧ f.src.toNat = x.addr ∧ f.seq.toNat = x.enumSeq then
      s.updRing fun x => { x with st := 2, count := cnt, out := x.out.drop 1 }
    else if x.st = 1 ∨ x.st = 2 then (s.ringNoAddr 4).ringForward dirB f
    else s.ringForward dirB f
  else if x.st = 1 then (s.updRing fun x => { x with st := 2, addr := cnt % 64 }).ringForward dirB (ringSeal onward)
  else s.ringForward dirB (if x.st = 2 then ringSeal onward else f)

/-- A supervision frame (R329, R330): this device's own is stripped; another device's that carries this device's address makes it give
the address up; a device that waits for its address notes that the ring has one, and whether it is the one of its strap. -/
def State.superIn (s : State) (dirB : Bool) (f : RingFrame) : State :=
  let x := s.ring
  if x.out.contains f then s.ringStrip f
  else
    let s := s.ringForward dirB f
    if x.ownFrame f then s.ringNoAddr 3
    else if x.st = 1 then s.updRing fun x => { x with heard := true, strapSeen := x.strapSeen || f.src.toNat == x.strap } else s

/-- A sound ring frame that another device sent, other than a control frame, is taken where it concerns this device (R331, R332). -/
def State.ringTake (s : State) (f : RingFrame) : State :=
  let b5 := f.b5.toNat
  if f.typ = 2 then s.mirrorIn f.src.toNat (b5 % 16) f.seq.toNat
  else if !s.ringRunning || f.dst.toNat ≠ s.ring.addr then s
  else if f.typ = 0 then s.mailIn (b5 / 16) f.src (b5 % 16) f.seq.toNat f.payload
  else
    let m := b5 / 16
    if (s.mbox m).seq = f.seq.toNat ∧ (s.mbox m).peer = f.src.toNat ∧ (s.mbox m).peerMb = b5 % 16 then
      s.mailDone m (if field f.payload 0 1 = 1 then 1 else 2)
    else s

/-- The sender of a sound frame is on the ring (R358, log 18). -/
def SRing.hear (x : SRing) (f : RingFrame) : SRing :=
  if x.peers.contains f.src.toNat || f.src.toNat == 0x3F then x else { x with peers := x.peers ++ [f.src.toNat] }

/-- RING_FRAME_RECEIVED (R328 to R332): a frame that fails its check is counted; an own frame is stripped, and every other one is
forwarded, a damaged one with its check bytes inverted, and taken where it concerns this device. -/
def State.ringIn (s : State) (dirB : Bool) (f : RingFrame) : State :=
  if !s.netRuns || s.ring.st = 0 then s
  else if !ringOk f then
    let s := s.updRing fun x => { x with crce := satInc 16 x.crce }
    if s.ring.ownFrame f then s else s.ringForward dirB { f with crc := ~~~f.crc }
  else
    let s := s.updRing fun x => x.hear f
    if f.typ = 3 then (if f.b5 = 0 then s.superIn dirB f else s.enumIn dirB f)
    else if s.ring.ownFrame f then s.ringStrip f
    else (s.ringForward dirB f).ringTake f

/-- RING_FRAME_RECEIVED. -/
def execRingFrameReceived (dirB : Bool) (f : RingFrame) (s : State) : Host.Outcome State Fault Refusal := .next (s.ringIn dirB f)

/-- SUPERVISION_FRAME: every 10 µs a device with an address sends one in both directions (R330). -/
def execSupervisionFrame (s : State) : Host.Outcome State Fault Refusal :=
  .next (if s.ringSends then s.updRing fun x => { x with supers := x.supers + 1 }.emit (x.control (x.supers % 256) 0) else s)

/-- RING_LINK_BREAK: a link without a valid supervision frame for 50 µs (R330). -/
def execRingLinkBreak (linkB : Bool) (s : State) : Host.Outcome State Fault Refusal :=
  .next (if !s.netRuns || s.ring.st = 0 then s
    else (s.updRing fun x => if linkB then { x with brkb := true } else { x with brka := true }).fcuEvent 0xF61)

/-- RING_ENUM_TIMEOUT: 100 ms from start-up without an ENUM (R329). A device that still waits takes no address; on a ring whose
supervision frames show that addresses come from straps, it takes its strap, unless that is 0x3F or it has seen the address in another
device's supervision frame (Table 14-3, log 18). -/
def execRingEnumTimeout (s : State) : Host.Outcome State Fault Refusal :=
  let x := s.ring
  if x.st ≠ 1 then .next s
  else if !x.master && x.heard && x.strap != 0x3F then
    .next (if x.strapSeen then s.ringNoAddr 3 else s.updRing fun x => { x with st := 2, addr := x.strap })
  else .next (s.updRing fun x => { x with st := 3, addr := 0x3F })

/-- Assignment of ring addresses begins during start-up (Table 14-3): a master strapped 0x3F takes address 0 and sends ENUM on
direction A, another master takes its strap, and every other device waits. -/
def State.ringStart (s : State) : State :=
  let x := s.ring
  let s := s.updRing fun x => { x with heard := false, strapSeen := false, addr := 0x3F }
  if !x.master then s.updRing fun x => { x with st := 1 }
  else if x.strap ≠ 0x3F then s.updRing fun x => { x with st := 2, addr := x.strap }
  else
    let (w, s) := s.draw
    let seq := w.toNat % 256
    let s := s.updRing fun x => { x with st := 1, addr := 0, enumSeq := seq }
    if s.netSends then s.updRing fun x => x.send (x.control seq 1) false else s

end Sys2Proof.Machine
end

