-- ==== Sys2Proof/Machine/HostCmds.lean ====
section
/-!
DEFINITION. The commands of the host port (14, R333 to R335).
-/

namespace Sys2Proof.Machine

/-- The host port updated. -/
def State.updHost (s : State) (f : HostPort → HostPort) : State := { s with host := f s.host }

/-- TXFREE: no packet waits, and start-up is complete (R334, R391). -/
def State.txFree (s : State) : Bool := s.host.inp.isNone && (s.cairn.ready || s.cairn.recovery)

/-- A transaction that reads is cut short: it is discarded and sets ERR (R333). -/
def State.hostCut (s : State) : State :=
  if s.pwr.st == .off then s else s.updHost fun h => { h with err := true, out := [] }

/-- READ_ID (Table 14-6). -/
def execReadId (s : State) : Host.Outcome State Fault Refusal :=
  .next (if s.pwr.st == .off then s else s.updHost fun h => { h with out := be deviceId })

/-- READ_ID, cut short (R333). -/
def execReadIdCut (s : State) : Host.Outcome State Fault Refusal := .next s.hostCut

/-- STATUS: RXRDY, TXFREE, ERR, which the read clears, and BROWN (Table 14-6). -/
def execStatus (s : State) : Host.Outcome State Fault Refusal :=
  .next (if s.pwr.st == .off then s else s.updHost fun h =>
    { h with err := false
             out := [BitVec.ofNat 8 (packN [(0, b2n !h.replies.isEmpty), (1, b2n s.txFree), (2, b2n h.err),
                                             (7, b2n (s.pwr.st == .brownout))])] })

/-- STATUS, cut short: ERR is set and not cleared (R333). -/
def execStatusCut (s : State) : Host.Outcome State Fault Refusal := .next s.hostCut

/-- WRITE_PKT: the packet enters the port, or is discarded and sets ERR (R333, R334). -/
def execWritePkt (len : BitVec 16) (pkt : List Byte) (crc : Word) (whole : Bool) (s : State) : Host.Outcome State Fault Refusal :=
  if !s.netRuns then .next s
  else if whole && s.txFree && decide (len.toNat ≤ 4128) && pkt.length == len.toNat &&
      crc.toNat == crc32c (bytesBE 2 len.toNat ++ pkt) then
    .next (s.updHost fun h => { h with inp := some pkt })
  else .next (s.updHost fun h => { h with err := true })

/-- READ_PKT: the oldest reply, which is released once it has been read whole (R333, R334). -/
def execReadPkt (whole : Bool) (s : State) : Host.Outcome State Fault Refusal :=
  if !s.netRuns then .next s
  else if !whole then .next (s.updHost fun h => { h with err := true, out := [] })
  else
    let r := match s.host.replies with | [] => [] | r :: _ => r
    let b := bytesBE 2 r.length ++ r
    .next (s.updHost fun h => { h with out := b ++ bytesBE 4 (crc32c b), replies := h.replies.drop 1 })

/-- HOST_PACKET_ENQUEUE: the waiting packet enters the command queue once there is room (R334, R340). -/
def execHostPacketEnqueue (s : State) : Host.Outcome State Fault Refusal :=
  match s.host.inp with
  | none => .next s
  | some b =>
    if 32 ≤ s.cairn.queue.length || !(s.cairn.ready || s.cairn.recovery) then .next s
    else .next ((s.updHost fun h => { h with inp := none }).enqueue { via := .host, bytes := b })

end Sys2Proof.Machine
end

