-- ==== Sys2Proof/Machine/Watchdog.lean ====
section
/-!
DEFINITION. Ridge watchdogs: edges, check-ins, periods and stages (chapter 16), and Cairn's own watchdog.
-/

namespace Sys2Proof.Machine

/-- WDOSC cycles of a period (R362). -/
def Wdt.p (w : Wdt) : Nat := (w.period + 1) * 1024

/-- Edge at which the window opens (R362). -/
def Wdt.w (w : Wdt) : Nat := w.open_ * (w.period + 1) * 64

/-- The watchdog of ridge r counts: it is on and its ridge neither HALTED nor RESTARTING (R360, R367). -/
def State.wdtCounts (s : State) (r : Nat) : Bool := (s.ridge r).wdt.en && (s.ridge r).running

/-- The warning stage (R366). -/
def State.wdtWarn (s : State) (r : Nat) : State :=
  ((s.updWdt r fun w => { w with warn := true }).fcuEvent (0x800 + 8 * r)).pendFixed r 16

/-- The check-in bits that a period requires (R361): a REQ of 0 counts as 0x0001. -/
def Wdt.required (w : Wdt) : BitVec 16 := if w.req = 0 then 1 else w.req

/-- The check-ins sampled at an edge act bit by bit (Table 16-1). Answers the watchdog and whether a bit came early. -/
def Wdt.sample (w : Wdt) (k : Nat) : Wdt × Bool :=
  let x := { w with n := min k 0x3FFFFFF, fresh := false, checkins := [] }
  (List.range 16).foldl (fun (a : Wdt × Bool) i =>
    let n := (w.checkins.filter fun c => c.getLsbD i).length
    if n = 0 || !w.required.getLsbD i then a
    else if k < w.w then ({ a.1 with early := true, failed := true }, true)
    else if n = 1 && !w.done.getLsbD i then ({ a.1 with done := a.1.done ||| (1#16 <<< i) }, a.2)
    else ({ a.1 with repeat_ := true }, a.2)) (x, false)

/-- CHECK_IN_SAMPLE: WDOSC edge k of the current period, which samples the check-ins that wait (R363, R364). The edge
that WDT_COUNT shows has been sampled already, but for edge 0 of a first period; one beyond the period is none. -/
def execCheckInSample (r : Fin 64) (edge : Nat) (s : State) : Host.Outcome State Fault Refusal :=
  let w := (s.ridge r).wdt
  if !s.wdtCounts r || (decide (edge ≤ w.n) && !(w.fresh && edge == 0)) || decide (w.p < edge) then .next s
  else
    let y := w.sample edge
    let s := s.updWdt r fun _ => y.1
    .next (if y.2 && !w.failed then s.wdtWarn r else s)

/-- PERIOD_END: edge P evaluates the period (R365, Table 16-2, R366). -/
def execPeriodEnd (r : Fin 64) (s : State) : Host.Outcome State Fault Refusal :=
  let w := (s.ridge r).wdt
  if !s.wdtCounts r then .next s
  else
    let good := !w.failed && (w.required &&& ~~~w.done) == 0
    let s := s.updWdt r fun w =>
      { w with lastGood := good, lastDone := w.done, done := 0, failed := false, n := 0, fresh := false, miss := !good }
    if good then .next s
    else if w.miss then .next ((s.updWdt r fun w => { w with rststg := true }).haltRidge r 5)
    else .next (if w.failed then s else s.wdtWarn r)

/-- CAIRN_WATCHDOG_EXPIRY: source 0xF72, whose CRST reaction starts a chip reset (R372, R409). -/
def execCairnWatchdogExpiry (s : State) : Host.Outcome State Fault Refusal :=
  if !s.cairnRuns then .next s else
  let s := s.fcuEvent 0xF72
  .next (s.updFcu fun u => { u with crstCairn := u.crstDue })

end Sys2Proof.Machine
end

