-- ==== Sys2Proof/Machine/Faults.lean ====
section
/-!
DEFINITION. The FCU's events in time: CRSTCNT, ALIVE and its keep-alive, and the batches of the fault log (17, 18).
-/

namespace Sys2Proof.Machine

/-- CRSTCNT_EXPIRY: 60 s without a CRST reaction (R377). -/
def execCrstcntExpiry (s : State) : Host.Outcome State Fault Refusal :=
  match s.fcu.crstAt with
  | [] => .next s
  | t :: _ => .next ((s.advanceTo (t + 60 * 320000000)).updFcu fun u => { u with crstcnt := 0, crstAt := [] })

/-- ALIVE_TOGGLE (R379). -/
def execAliveToggle (s : State) : Host.Outcome State Fault Refusal :=
  .next (if s.aliveOn then s.updFcu fun u => { u with alive := !u.alive } else s)

/-- KEEPALIVE from a Cairn that runs (R379). -/
def execKeepalive (s : State) : Host.Outcome State Fault Refusal :=
  .next (if s.cairnRuns then s.updFcu fun u => { u with keep := true } else s)

/-- KEEPALIVE_TIMEOUT: 10 ms without a keep-alive (R379). -/
def execKeepaliveTimeout (s : State) : Host.Outcome State Fault Refusal := .next (s.updFcu fun u => { u with keep := false })

/-- The fault log in flash after some records: a ring of 65,536 (Table 18-1). -/
def addLog (log l : List LogRec) : List LogRec := (log ++ l).drop ((log ++ l).length - 65536)

/-- The moment at which a batch of fault-log records is due (R406): 1 s after one that failed, else with 32 pending records at once or
1 s after the oldest. -/
def State.batchAt (s : State) (oldest : LogRec) : Nat :=
  match s.pwr.logRetry with
  | some t => t
  | none => if 32 ≤ s.fcu.pendLog.length then s.tick else oldest.time * 320 + 320000000

/-- FAULT_LOG_BATCH: up to 64 pending records are committed when a batch is due; one that fails its hold-up check stays pending
(R406). -/
def execFaultLogBatch (s : State) : Host.Outcome State Fault Refusal :=
  match s.fcu.pendLog with
  | [] => .next s
  | x :: _ =>
    if !s.cairnRuns then .next s else
    let s := s.advanceTo (s.batchAt x)
    match s.marker 0 with
    | (some _, s) => .next (s.updPwr fun p => { p with logRetry := some (s.tick + 320000000) })
    | (none, s) =>
      .next (((s.updNvm fun v => { v with log := addLog v.log (s.fcu.pendLog.take 64) }).updFcu fun u =>
        { u with pendLog := u.pendLog.drop 64 }).updPwr fun p => { p with logRetry := none })

end Sys2Proof.Machine
end

