-- ==== Sys2Proof/Machine/LoadStore.lean ====
section
/-!
DEFINITION. Scalar loads, stores and the pointer operation of the L slots (R88, R95 to R100, R138).
-/

namespace Sys2Proof.Machine

/-- LDB (R138). -/
def execLdb (c : Fin 64) (e : Bool) (rd : BitVec 5) (pk : BitVec 3) (m : MemMode) (s : State) :
    Host.Outcome State Fault Refusal :=
  let w := memWord e false 0 rd pk m
  .next (s.issue c w (s.loadEff c w 1 true rd pk m))

/-- LDBU (R138). -/
def execLdbu (c : Fin 64) (e : Bool) (rd : BitVec 5) (pk : BitVec 3) (m : MemMode) (s : State) :
    Host.Outcome State Fault Refusal :=
  let w := memWord e false 1 rd pk m
  .next (s.issue c w (s.loadEff c w 1 false rd pk m))

/-- LDH (R138). -/
def execLdh (c : Fin 64) (e : Bool) (rd : BitVec 5) (pk : BitVec 3) (m : MemMode) (s : State) :
    Host.Outcome State Fault Refusal :=
  let w := memWord e false 2 rd pk m
  .next (s.issue c w (s.loadEff c w 2 true rd pk m))

/-- LDHU (R138). -/
def execLdhu (c : Fin 64) (e : Bool) (rd : BitVec 5) (pk : BitVec 3) (m : MemMode) (s : State) :
    Host.Outcome State Fault Refusal :=
  let w := memWord e false 3 rd pk m
  .next (s.issue c w (s.loadEff c w 2 false rd pk m))

/-- LD (R138). -/
def execLd (c : Fin 64) (e : Bool) (rd : BitVec 5) (pk : BitVec 3) (m : MemMode) (s : State) :
    Host.Outcome State Fault Refusal :=
  let w := memWord e false 4 rd pk m
  .next (s.issue c w (s.loadEff c w 4 false rd pk m))

/-- LDD (R138). -/
def execLdd (c : Fin 64) (e : Bool) (rd : BitVec 5) (pk : BitVec 3) (m : MemMode) (s : State) :
    Host.Outcome State Fault Refusal :=
  let w := memWord e false 5 rd pk m
  .next (s.issue c w (s.loadEff c w 8 false rd pk m))

/-- PADD (R96, R98, R99): the pointer update of the mode, and no access. -/
def execPadd (c : Fin 64) (e : Bool) (pk : BitVec 3) (m : MemMode) (s : State) : Host.Outcome State Fault Refusal :=
  .next (s.issue c (memWord e false 7 0 pk m) { OpEff.nil with early := wbPtr pk ((s.core c).update pk m 0) })

/-- Bytes of a general register for a store, with its tag (R93). -/
def Core.storeBytes (x : Core) (i : BitVec 5) (size : Nat) : List PByte := taggedLE size (x.g i).v.toNat (x.g i).p

/-- A value clamped to a halfword (R88). -/
def clampHalf (w : Word) : Nat := (BitVec.ofInt 16 (satS 16 w.toInt)).toNat

/-- SB (R88, R138). -/
def execSb (c : Fin 64) (e : Bool) (rs : BitVec 5) (pk : BitVec 3) (m : MemMode) (s : State) :
    Host.Outcome State Fault Refusal :=
  let w := memWord e true 0 rs pk m
  .next (s.issue c w (s.storeEff c w ((s.core c).storeBytes rs 1) pk m))

/-- SH (R88, R138). -/
def execSh (c : Fin 64) (e : Bool) (rs : BitVec 5) (pk : BitVec 3) (m : MemMode) (s : State) :
    Host.Outcome State Fault Refusal :=
  let w := memWord e true 1 rs pk m
  .next (s.issue c w (s.storeEff c w ((s.core c).storeBytes rs 2) pk m))

/-- ST (R88, R138). -/
def execSt (c : Fin 64) (e : Bool) (rs : BitVec 5) (pk : BitVec 3) (m : MemMode) (s : State) :
    Host.Outcome State Fault Refusal :=
  let w := memWord e true 2 rs pk m
  .next (s.issue c w (s.storeEff c w ((s.core c).storeBytes rs 4) pk m))

/-- STD (R88, R138). -/
def execStd (c : Fin 64) (e : Bool) (rs : BitVec 5) (pk : BitVec 3) (m : MemMode) (s : State) :
    Host.Outcome State Fault Refusal :=
  let w := memWord e true 3 rs pk m
  .next (s.issue c w (s.storeEff c w ((s.core c).storeBytes rs 4 ++ (s.core c).storeBytes (rs + 1) 4) pk m))

/-- SHS (R88, R138). -/
def execShs (c : Fin 64) (e : Bool) (rs : BitVec 5) (pk : BitVec 3) (m : MemMode) (s : State) :
    Host.Outcome State Fault Refusal :=
  let w := memWord e true 4 rs pk m
  .next (s.issue c w (s.storeEff c w (taggedLE 2 (clampHalf ((s.core c).g rs).v) ((s.core c).g rs).p) pk m))

/-- The address mode of SCS, whose immediate has seven bits (R138). -/
def scsMode (m : MemMode) : MemMode :=
  let cut (o : BitVec 12) : BitVec 12 := (o.setWidth 7).signExtend 12
  match m with
  | .imm o => .imm (cut o)
  | .postImm o => .postImm (cut o)
  | .circImm o => .circImm (cut o)
  | m => m

/-- SCS (R88): one word of two clamped halfwords, poisoned where either register is. -/
def execScs (c : Fin 64) (e : Bool) (ra rb : BitVec 5) (pk : BitVec 3) (m : MemMode) (s : State) :
    Host.Outcome State Fault Refusal :=
  let w := scsWord e ra rb pk m
  let x := s.core c
  .next (s.issue c w (s.storeEff c w
    (taggedLE 4 (clampHalf (x.g ra).v + clampHalf (x.g rb).v * 65536) ((x.g ra).p || (x.g rb).p)) pk (scsMode m)))

end Sys2Proof.Machine
end

