-- ==== Sys2Proof/Machine/Mac.lean ====
section
/-!
DEFINITION. The multiply-accumulate operations of the M slots (R81 to R93, R137).
-/

namespace Sys2Proof.Machine

/-- Real part of a complex operand (R81). -/
def cre (w : Word) : Int := (w.setWidth 16).toInt

/-- Imaginary part of a complex operand. -/
def cim (w : Word) : Int := ((w >>> 16).setWidth 16).toInt

/-- An exact complex value. -/
structure Cx where
  re : Int
  im : Int
  deriving DecidableEq, Repr

/-- Exact product of two complex operands, the second conjugated where j holds (R85). -/
def cprod (j : Bool) (a b : Word) : Cx :=
  let bi := if j then -(cim b) else cim b
  { re := cre a * cre b - cim a * bi, im := cre a * bi + cim a * cre b }

/-- Accumulator k receives an exact value, reduced under PSW.SAT (R85, R86), with this tag. -/
def accEff (x : Core) (k : Nat) (v : Cx) (p : Bool) : OpEff :=
  { OpEff.nil with early := [.acc k { re := reduce40 (pswSat x.psw) v.re, im := reduce40 (pswSat x.psw) v.im, p := p }] }

/-- A product into accumulator k: 0 replaces it, 1 adds, 2 subtracts (Table 4-2, R93). -/
def macEff (x : Core) (mode : Nat) (j : Bool) (k : BitVec 3) (ra rb : BitVec 5) : OpEff :=
  let a := x.ac k
  let q := cprod j (x.g ra).v (x.g rb).v
  let p := (x.g ra).p || (x.g rb).p
  if mode = 0 then accEff x k.toNat q p
  else if mode = 1 then accEff x k.toNat { re := a.re.toInt + q.re, im := a.im.toInt + q.im } (p || a.p)
  else accEff x k.toNat { re := a.re.toInt - q.re, im := a.im.toInt - q.im } (p || a.p)

/-- CMUL (Table 4-2). -/
def execCmul (c : Fin 64) (e : Bool) (k : BitVec 3) (ra rb : BitVec 5) (s : State) : Host.Outcome State Fault Refusal :=
  .next (s.issue c (cmacWord e 0 k ra rb) (macEff (s.core c) 0 false k ra rb))

/-- CMULJ (Table 4-2). -/
def execCmulj (c : Fin 64) (e : Bool) (k : BitVec 3) (ra rb : BitVec 5) (s : State) : Host.Outcome State Fault Refusal :=
  .next (s.issue c (cmacWord e 1 k ra rb) (macEff (s.core c) 0 true k ra rb))

/-- CMAC (Table 4-2). -/
def execCmac (c : Fin 64) (e : Bool) (k : BitVec 3) (ra rb : BitVec 5) (s : State) : Host.Outcome State Fault Refusal :=
  .next (s.issue c (cmacWord e 2 k ra rb) (macEff (s.core c) 1 false k ra rb))

/-- CMACJ (Table 4-2). -/
def execCmacj (c : Fin 64) (e : Bool) (k : BitVec 3) (ra rb : BitVec 5) (s : State) : Host.Outcome State Fault Refusal :=
  .next (s.issue c (cmacWord e 3 k ra rb) (macEff (s.core c) 1 true k ra rb))

/-- CMSUB (Table 4-2). -/
def execCmsub (c : Fin 64) (e : Bool) (k : BitVec 3) (ra rb : BitVec 5) (s : State) : Host.Outcome State Fault Refusal :=
  .next (s.issue c (cmacWord e 4 k ra rb) (macEff (s.core c) 2 false k ra rb))

/-- CMSUBJ (Table 4-2). -/
def execCmsubj (c : Fin 64) (e : Bool) (k : BitVec 3) (ra rb : BitVec 5) (s : State) : Host.Outcome State Fault Refusal :=
  .next (s.issue c (cmacWord e 5 k ra rb) (macEff (s.core c) 2 true k ra rb))

/-- DMAC (Table 4-2): the two parts accumulate apart. -/
def dmacEff (x : Core) (k : BitVec 3) (ra rb : BitVec 5) : OpEff :=
  let a := x.g ra
  let b := x.g rb
  let z := x.ac k
  accEff x k.toNat { re := z.re.toInt + cre a.v * cre b.v, im := z.im.toInt + cim a.v * cim b.v } (a.p || b.p || z.p)

/-- DMAC (Table 4-2). -/
def execDmac (c : Fin 64) (e : Bool) (k : BitVec 3) (ra rb : BitVec 5) (s : State) : Host.Outcome State Fault Refusal :=
  .next (s.issue c (cmacWord e 6 k ra rb) (dmacEff (s.core c) k ra rb))

/-- ACLR (R93). -/
def execAclr (c : Fin 64) (e : Bool) (k : BitVec 3) (s : State) : Host.Outcome State Fault Refusal :=
  .next (s.issue c (maccWord e 0 k.toNat 0 0 0 0 0 0) { OpEff.nil with early := [.acc k.toNat Acc.reset] })

/-- CSPLA (Table 4-2): a + conj(b). -/
def csplaEff (x : Core) (d a b : BitVec 3) : OpEff :=
  let p := x.ac a
  let q := x.ac b
  accEff x d.toNat { re := p.re.toInt + q.re.toInt, im := p.im.toInt - q.im.toInt } (p.p || q.p)

/-- CSPLA (Table 4-2). -/
def execCspla (c : Fin 64) (e : Bool) (d a b : BitVec 3) (s : State) : Host.Outcome State Fault Refusal :=
  .next (s.issue c (maccWord e 1 d.toNat a.toNat b.toNat 0 0 0 0) (csplaEff (s.core c) d a b))

/-- CSPLB (Table 4-2). -/
def csplbEff (x : Core) (d a b : BitVec 3) : OpEff :=
  let p := x.ac a
  let q := x.ac b
  accEff x d.toNat { re := p.im.toInt + q.im.toInt, im := q.re.toInt - p.re.toInt } (p.p || q.p)

/-- CSPLB (Table 4-2). -/
def execCsplb (c : Fin 64) (e : Bool) (d a b : BitVec 3) (s : State) : Host.Outcome State Fault Refusal :=
  .next (s.issue c (maccWord e 2 d.toNat a.toNat b.toNat 0 0 0 0) (csplbEff (s.core c) d a b))

/-- A component shifted left by n places, or right with floor (R90). -/
def normShift (x n : Int) : Int := if 0 ≤ n then x * 2 ^ n.toNat else x / 2 ^ (-n).toNat

/-- NORM (R90): the shift is gs[5:0] as a signed value. -/
def normEff (x : Core) (k : BitVec 3) (gs : BitVec 5) : OpEff :=
  let a := x.ac k
  let n := ((x.g gs).v.setWidth 6).toInt
  accEff x k.toNat { re := normShift a.re.toInt n, im := normShift a.im.toInt n } (a.p || (x.g gs).p)

/-- NORM (R90). -/
def execNorm (c : Fin 64) (e : Bool) (k : BitVec 3) (gs : BitVec 5) (s : State) : Host.Outcome State Fault Refusal :=
  .next (s.issue c (maccWord e 3 k.toNat 0 0 gs.toNat 0 0 0) (normEff (s.core c) k gs))

/-- EXT (R87): truncation toward minus infinity, then the clamp. -/
def execExt (c : Fin 64) (e : Bool) (gd : BitVec 5) (k : BitVec 3) (im : Bool) (sh : BitVec 5) (s : State) :
    Host.Outcome State Fault Refusal :=
  let a := (s.core c).ac k
  let v := if im then a.im.toInt else a.re.toInt
  .next (s.issue c (maccWord e 4 0 k.toNat 0 gd.toNat 0 (b2n im) sh.toNat)
    { OpEff.nil with early := [.g gd.toNat ⟨BitVec.ofInt 32 (satS 32 (v / 2 ^ sh.toNat)), a.p⟩] })

/-- Exponent of an accumulator (R89). -/
def accExp (a : Acc) : Int := (min (signRun 38 a.re.toNat) (signRun 38 a.im.toNat) : Nat) - 8

/-- EXP (R89). -/
def execExp (c : Fin 64) (e : Bool) (gd : BitVec 5) (k : BitVec 3) (s : State) : Host.Outcome State Fault Refusal :=
  let a := (s.core c).ac k
  .next (s.issue c (maccWord e 5 0 k.toNat 0 gd.toNat 0 0 0)
    { OpEff.nil with early := [.g gd.toNat ⟨BitVec.ofInt 32 (accExp a), a.p⟩] })

/-- A part of an accumulator as MFA reads it (Table 4-4). -/
def accPart (a : Acc) : AccPart → Word
  | .rl => a.re.setWidth 32
  | .rh => ((a.re >>> 32).setWidth 8).signExtend 32
  | .il => a.im.setWidth 32
  | .ih => ((a.im >>> 32).setWidth 8).signExtend 32

/-- MFA (R92). -/
def execMfa (c : Fin 64) (e : Bool) (gd : BitVec 5) (k : BitVec 3) (part : AccPart) (s : State) :
    Host.Outcome State Fault Refusal :=
  let a := (s.core c).ac k
  .next (s.issue c (maccWord e 6 0 k.toNat 0 gd.toNat (partCode part) 0 0)
    { OpEff.nil with early := [.g gd.toNat ⟨accPart a part, a.p⟩] })

/-- An accumulator with one part written (Table 4-4, R92). -/
def accWithPart (a : Acc) (part : AccPart) (g : TW) : Acc :=
  match part with
  | .rl => { a with re := (a.re >>> 32 <<< 32) ||| g.v.setWidth 40, p := g.p }
  | .rh => { a with re := (a.re &&& 0xFFFFFFFF#40) ||| (g.v.setWidth 40 <<< 32), p := a.p || g.p }
  | .il => { a with im := (a.im >>> 32 <<< 32) ||| g.v.setWidth 40, p := a.p || g.p }
  | .ih => { a with im := (a.im &&& 0xFFFFFFFF#40) ||| (g.v.setWidth 40 <<< 32), p := a.p || g.p }

/-- MTA (R92). DESIGN CHOICE (log 39): of two MTA to one accumulator in one bundle that of M1 stands whole (R53, R86), so the part
that M0 writes keeps its old bits. -/
def execMta (c : Fin 64) (e : Bool) (k : BitVec 3) (part : AccPart) (gs : BitVec 5) (s : State) :
    Host.Outcome State Fault Refusal :=
  .next (s.issue c (maccWord e 7 k.toNat 0 0 gs.toNat (partCode part) 0 0)
    { OpEff.nil with early := [.acc k.toNat (accWithPart ((s.core c).ac k) part ((s.core c).g gs))] })

end Sys2Proof.Machine
end

