-- ==== Sys2Proof/Machine/Power.lean ====
section
/-!
DEFINITION. Resets, start-up, power states, hold-up samples, tamper, vault wipe, and what JTAG offers (17, 18).
-/

namespace Sys2Proof.Machine

/-- What the flash holds of the AST when the device is reset: Cairn's lists, which the journal mirrors (R231, R241, log 20). -/
def State.astKept (s : State) : Tbl AstLink := if s.cairn.ready then s.ast.links else s.nvm.astLinks

/-- Number of the next fault-log record (Table 17-4): one more than the last in flash. -/
def Nvm.nextLog (v : Nvm) : Nat :=
  match v.log.getLast? with
  | some r => r.num + 1
  | none => 0

/-- The device with nothing on chip but what POR leaves: OTP and flash, the nodes outside and the level at HOLDUP_SENSE (R382, log 20).
The 60 s of a firmware swap begin anew (R409, log 20). -/
def State.lost (s : State) : State :=
  { State.reset with
    pending := s.pending, free := s.free, nodes := s.nodes
    nvm := { s.nvm with astLinks := s.astKept }
    pwr := { Pwr.reset with sense := s.pwr.sense }
    cairn := { Cairn.reset with swapAt := s.cairn.swapAt.map fun _ => 0 }
    fcu := { Fcu.reset with logNum := s.nvm.nextLog } }

/-- POR (R381, R382, R389, R329). -/
def State.porReset (s : State) (bootsel : BitVec 2) (srmaster : Bool) (sraddr : BitVec 6) : State :=
  (s.lost.updPwr fun p => { p with bootsel := bootsel.toNat }).updRing fun x =>
    { x with master := srmaster, strap := sraddr.toNat }

/-- POR. -/
def execPor (bootsel : BitVec 2) (srmaster : Bool) (sraddr : BitVec 6) (s : State) : Host.Outcome State Fault Refusal :=
  .next (s.porReset bootsel srmaster sraddr)

/-- POWER_OFF: everything on chip is lost (R402, Table 11-7). -/
def execPowerOff (s : State) : Host.Outcome State Fault Refusal := .next (s.lost.updPwr fun p => { p with st := .off })

/-- The chip reset itself (Table 17-3): SAFE levels, class B and C memory, the vault and the FCU stand; what was left of a
running wipe is due again, and the 60 s after a firmware swap run on (R409, log 20). VRET falls (R416). -/
def State.chipReset (s : State) (bootsel : BitVec 2) : State :=
  let p := s.pwr
  { State.reset with
    pending := s.pending, free := s.free, nodes := s.nodes, tick := s.tick, winStart := s.tick
    mem := Memory.clear s.mem 0 (memKey 0x80 0), syn := Memory.clear s.syn 0 (synKey 0x80 0)
    angIn := s.angIn, scrubs := s.scrubs, mon := s.mon
    ecc := { Ecc.reset with lastCe := s.ecc.lastCe, lastUe := s.ecc.lastUe }
    ring := { SRing.reset with master := s.ring.master, strap := s.ring.strap }
    gps := s.gps.map fun (e : Nat × GpPin) => (e.1, { GpPin.reset with safe := e.2.safe, inp := e.2.inp, src := if e.1 = 95 then 4 else 0 })
    fcu := { s.fcu with crstDue := false, crstCairn := false, injAt := none, injJobs := [], keep := false }
    cairn := { Cairn.reset with swapAt := s.cairn.swapAt }
    nvm := { s.nvm with astLinks := s.astKept }
    pwr := { Pwr.reset with scanen := p.scanen, pfail := p.pfail, tamp0 := p.tamp0, tamp1 := p.tamp1, tamperPend := p.tamperPend,
                            wipeDue := p.wipeDue || p.wipeBusy, wipeThen := p.wipeThen, bootsel := bootsel.toNat
                            vretAt := if p.vret then some s.tick else p.vretAt, sense := p.sense,
                            classB := p.classB } }

/-- The chip reset that a CRST reaction starts is counted; one less than 60 s after the third before it does not take place, and
the loop source is set instead (R377). -/
def State.crstStarts (s : State) : Bool × State :=
  match s.fcu.crstAt[2]? with
  | some t =>
    if s.tick < t + 60 * 320000000 then (false, (s.updFcu fun u => { u with crstDue := false, crstCairn := false }).fcuEvent 0xFAC)
    else (true, s.updFcu fun u => { u with crstcnt := satInc 4 u.crstcnt, crstAt := (s.tick :: u.crstAt).take 3 })
  | none => (true, s.updFcu fun u => { u with crstcnt := satInc 4 u.crstcnt, crstAt := (s.tick :: u.crstAt).take 3 })

/-- A chip reset of Cairn's watchdog within 60 s of a firmware swap restores the previous slot roles (R409). -/
def State.rollback (s : State) : State :=
  match s.cairn.swapAt with
  | some t =>
    if s.fcu.crstCairn && decide (s.tick < t + 60 * 320000000) then
      (s.updNvm Nvm.swapRoles).updCairn fun c => { c with swapAt := none }
    else s
  | none => s

/-- CHIP_RESET: XRES_N or a waiting CRST reaction; both are ignored in FATAL hold (R381, R382). -/
def execChipReset (by_ : ResetBy) (bootsel : BitVec 2) (s : State) : Host.Outcome State Fault Refusal :=
  if s.fcu.fatal || s.pwr.st == .off then .next s else
  match by_ with
  | .xres => .next (s.chipReset bootsel)
  | .crst =>
    if !s.fcu.crstDue then .next s else
    match s.crstStarts with
    | (false, s) => .next s
    | (true, s) => .next (s.rollback.chipReset bootsel)

/-- E_avail in µJ, 0 without a valid board record (R388, R407). -/
def State.eAvailUj (s : State) (code : Nat) : Nat :=
  match s.nvm.board with
  | some b => (b.eAvail code).1 / (b.eAvail code).2 / 1000
  | none => 0

/-- E_avail is less than E_res with a t_PP (R407); without a board record the energy counts as zero (R388). -/
def State.energyLow (s : State) (tpp : Nat) : Bool :=
  match s.nvm.board with
  | some b => decide ((b.eAvail s.pwr.code).1 < b.eRes tpp * (b.eAvail s.pwr.code).2)
  | none => true

/-- A 1 ms sample (R407, R402): the energy registers, source 0xF74, and whether E_avail is at least E_run. What a missing board record or
SFDP table would give is free. -/
def State.holdupSample (s : State) : State :=
  let (w1, s) := s.draw
  let (w2, s) := s.draw
  let tpp := s.nvm.tpp.getD w1.toNat
  let res : Nat × Nat := match s.nvm.board with
    | some b => (b.eRes tpp / 1000, b.eCommit tpp / 1000)
    | none => (w1.toNat, w2.toNat)
  let s := s.sampleSense
  let s := s.updPwr fun p =>
    { p with eavail := s.eAvailUj p.code % 2 ^ 32, eres := res.1 % 2 ^ 32, ecommit := res.2 % 2 ^ 32
             samples := ((s.tick, s.holdupOk 0) :: p.samples).take 101 }
  if s.energyLow tpp then s.fcuEvent 0xF74 else s

/-- The moment of the next 1 ms sample: a whole millisecond of the device's time after the latest one (R407, log 20). -/
def State.nextSample (s : State) : Nat :=
  let t := (s.tick + 319999) / 320000 * 320000
  match s.pwr.samples with
  | (u, _) :: _ => if t = u then t + 320000 else t
  | [] => t

/-- HOLDUP_SAMPLE: the level at HOLDUP_SENSE has this code, and Cairn, where it runs, takes its next sample. -/
def execHoldupSample (code : BitVec 12) (s : State) : Host.Outcome State Fault Refusal :=
  let s := s.updPwr fun p => { p with sense := code.toNat }
  .next (if s.cairnRuns then (s.advanceTo s.nextSample).holdupSample else s)

/-- Keys go into the vault (R399). -/
def State.loadKeys (s : State) (keys : Tbl (List Byte)) : State := keys.foldl (fun (s : State) k => s.putKey k.1 k.2) s

/-- Cairn opens the sealed store, and in RUN loads the vault from it (R398, R399). -/
def State.openStore (s : State) : State :=
  let s := s.openSecrets
  if s.pwr.st != .run then s else s.loadIdentity.loadKeys s.nvm.keys

/-- What follows a wipe that has cleared every word (R400, R401): SCANEN after that of a SCAN_ENABLE; after a tamper wipe every SECURE ridge
is dissolved and the identity part alone loaded. -/
def State.wipeThen (s : State) : State :=
  let after := s.pwr.wipeThen
  let s := s.updPwr fun p => { p with wipeThen := 0, scanen := p.scanen || (bitOf after 0 && p.wiped) }
  if bitOf after 1 then (s.dissolveIf fun x => x.secure).loadIdentity else s

/-- A wipe from its clear to its read-back, with nothing beside it (R400). -/
def State.wipeNow (s : State) : State :=
  ((s.clearVault.updPwr fun p => { p with wiped := true, wipeDue := false }).fcuCheck 0xF7E false).wipeThen

/-- A wipe that has fallen due runs (R400, R404). -/
def State.wipeIfDue (s : State) : State := if s.pwr.wipeDue then s.wipeNow else s

/-- A ridge as the journal leaves it. -/
structure JRidge where
  kind : Nat
  cores : List Nat
  attr : Byte
  policy : Byte
  slot : Byte
  start : Word
  /-- Released, and not halted since. -/
  run : Bool
  deriving DecidableEq, Repr

/-- The ridges of a journal, by number (R391, R404). -/
def journalRidges (l : List JRec) : Tbl JRidge :=
  let upd (t : Tbl JRidge) (r : Byte) (f : JRidge → JRidge) : Tbl JRidge :=
    t.map fun e => if e.1 = r.toNat then (e.1, f e.2) else e
  l.foldl (fun (t : Tbl JRidge) (j : JRec) => match j with
    | .form r kind a b c attr policy slot start => Tbl.set t r.toNat
        { kind := kind.toNat, cores := formCores kind a b c, attr := attr, policy := policy, slot := slot, start := start, run := false }
    | .release r => upd t r fun x => { x with run := true }
    | .halt r => upd t r fun x => { x with run := false }
    | .dissolve r => Tbl.del t r.toNat
    | .policy r p => upd t r fun x => { x with policy := p }
    | .reload r slot start => upd t r fun x => { x with slot := slot, start := start }
    | _ => t) []

/-- One journal record is replayed (Table 18-3). Ridges are formed later; AST entries, images, keys, credentials, firmware and
identities have their own place in flash. -/
def State.replay (s : State) (j : JRec) : State :=
  match j with
  | .assign kind i r => s.giveTo kind.toNat i.toNat (assignTo r)
  | .dissolve r => s.disown r.toNat
  | .memRegion m n cfg rdlo rdhi wrlo wrhi => s.setRegion m.toNat n.toNat cfg rdlo rdhi wrlo wrhi
  | .memBankown m b en r => s.setBankOwn m.toNat b.toNat en.toNat r.toNat
  | .adConfig d w => s.stageCfg d.toNat w
  | .adOffset d off => s.stageOffset d.toNat off
  | .chConfig c cfg cons => s.setChannel c.toNat cfg cons
  | .chRow c row => s.setRow c.toNat row
  | .chpConfig n cfg w => s.setPort n.toNat cfg w
  | .fcuReact n m => s.setMask n.toNat m.toNat
  | .rotConfig m en pairs step => s.setRot m.toNat en.toNat pairs.toNat step.toNat
  | .colConfig m prio delay => s.setCol m.toNat prio.toNat delay.toNat
  | .srMirror k src line en => s.setMirror k.toNat src.toNat line.toNat en.toNat
  | .srMailbox m owner peer peerMb page => s.setMailbox m.toNat (assignTo owner) peer.toNat peerMb.toNat page.toNat
  | _ => s

/-- Every queue that a classifier rule names is owned by a ridge; rule numbers from 8 on (R324). -/
def State.ruleAllowed (s : State) (n : Nat) (w0 : Nat) : Bool :=
  decide (8 ≤ n ∧ n < 256) && (decide (2 ≤ bitsOf w0 22 21) || (List.range 4).all fun p =>
    !bitOf w0 (27 + p) || (s.queue (s.queuePort p) (bitsOf w0 19 16)).owner.isSome)

/-- GP settings that Cairn does not refuse (R426). -/
def GpCfg.ok (g : GpCfg) : Bool :=
  decide (g.safe < 3 ∧ g.drv < 3 ∧ g.pull < 3 ∧ g.src < 5) && !(g.safe == 2 && g.pull != 0 && g.src != 0)

/-- The journal's settings that no command of the table writes: Ethernet ports and queues, classifier, GP pins (log 7). Cairn refuses
a queue whose pages its owner does not own, a rule whose queue no ridge owns, and a reserved setting of a pin (R321, R324, R426). -/
def State.replaySettings (s : State) : State :=
  let s := s.nvm.ethCfg.foldl (fun (s : State) e => s.updEth e.1 fun x =>
    { x with en := e.2.en, mode := e.2.mode, red := e.2.red, egress := e.2.egress, ingress := e.2.ingress }) s
  let s := s.nvm.queueCfg.foldl (fun (s : State) e =>
    if s.queuePages e.2.page e.2.npage (s.queue (e.1 / 32) (e.1 % 32)).owner then
      s.updQueue (e.1 / 32) (e.1 % 32) fun q => { q with en := e.2.en, npage := e.2.npage, page := e.2.page }
    else s) s
  let s := { s with rules := s.nvm.rules.filter fun e => s.ruleAllowed e.1 e.2.1.toNat }
  s.nvm.gpCfg.foldl (fun (s : State) e => if e.1 = 95 ∨ e.2.ok = false then s else s.updGp e.1 fun g =>
    { g with safe := e.2.safe, drv := e.2.drv, pull := e.2.pull, edge := BitVec.ofNat 2 e.2.edge, filt := e.2.filt, src := e.2.src }) s

/-- An AST entry of the journal as Cairn knows it after a reset (R240, R241): its last valid cycle is the next that VALID_UNTIL
names (R221, log 36). -/
def State.relinked (s : State) (l : AstLink) : AstLink :=
  let y := s.dom (bitsOf l.w0.toNat 26 24)
  { l with ends := l.ends.map fun _ => y.turns - (y.back : Int) + Int.ofNat (l.cyclesLeft y.cyc) }

/-- The list to which an entry belongs begins with it: no other entry of the list comes before it (R224). -/
def listHead (t : Tbl AstLink) (i : Nat) (l : AstLink) : Bool :=
  let key (x : AstLink) : Nat := listKey x.w0.toNat x.w3.toNat
  let rank (e : Nat × AstLink) : Nat := bitsOf e.2.w0.toNat 23 0 * 2 ^ 19 + e.1
  t.all fun e => key e.2 != key l || decide (rank (i, l) ≤ rank e)

/-- The AST is rebuilt (R241): its entries and lists after a POR; its head table alone after a chip reset, which keeps AST memory
(R393). -/
def State.replayAst (s : State) (kept : Bool) : State :=
  if kept then
    let links := s.nvm.astLinks.map fun e => (e.1, s.relinked e.2)
    let heads := (links.filter fun e => listHead links e.1 e.2).foldl (fun (h : Tbl Nat) e =>
      Tbl.set h (listKey e.2.w0.toNat e.2.w3.toNat) e.1) s.ast.heads
    { s with ast := { s.ast with links := links, heads := heads } }
  else s.nvm.astLinks.foldl (fun (s : State) e => s.linkEntry e.1 { s.relinked e.2 with next := e.1 }) s

/-- Every configured chain port is enumerated (R311, R391); in RETIRED every port stays off (R397). -/
def State.enumPorts (s : State) : State :=
  if s.nvm.lc = 3 then { s with ports := s.ports.map fun (e : Nat × ChPort) => (e.1, { e.2 with en := false }) }
  else (List.range 64).foldl (fun (s : State) n => if (s.port n).en then (s.enumStart n).enumRun n false else s) s

/-- The journaled ridges are formed, and released where they were last left running (R391, R404, R398). -/
def State.formJournaled (s : State) : State :=
  if s.fcu.fatal || s.nvm.lc == 3 || (s.nvm.lc != 0 && !s.nvm.identity) then s else
  (journalRidges s.nvm.records).foldl (fun (s : State) e =>
    let j := e.2
    if (s.check146 e.1 j.kind j.cores (bitOf j.attr.toNat 1)).isNone && s.imageGood j.slot.toNat then
      let s := (s.formStart e.1 j.kind j.cores j.attr j.policy j.slot j.start).formEnd e.1
      if j.run then s.commandRelease e.1 else s
    else s) s

/-- VRET changes (R416). -/
def State.setVret (s : State) (v : Bool) : State :=
  if s.pwr.vret = v then s else s.updPwr fun p => { p with vret := v, vretAt := some s.tick }

/-- RUN is entered (R391, R404): class A memory is clear, a wipe that is due runs, the vault is loaded, and the journaled ridges are
formed. -/
def State.enterRun (s : State) : State :=
  let s := (s.setVret false).updPwr fun p => { p with st := .run, samples := [] }
  let s := (List.range 64).foldl (fun (s : State) c => s.clearCoreMem c) s
  s.wipeIfDue.openStore.formJournaled

/-- STANDBY is entered at the end of start-up: the vault is without power (R402, Table 11-7). -/
def State.enterStandby (s : State) : State := (s.clearVault.setVret true).updPwr fun p => { p with samples := [] }

/-- The firmware slots in the order in which the boot ROM tries them (R389, R390): BOOTSEL 0b01 puts flash B first; a flash
without SFDP is not read (R387). -/
def State.bootOrder (s : State) : List Firmware :=
  let v := s.nvm
  let a (x : Option Firmware) : Option Firmware := if v.sfdpA.isSome then x else none
  let b (x : Option Firmware) : Option Firmware := if v.sfdpB.isSome then x else none
  (if s.pwr.bootsel = 1 then [b v.fwActiveB, a v.fwActive, b v.fwStandbyB, a v.fwStandby]
   else [a v.fwActive, b v.fwActiveB, a v.fwStandby, b v.fwStandbyB]).filterMap id

/-- The boot ROM loads the first image that passes its checks (R390). The answer says whether one did. -/
def State.bootRom (s : State) : Bool × State :=
  match s.bootOrder.find? s.fwGood with
  | some f => (true, s.updPwr fun p => { p with fwVer := f.version })
  | none => (false, s)

/-- The boot ROM enters recovery (R389). -/
def State.enterRecovery (s : State) : State := s.updCairn fun c => { c with recovery := true }

/-- Startup BIST of core c fails, by a free value (R187, R188, R194): an MBIST mismatch, a wrong signature at the terminal count,
or a slice that outruns its budget. -/
def State.bistFails (s : State) (c w : Nat) : State :=
  if w % 3 = 0 then s.mbistFail c
  else if w % 3 = 1 then (s.updCore c fun x => { x with bSlices := 9, bPatcnt := 8 * 4096 }).testFail c
  else
    let k := w / 4 % 9
    ((s.updCore c fun x => { x with bSlices := k, bPatcnt := 4096 * (k - 1) }).cutSlice c).testFail c

/-- Startup BIST of the cores (R392, R393): which of them fail, and how far a failing one came, are free values (log 21). -/
def State.bistCores (s : State) : State :=
  (List.range 64).foldl (fun (s : State) c =>
    let (w, s) := s.draw
    if bitOf w.toNat 0 then s.bistFails c (w.toNat / 2)
    else s.updCore c fun x => { x with bStatus := 2, bMfail := false, bSlices := 9, bPatcnt := 8 * 4096 }) s

/-- Sources of the checkers of the 128 massif banks, the 16 AST banks and Cairn (Table 17-1). -/
def bistSource (i : Nat) : Nat := if i < 128 then 0xA20 + 0x80 * (i / 32) + i % 32 else if i < 144 then 0xF30 + (i - 128) else 0xF71

/-- Startup BIST of massif and AST memory and of Cairn after a POR (R392): which of them fail are free values; each failure sets its
checker's source, and any ends start-up in FATAL hold, as its log record says (Table 17-4). -/
def State.bistMemory (s : State) : State :=
  let ws := (List.range 5).map fun k => (Config.freeWord (s.free + k)).toNat
  let bad := (List.range 145).filter fun i => bitOf (at_ ws (i / 32) 0) (i % 32)
  let first := s.fcu.logNum
  let s : State := { s with free := s.free + 5 }
  if bad.isEmpty then s else
  let s := bad.foldl (fun (s : State) i => s.fcuEvent (bistSource i)) s
  (s.updFcu fun u => { u with pendLog := u.pendLog.map fun (r : LogRec) =>
    if first ≤ r.num then { r with flags := r.flags ||| 1 } else r }).fatalHold

/-- Class B memory is written with zero after a POR (R269, R241). -/
def State.initClassB (s : State) : State :=
  if s.pwr.classB then s
  else (s.updPwr fun p => { p with classB := true }) |> fun (s : State) =>
    [0x80, 0x81, 0x82, 0x83, 0x84].foldl (fun (s : State) m => s.clearAll m) s

/-- An LC_ADVANCE that a reset cut short is completed by its steps 3 to 7 (R394). A record of another part's serial is not this device's
(R432, log 20). -/
def State.finishAdvance (s : State) : State :=
  let t := s.nvm.records.foldl (fun (a : Nat) (j : JRec) => match j with
    | .lcAdvance t n => if n = s.nvm.serial then max a t.toNat else a
    | _ => a) 0
  if s.nvm.lc < t then ((s.lcProgram t).wipeNow).lcFinish t else s

/-- Flash A holds a sound record of the journal; else, with isA false, flash B (R405): a record without its marker is not listed there. -/
def Nvm.holds (v : Nvm) (isA : Bool) (e : JEntry) : Bool :=
  e.crcOk && (if isA then e.onA && v.sfdpA.isSome else e.onB && v.sfdpB.isSome)

/-- Highest sequence number of a flash's journal (R405). -/
def Nvm.seqOn (v : Nvm) (isA : Bool) : Option Nat := ((v.journal.filter (v.holds isA)).map (·.seq)).max?

/-- The latest valid journal is located (R391, R405): that of the flash with the higher sequence number; its records are copied to the
other flash. -/
def Nvm.locate (v : Nvm) : Nvm :=
  let isA : Bool := match v.seqOn true, v.seqOn false with
    | some a, some b => decide (b ≤ a)
    | none, some _ => false
    | _, none => true
  { v with jnum := (v.seqOn isA).getD v.jnum
           journal := (v.journal.filter (v.holds isA)).map fun e => { e with onA := v.sfdpA.isSome, onB := v.sfdpB.isSome } }

/-- Records that the last brown-out lost are logged as the first record, whose other fields are free (R406). -/
def State.logLost (s : State) : State :=
  if s.nvm.lost = 0 then s else
  let (w, s) := s.draw
  let r : LogRec := { num := s.fcu.logNum, time := s.tick / 320, source := w.toNat % 4096, cls := w.toNat / 2 ^ 12 % 4,
                      react := BitVec.ofNat 5 (w.toNat / 2 ^ 14), target := w.toNat / 2 ^ 19 % 256, count := s.nvm.lost,
                      flags := w.toNat / 2 ^ 27 % 8 }
  (s.updFcu fun u => { u with logNum := u.logNum + 1, pendLog := r :: u.pendLog }).updNvm fun v => { v with lost := 0 }

/-- The steps of Table 18-3 after the firmware, up to the last. -/
def State.rebuild (s : State) : State :=
  let kept := s.pwr.classB
  let s := s.initClassB
  let s := s.updNvm Nvm.locate
  let s := (s.finishAdvance.openStore).updPwr fun p => { p with jseq := s.nvm.jnum }
  let s := s.nvm.records.foldl State.replay s
  ((s.replaySettings.replayAst kept).ringStart).enumPorts

/-- In BLANK without an identity part that opens, the ROM makes an identity; the credential table and the key slots, sealed to another
device, do not carry over (R398, R432). -/
def State.makeIdentity (s : State) : State :=
  if s.nvm.lc = 0 ∧ s.nvm.identity = false then
    s.updNvm fun v => ({ v with identity := true, creds := [], keys := [], keySeal := none } : Nvm).reseal
  else s

/-- START_UP (R387 to R393, R398, R402): from the end of a reset to RUN or STANDBY. Nothing happens while PFAIL_N is low, once start-up is
complete, or in recovery, which FW_ACTIVATE ends (R389). -/
def State.startUp (s : State) : State :=
  if s.pwr.st != .standby || s.cairn.ready || s.cairn.recovery || s.pwr.pfail then s
  else
    let s := s.makeIdentity
    let s := s.updPwr fun p => { p with brdok := s.nvm.board.isSome, flashA := if s.nvm.sfdpA.isSome then p.flashA else 3
                                        flashB := if s.nvm.sfdpB.isSome then p.flashB else 3 }
    if s.pwr.bootsel = 2 then s.enterRecovery
    else
      match s.bootRom with
      | (false, s) => (s.fcuEvent 0xF73).enterRecovery
      | (true, s) =>
        let bist := match s.nvm.board with | some b => b.bistEn | none => false
        let s := if bist && !s.pwr.classB then s.bistMemory else s
        let s := if bist then s.bistCores else s
        if s.fcu.fatal then s
        else
          let s := s.rebuild
          let s := s.logLost
          let s := (s.updCairn fun c => { c with ready := true }).sampleSense
          if s.holdupOk 0 then s.enterRun else s.enterStandby

/-- START_UP. -/
def execStartUp (s : State) : Host.Outcome State Fault Refusal := .next s.startUp

/-- A core loses its power (R403): it leaves its duty; QUARANTINED and FAILED stay. -/
def Core.powerDown (x : Core) : Core :=
  let y := x.renew .free
  if x.st == .failed then { y with st := .failed }
  else if x.st == .quarantined || x.testFor == some .quarantine then { y with st := .quarantined }
  else y

/-- The tests that run stop with their power, before the terminal count: INCOMPLETE (R188, R403). -/
def State.stopTests (s : State) : State :=
  (List.range 64).foldl (fun (s : State) c =>
    if (s.core c).st == .test then (s.cutSlice c).updCore c fun x => { x with bStatus := 4 } else s) s

/-- Posted stores into massif memory drain (R403): first those at the massif ports, then those still queued. -/
def State.drainStores (s : State) : State :=
  let s := (List.range 4).foldl (fun (s : State) m =>
    ((s.massif m).ports.flatMap fun e => e.2).foldl (fun (s : State) (p : PortReq) =>
      match p.who with
      | .store _ => (p.banks.foldl (fun (a : PortReq × State) b => a.2.serveBank m b a.1) (p, s)).2
      | _ => s) s) s
  (List.range 64).foldl (fun (s : State) r =>
    (s.ridge r).queue.foldl (fun (s : State) q => if (s.massifOfAddr r q.addr.toNat).isSome then (s.targetWrite r q).2 else s) s) s

/-- Cairn's flush at brown-out (R406): up to 64 records, contained and fatal ones first; the rest is lost. -/
def State.flushLog (s : State) : State :=
  let l := s.fcu.pendLog
  let sorted := (l.filter fun r => r.cls != 1) ++ l.filter fun r => r.cls == 1
  let out := (sorted.take 64).map fun (r : LogRec) => { r with flags := r.flags ||| 4 }
  (s.updNvm fun v => { v with log := addLog v.log out, lost := v.lost + (l.length - 64) }).updFcu fun u => { u with pendLog := [] }

/-- BROWNOUT_ENTRY (R403, Table 18-7): every ridge ends, cores and vault lose power and with it what they hold (R24; Table 11-7:
cleared on wake), an AST batch in progress completes, sessions end, VRET rises, and Cairn halts after its flush. What the ridges own
stays theirs. -/
def State.brownout (s : State) : State :=
  let s := s.drainStores.stopTests
  let s := (s.cairn.jobs.filter fun j => match j.work with | .coreTest _ => true | .form .. => true | .reload .. => true | _ => false).foldl
    (fun (s : State) j => s.finishJob { j with aborted := true } stAborted []) s
  let s := (s.cairn.jobs.filter fun j => match j.work with | .astCommit .. => true | _ => false).foldl (fun (s : State) j => s.endJob j) s
  let s := s.endSessions
  let s := { s with
    ridges := s.ridges.map fun (e : Nat × Ridge) => (e.1, Ridge.reset)
    cores := s.cores.map fun (e : Nat × Core) => (e.1, e.2.powerDown)
    massifs := s.massifs.map fun (e : Nat × Massif) => (e.1, { e.2 with
      col := none, rotCore := none, rotAgain := [], ports := [], dma := e.2.dma.map fun (d : Nat × Dma) => (d.1, d.2.blockReset) }) }
  let s := s.updPwr fun p =>
    { p with st := .brownout, pfail := true, samples := [], logRetry := none, wipeDue := p.wipeDue || p.wipeBusy, wipeBusy := false
             flushed := true }
  (s.testPortShut.clearVault.setVret true).flushLog.updCairn fun c => { c with halted := true }

/-- BROWNOUT_ENTRY. -/
def execBrownoutEntry (s : State) : Host.Outcome State Fault Refusal := .next (if s.netRuns then s.brownout else s)

/-- BROWNOUT_EXIT (R402): PFAIL_N is high and the flush has ended. -/
def execBrownoutExit (s : State) : Host.Outcome State Fault Refusal :=
  .next (if s.pwr.st == .brownout && s.pwr.flushed then
    (s.updPwr fun p => { p with st := .standby, pfail := false, flushed := false, samples := [] }).updCairn fun c => { c with halted := false }
  else s)

/-- The word with outcome o that a walk of the massifs side by side, word by word, comes to last: of one cycle, the one in the lower
MEM (R274, log 36). -/
def lastWalked (o : Nat) (l : List (Nat × Nat × Nat)) (old : Option (Nat × Nat)) : Option (Nat × Nat) :=
  l.foldl (fun best e =>
    if e.2.2 ≠ o then best else
    match best with
    | none => some (e.1, e.2.1)
    | some b => if b.2 < e.2.1 ∨ (b.2 = e.2.1 ∧ e.1 < b.1) then some (e.1, e.2.1) else best) none <|> old

/-- The wake scrub of massif memory: each word with an error is corrected or poisoned (R270, R266). -/
def State.wakeScrub (s : State) : State :=
  let ks := (s.syn.map (·.1)).filter fun k => decide (synKey 0x80 0 ≤ k ∧ k < synKey 0x84 0)
  let outs := ks.map fun k => (k / 2 ^ 20, k % 2 ^ 20, (s.eccRead (k / 2 ^ 20) (k % 2 ^ 20)).2.2)
  let s := ks.foldl (fun (s : State) k =>
    let m := k / 2 ^ 20
    let w := k % 2 ^ 20
    let o := (s.eccRead m w).2.2
    let (d, p, s) := s.readWord m w
    if o = 1 ∨ o = 2 then s.writeWord m w d p else s) s
  s.updEcc fun e => { e with lastCe := lastWalked 1 outs e.lastCe, lastUe := lastWalked 2 outs e.lastUe }

/-- E_avail was at least E_run in the latest sample of this power state and in the one 100 ms before it (R402). -/
def Pwr.sustained (p : Pwr) : Bool :=
  match p.samples with
  | (t, true) :: older => older.contains (t - 32000000, true) && decide (32000000 ≤ t)
  | _ => false

/-- WAKE (R402, R404): from STANDBY, when the energy suffices in two samples 100 ms apart. The vault, which lost its power, is clear. -/
def execWake (s : State) : Host.Outcome State Fault Refusal :=
  if s.pwr.st == .standby && s.cairn.ready && !s.pwr.pfail && !s.cairn.halted && s.pwr.sustained then
    .next s.wakeScrub.clearVault.enterRun
  else .next s

/-- TAMPER: a tamper input low for 1 µs latches a pending tamper, sets its source and starts a wipe (R399, R400). -/
def execTamper (which : Fin 2) (s : State) : Host.Outcome State Fault Refusal :=
  if s.pwr.st == .off then .next s else
  let s := s.updPwr fun p => if which = 0 then { p with tamp0 := true, tamperPend := true } else { p with tamp1 := true, tamperPend := true }
  .next ((s.fcuEvent (0xF7C + which.val)).startWipe 2)

/-- WIPE_COMPLETE: the read-back of a wipe (R400, R401), of the stored words and of what the cells answer (allZero). A word that is not zero
sets the vault checker's source, which is fatal. Keys that VAULT_KEY has written meanwhile follow (R399). -/
def execWipeComplete (allZero : Bool) (s : State) : Host.Outcome State Fault Refusal :=
  if !s.pwr.wipeBusy then .next s
  else
    let clear := allZero && s.vaultZero
    let late := s.pwr.lateKeys
    let s := s.updPwr fun p => { p with wipeBusy := false, wiped := clear, lateKeys := [] }
    .next (((s.fcuCheck 0xF7E (!clear)).wipeThen).loadKeys late)

/-- The instructions of the JTAG port (Table 18-5). -/
inductive Jtag where
  | idcode | bypass | samplePreload | extest | internalScan
  deriving DecidableEq, Repr

/-- What the JTAG port offers in the present lifecycle state (R396, Table 18-5). -/
def State.jtag (s : State) : List Jtag :=
  if s.nvm.lc = 1 ∨ s.nvm.lc = 2 then [.idcode, .bypass]
  else [.idcode, .bypass, .samplePreload, .extest] ++ if s.pwr.scanen then [.internalScan] else []

/-- The instruction that a JTAG instruction selects: BYPASS where it is not offered (R396). -/
def State.jtagSelect (s : State) (i : Jtag) : Jtag := if s.jtag.contains i then i else .bypass

end Sys2Proof.Machine
end

