-- ==== Sys2Proof/Machine/Pins.lean ====
section
/-!
DEFINITION. Monitors, GP inputs and random hardware faults (17, 19, R169).
-/

namespace Sys2Proof.Machine

/-- Level in millivolts that the monitor of supply k expects: VDD, VDDM, VAON, VDDA, VIO1, VIO3 (Tables 17-1, 19-6). -/
def State.supplyLevel (s : State) (k : Nat) : Nat :=
  if k = 1 then (if s.pwr.vret && !s.fcu.fatal then 600 else 800) else if k < 3 then 800 else if k < 5 then 1800 else 3300

/-- A reading lies outside ±6 % of a level. -/
def outside6 (level v : Nat) : Bool := decide (100 * v < 94 * level ∨ 106 * level < 100 * v)

/-- The VDDM monitor waits for 100 µs after a change of VRET (R416). -/
def State.vddmQuiet (s : State) : Bool :=
  match s.pwr.vretAt with
  | some t => decide (s.tick < t + 32000)
  | none => false

/-- The checks of a temperature sample of sensor t in 1/16 °C: 120 °C and −40 °C, and 130 °C (Table 17-1). -/
def tempChecks (t : Nat) (v : Int) : List (Nat × Bool) :=
  [(0xF90 + 2 * t, decide (1920 < v ∨ v < -640)), (0xF91 + 2 * t, decide (2080 < v))]

/-- The check of a voltage sample of supply k (Table 17-1, R416). -/
def State.voltChecks (s : State) (k v : Nat) : List (Nat × Bool) :=
  if k = 1 && s.vddmQuiet then [] else [(0xFA0 + k, outside6 (s.supplyLevel k) v)]

/-- MONITOR_SAMPLE: the registers of Table 19-13 and the checks of Table 17-1, all of one cycle. -/
def State.monitorSample (s : State) (temps volts : List (BitVec 16)) : State :=
  let ts := temps.take 8
  let vs := volts.take 6
  let reg (l : List (BitVec 16)) : Tbl (Option (BitVec 16)) := (List.range l.length).map fun k => (k, l[k]?)
  let s := { s with mon := { temps := reg ts, volts := reg vs } }
  s.fcuChecks (((List.range ts.length).flatMap fun t => tempChecks t (at_ ts t 0).toInt) ++
    ((List.range vs.length).flatMap fun k => s.voltChecks k (at_ vs k 0).toNat))

/-- MONITOR_SAMPLE. -/
def execMonitorSample (temps : List (BitVec 16)) (volts : List (BitVec 16)) (s : State) : Host.Outcome State Fault Refusal :=
  .next (if s.pwr.st == .off then s else s.monitorSample temps volts)

/-- GP_INPUT_EDGE: the sampled level at a GP ball changes. With FILT = 0 it is an edge at once; otherwise it is one when it has held for
FILT further ticks, and an edge that EDGE selects fires the producer and pulses the line (R426, R198, R275). A ball whose output stage
is enabled has the level that it drives (log 42). -/
def execGpInputEdge (pin : Fin 96) (level : Bool) (s : State) : Host.Outcome State Fault Refusal :=
  if s.pwr.st == .off || (s.gp pin.val).inp == level || s.gpLevel pin.val == some !level then .next s
  else if (s.gp pin.val).filt = 0 then .next ((s.updGp pin.val fun g => { g with inp := level, edgeAt := none }).ballEdge pin.val)
  else .next (s.updGp pin.val fun g => { g with inp := level, edgeAt := some (s.tick + g.filt) })

/-- What a transmitter does (Table 19-7). -/
inductive TxState where
  | off | idle | running
  deriving DecidableEq, Repr

/-- Transmitter of chain port n (R417): off until its port is enumerated and after it is stopped, IDLE in FATAL hold and between trains. -/
def State.fcTx (s : State) (n : Nat) : TxState :=
  let p := s.port n
  if s.pwr.st == .off then .off
  else if s.fcu.fatal then .idle
  else if p.st = 0 then .off
  else if p.train.isSome then .running else .idle

/-- Transmitter of Ethernet port e (R417): off until it is configured, in BROWNOUT and in FATAL hold. -/
def State.ethTx (s : State) (e : Nat) : TxState := if s.netSends && s.cairn.ready && (s.eth e).en then .running else .off

/-- Transmitters of the station ring (R417). -/
def State.ringTx (s : State) : TxState := if s.netSends && s.cairn.ready && s.ring.st != 0 then .running else .off

/-- QA_CS_N and QB_CS_N (R417): high impedance unpowered, else high; an access to a flash begins and ends within a command. -/
def State.flashCs (s : State) : Option Bool := if s.pwr.st == .off then none else some true

/-- The bytes that HQ_IO drives in the transaction that command i is, t being the state that it leaves (R417): the data phase of a read
that is not cut short drives the port's answer, and nothing else drives HQ_IO, which is high impedance between transactions. -/
def State.hostDrives (t : State) (i : Instr) : List Byte :=
  match i with
  | .readId | .status => if t.pwr.st == .off then [] else t.host.out
  | .readPkt true => if t.netRuns then t.host.out else []
  | _ => []

/-- The level of TDO (R417, Table 19-7): in a shift of the JTAG port, the bit that is shifted out, and otherwise high impedance. -/
def State.tdo (s : State) (shift : Option Bool) : Option Bool := if s.pwr.st == .off then none else shift

/-- CLOCK_OR_PIN_MONITOR_TRIP (Table 17-1, R371). -/
def execClockOrPinMonitorTrip (t : MonitorTrip) (s : State) : Host.Outcome State Fault Refusal :=
  if s.pwr.st == .off then .next s else
  match t with
  | .pllLost => .next (s.fcuCheck 0xF88 true)
  | .refclk => .next (s.fcuCheck 0xF89 true)
  | .wdosc => .next (s.fcuCheck 0xF8A true)
  | .pinReadback => .next (s.fcuCheck 0xF8B true)

/-- A value with one bit inverted. -/
def flip {w : Nat} (x : BitVec w) (i : Nat) : BitVec w := x ^^^ (1#w <<< i)

/-- A control register with one stored bit inverted; of PSW the bits that the register holds (Table 3-3). -/
def Core.flipCreg (x : Core) (n bit : Nat) : Core :=
  if n = 0 then (if bit < 11 then { x with psw := flip x.psw bit } else x) else x.setCreg n (flip (x.creg n) bit)

/-- RANDOM_HARDWARE_FAULT (R169): a stored bit, a register of a core, lanes of Cairn, or logic that a checker watches. A flip in
logic without a checker stops the model by name. -/
def execRandomHardwareFault (h : HwFault) (s : State) : Host.Outcome State Fault Refusal :=
  if s.pwr.st == .off then .next s else
  match h with
  | .memBit m w pos =>
    if w < memWords m.toNat ∧ pos < wordBytes m.toNat * 8 + checkBits m.toNat then .next (s.flipBit m.toNat w pos) else .next s
  | .greg c i bit => .next (s.updCore c fun x => x.land (.g i.toNat { (Tbl.get (TW.plain 0) x.gr i.toNat) with
      v := flip (Tbl.get (TW.plain 0) x.gr i.toNat).v bit.val }))
  | .pfile c i bit => .next (s.updCore c fun x => x.land (.pf i.toNat { (Tbl.get (TW.plain 0) x.pf i.toNat) with
      v := flip (Tbl.get (TW.plain 0) x.pf i.toNat).v bit.val }))
  | .accRe c k bit => .next (s.updCore c fun x =>
      let a := Tbl.get Acc.reset x.acc k.toNat
      x.land (.acc k.toNat { a with re := flip a.re bit.val }))
  | .accIm c k bit => .next (s.updCore c fun x =>
      let a := Tbl.get Acc.reset x.acc k.toNat
      x.land (.acc k.toNat { a with im := flip a.im bit.val }))
  | .vreg c i bit => .next (s.updCore c fun x =>
      let a := Tbl.get VReg.reset x.vr i.toNat
      { x with vr := Tbl.set x.vr i.toNat { a with v := flip a.v bit.val } })
  | .creg c n bit => .next (s.updCore c fun x => x.flipCreg n.toNat bit.val)
  | .cairnLane => .next (s.fcuCheck 0xF70 true)
  | .cairnTwoLanes => .next (s.fcuCheck 0xF71 true)
  | .blockLogic n => if (srcInfo n.val).2 then .next (s.fcuCheck n.val true) else .fault (.logicFlip n.val)

end Sys2Proof.Machine
end

