-- ==== Sys2Proof/Machine/Dispatch.lean ====
section
/-!
DEFINITION. One arm per command: its meaning, or its rejection by name.
-/

namespace Sys2Proof.Machine

/-- The effect of a command on everything but the queue (row step of spec/opcode_table.json). -/
def exec (i : Instr) (s : State) : Host.Outcome State Fault Refusal :=
  match i with
  | .add c e rd ra rb => Sys2Proof.Machine.execAdd c e rd ra rb s
  | .sub c e rd ra rb => Sys2Proof.Machine.execSub c e rd ra rb s
  | .and c e rd ra rb => Sys2Proof.Machine.execAnd c e rd ra rb s
  | .or c e rd ra rb => Sys2Proof.Machine.execOr c e rd ra rb s
  | .xor c e rd ra rb => Sys2Proof.Machine.execXor c e rd ra rb s
  | .sll c e rd ra rb => Sys2Proof.Machine.execSll c e rd ra rb s
  | .srl c e rd ra rb => Sys2Proof.Machine.execSrl c e rd ra rb s
  | .sra c e rd ra rb => Sys2Proof.Machine.execSra c e rd ra rb s
  | .slt c e rd ra rb => Sys2Proof.Machine.execSlt c e rd ra rb s
  | .sltu c e rd ra rb => Sys2Proof.Machine.execSltu c e rd ra rb s
  | .min c e rd ra rb => Sys2Proof.Machine.execMin c e rd ra rb s
  | .max c e rd ra rb => Sys2Proof.Machine.execMax c e rd ra rb s
  | .adds c e rd ra rb => Sys2Proof.Machine.execAdds c e rd ra rb s
  | .subs c e rd ra rb => Sys2Proof.Machine.execSubs c e rd ra rb s
  | .cls c e rd ra => Sys2Proof.Machine.execCls c e rd ra s
  | .divs c e rd ra rb => Sys2Proof.Machine.execDivs c e rd ra rb s
  | .mul c e rd ra rb => Sys2Proof.Machine.execMul c e rd ra rb s
  | .mulh c e rd ra rb => Sys2Proof.Machine.execMulh c e rd ra rb s
  | .mulhu c e rd ra rb => Sys2Proof.Machine.execMulhu c e rd ra rb s
  | .addi c e rd ra imm => Sys2Proof.Machine.execAddi c e rd ra imm s
  | .andi c e rd ra imm => Sys2Proof.Machine.execAndi c e rd ra imm s
  | .ori c e rd ra imm => Sys2Proof.Machine.execOri c e rd ra imm s
  | .xori c e rd ra imm => Sys2Proof.Machine.execXori c e rd ra imm s
  | .slli c e rd ra imm => Sys2Proof.Machine.execSlli c e rd ra imm s
  | .srli c e rd ra imm => Sys2Proof.Machine.execSrli c e rd ra imm s
  | .srai c e rd ra imm => Sys2Proof.Machine.execSrai c e rd ra imm s
  | .slti c e rd ra imm => Sys2Proof.Machine.execSlti c e rd ra imm s
  | .sltui c e rd ra imm => Sys2Proof.Machine.execSltui c e rd ra imm s
  | .mini c e rd ra imm => Sys2Proof.Machine.execMini c e rd ra imm s
  | .maxi c e rd ra imm => Sys2Proof.Machine.execMaxi c e rd ra imm s
  | .movi c e rd imm => Sys2Proof.Machine.execMovi c e rd imm s
  | .movui c e rd imm => Sys2Proof.Machine.execMovui c e rd imm s
  | .movhi c e rd imm => Sys2Proof.Machine.execMovhi c e rd imm s
  | .beq c e fI ra rb off => Sys2Proof.Machine.execBeq c e fI ra rb off s
  | .bne c e fI ra rb off => Sys2Proof.Machine.execBne c e fI ra rb off s
  | .blt c e fI ra rb off => Sys2Proof.Machine.execBlt c e fI ra rb off s
  | .bge c e fI ra rb off => Sys2Proof.Machine.execBge c e fI ra rb off s
  | .bltu c e fI ra rb off => Sys2Proof.Machine.execBltu c e fI ra rb off s
  | .bgeu c e fI ra rb off => Sys2Proof.Machine.execBgeu c e fI ra rb off s
  | .j c e off => Sys2Proof.Machine.execJ c e off s
  | .jal c e off => Sys2Proof.Machine.execJal c e off s
  | .jr c e ra => Sys2Proof.Machine.execJr c e ra s
  | .jalr c e ra => Sys2Proof.Machine.execJalr c e ra s
  | .reti c e => Sys2Proof.Machine.execReti c e s
  | .loop c e fI idx cnt endw => Sys2Proof.Machine.execLoop c e fI idx cnt endw s
  | .nop c e => Sys2Proof.Machine.execNop c e s
  | .fence c e => Sys2Proof.Machine.execFence c e s
  | .lbinv c e => Sys2Proof.Machine.execLbinv c e s
  | .trap c e imm => Sys2Proof.Machine.execTrap c e imm s
  | .movc c e rd creg => Sys2Proof.Machine.execMovc c e rd creg s
  | .movs c e creg ra => Sys2Proof.Machine.execMovs c e creg ra s
  | .pmovTo c e x ra => Sys2Proof.Machine.execPmovTo c e x ra s
  | .pmovFrom c e rd x => Sys2Proof.Machine.execPmovFrom c e rd x s
  | .vcfg c e rd ra t => Sys2Proof.Machine.execVcfg c e rd ra t s
  | .vcfgr c e rd ra rt => Sys2Proof.Machine.execVcfgr c e rd ra rt s
  | .cmul c e k ra rb => Sys2Proof.Machine.execCmul c e k ra rb s
  | .cmulj c e k ra rb => Sys2Proof.Machine.execCmulj c e k ra rb s
  | .cmac c e k ra rb => Sys2Proof.Machine.execCmac c e k ra rb s
  | .cmacj c e k ra rb => Sys2Proof.Machine.execCmacj c e k ra rb s
  | .cmsub c e k ra rb => Sys2Proof.Machine.execCmsub c e k ra rb s
  | .cmsubj c e k ra rb => Sys2Proof.Machine.execCmsubj c e k ra rb s
  | .dmac c e k ra rb => Sys2Proof.Machine.execDmac c e k ra rb s
  | .aclr c e k => Sys2Proof.Machine.execAclr c e k s
  | .cspla c e d a b => Sys2Proof.Machine.execCspla c e d a b s
  | .csplb c e d a b => Sys2Proof.Machine.execCsplb c e d a b s
  | .norm c e k gs => Sys2Proof.Machine.execNorm c e k gs s
  | .ext c e gd k im sh => Sys2Proof.Machine.execExt c e gd k im sh s
  | .exp c e gd k => Sys2Proof.Machine.execExp c e gd k s
  | .mfa c e gd k part => Sys2Proof.Machine.execMfa c e gd k part s
  | .mta c e k part gs => Sys2Proof.Machine.execMta c e k part gs s
  | .ldb c e rd pk m => Sys2Proof.Machine.execLdb c e rd pk m s
  | .ldbu c e rd pk m => Sys2Proof.Machine.execLdbu c e rd pk m s
  | .ldh c e rd pk m => Sys2Proof.Machine.execLdh c e rd pk m s
  | .ldhu c e rd pk m => Sys2Proof.Machine.execLdhu c e rd pk m s
  | .ld c e rd pk m => Sys2Proof.Machine.execLd c e rd pk m s
  | .ldd c e rd pk m => Sys2Proof.Machine.execLdd c e rd pk m s
  | .padd c e pk m => Sys2Proof.Machine.execPadd c e pk m s
  | .sb c e rs pk m => Sys2Proof.Machine.execSb c e rs pk m s
  | .sh c e rs pk m => Sys2Proof.Machine.execSh c e rs pk m s
  | .st c e rs pk m => Sys2Proof.Machine.execSt c e rs pk m s
  | .std c e rs pk m => Sys2Proof.Machine.execStd c e rs pk m s
  | .shs c e rs pk m => Sys2Proof.Machine.execShs c e rs pk m s
  | .scs c e ra rb pk m => Sys2Proof.Machine.execScs c e ra rb pk m s
  | .vld c e vd pk mode m => Sys2Proof.Machine.execVld c e vd pk mode m s
  | .vst c e vs pk mode m => Sys2Proof.Machine.execVst c e vs pk mode m s
  | .vlds c e vd pk gs m => Sys2Proof.Machine.execVlds c e vd pk gs m s
  | .vsts c e vs pk gs m => Sys2Proof.Machine.execVsts c e vs pk gs m s
  | .vldx c e vd pk vx m => Sys2Proof.Machine.execVldx c e vd pk vx m s
  | .vstx c e vs pk vx m => Sys2Proof.Machine.execVstx c e vs pk vx m s
  | .vadd c e vd va vb m => Sys2Proof.Machine.execVadd c e vd va vb m s
  | .vsub c e vd va vb m => Sys2Proof.Machine.execVsub c e vd va vb m s
  | .vadds c e vd va vb m => Sys2Proof.Machine.execVadds c e vd va vb m s
  | .vsubs c e vd va vb m => Sys2Proof.Machine.execVsubs c e vd va vb m s
  | .vaddh c e vd va vb m => Sys2Proof.Machine.execVaddh c e vd va vb m s
  | .vsubh c e vd va vb m => Sys2Proof.Machine.execVsubh c e vd va vb m s
  | .vmul c e vd va vb m => Sys2Proof.Machine.execVmul c e vd va vb m s
  | .vmulq c e vd va vb m => Sys2Proof.Machine.execVmulq c e vd va vb m s
  | .vmacq c e vd va vb m => Sys2Proof.Machine.execVmacq c e vd va vb m s
  | .vmacw c e vd va vb m => Sys2Proof.Machine.execVmacw c e vd va vb m s
  | .vnarrow c e vd vs gs m => Sys2Proof.Machine.execVnarrow c e vd vs gs m s
  | .vshrr c e vd va x b m => Sys2Proof.Machine.execVshrr c e vd va x b m s
  | .vshl c e vd va x b m => Sys2Proof.Machine.execVshl c e vd va x b m s
  | .vshr c e vd va x b m => Sys2Proof.Machine.execVshr c e vd va x b m s
  | .vshra c e vd va x b m => Sys2Proof.Machine.execVshra c e vd va x b m s
  | .vand c e vd va vb m => Sys2Proof.Machine.execVand c e vd va vb m s
  | .vor c e vd va vb m => Sys2Proof.Machine.execVor c e vd va vb m s
  | .vxor c e vd va vb m => Sys2Proof.Machine.execVxor c e vd va vb m s
  | .vmin c e vd va vb m => Sys2Proof.Machine.execVmin c e vd va vb m s
  | .vmax c e vd va vb m => Sys2Proof.Machine.execVmax c e vd va vb m s
  | .vcmpeq c e vd va vb m => Sys2Proof.Machine.execVcmpeq c e vd va vb m s
  | .vcmplt c e vd va vb m => Sys2Proof.Machine.execVcmplt c e vd va vb m s
  | .vcmple c e vd va vb m => Sys2Proof.Machine.execVcmple c e vd va vb m s
  | .vsel c e vd va vb m => Sys2Proof.Machine.execVsel c e vd va vb m s
  | .vsplat c e vd gs m => Sys2Proof.Machine.execVsplat c e vd gs m s
  | .vins0 c e vd gs m => Sys2Proof.Machine.execVins0 c e vd gs m s
  | .vext0 c e gd vs m => Sys2Proof.Machine.execVext0 c e gd vs m s
  | .vmovup c e vd vs gs m => Sys2Proof.Machine.execVmovup c e vd vs gs m s
  | .vmovdn c e vd vs gs m => Sys2Proof.Machine.execVmovdn c e vd vs gs m s
  | .vsumw c e vd vs vc m => Sys2Proof.Machine.execVsumw c e vd vs vc m s
  | .fadd c e fd fa fb => Sys2Proof.Machine.execFadd c e fd fa fb s
  | .fsub c e fd fa fb => Sys2Proof.Machine.execFsub c e fd fa fb s
  | .fmul c e fd fa fb => Sys2Proof.Machine.execFmul c e fd fa fb s
  | .fmadd c e fd fa fb fc => Sys2Proof.Machine.execFmadd c e fd fa fb fc s
  | .fmsub c e fd fa fb fc => Sys2Proof.Machine.execFmsub c e fd fa fb fc s
  | .fmin c e fd fa fb => Sys2Proof.Machine.execFmin c e fd fa fb s
  | .fmax c e fd fa fb => Sys2Proof.Machine.execFmax c e fd fa fb s
  | .fabs c e fd fa => Sys2Proof.Machine.execFabs c e fd fa s
  | .fneg c e fd fa => Sys2Proof.Machine.execFneg c e fd fa s
  | .fitof c e fd ga => Sys2Proof.Machine.execFitof c e fd ga s
  | .fftoi c e gd fa => Sys2Proof.Machine.execFftoi c e gd fa s
  | .fsetb c e fd ga => Sys2Proof.Machine.execFsetb c e fd ga s
  | .fgetb c e gd fa => Sys2Proof.Machine.execFgetb c e gd fa s
  | .fcmpeq c e gd fa fb => Sys2Proof.Machine.execFcmpeq c e gd fa fb s
  | .fcmplt c e gd fa fb => Sys2Proof.Machine.execFcmplt c e gd fa fb s
  | .fcmple c e gd fa fb => Sys2Proof.Machine.execFcmple c e gd fa fb s
  | .trapEntry c => Sys2Proof.Machine.execTrapEntry c s
  | .interruptEntry r x => Sys2Proof.Machine.execInterruptEntry r x s
  | .remoteLoadResponse r => Sys2Proof.Machine.execRemoteLoadResponse r s
  | .postedStoreLeave r => Sys2Proof.Machine.execPostedStoreLeave r s
  | .postedStoreResponse r => Sys2Proof.Machine.execPostedStoreResponse r s
  | .loopEndTest c => Sys2Proof.Machine.execLoopEndTest c s
  | .mergeEntryCompletion c => Sys2Proof.Machine.execMergeEntryCompletion c s
  | .icuRouteWrite r addr data p => Sys2Proof.Machine.execIcuRouteWrite r addr data p s
  | .registerWrite r addr data p => Sys2Proof.Machine.execRegisterWrite r addr data p s
  | .bundleVote r => Sys2Proof.Machine.execBundleVote r s
  | .ridgeBlockReset r => Sys2Proof.Machine.execRidgeBlockReset r s
  | .automaticRestart r => Sys2Proof.Machine.execAutomaticRestart r s
  | .memberRemoval r slot => Sys2Proof.Machine.execMemberRemoval r slot s
  | .outenSet r addr data p => Sys2Proof.Machine.execOutenSet r addr data p s
  | .ridgeEvsigFire r addr data p => Sys2Proof.Machine.execRidgeEvsigFire r addr data p s
  | .coreCleared c => Sys2Proof.Machine.execCoreCleared c s
  | .fillColStart r newcomer => Sys2Proof.Machine.execFillColStart r newcomer s
  | .copyRow m pm => Sys2Proof.Machine.execCopyRow m pm s
  | .colPriorityStart m => Sys2Proof.Machine.execColPriorityStart m s
  | .colPriorityHold m => Sys2Proof.Machine.execColPriorityHold m s
  | .cutover m => Sys2Proof.Machine.execCutover m s
  | .selfTestSlice c good => Sys2Proof.Machine.execSelfTestSlice c good s
  | .sliceBudgetExpired c => Sys2Proof.Machine.execSliceBudgetExpired c s
  | .quarantineTestStart c => Sys2Proof.Machine.execQuarantineTestStart c s
  | .rotationStep r slot newcomer => Sys2Proof.Machine.execRotationStep r slot newcomer s
  | .angInEdge pin level => Sys2Proof.Machine.execAngInEdge pin level s
  | .referenceEvent d => Sys2Proof.Machine.execReferenceEvent d s
  | .adEstErrWrite r addr data p => Sys2Proof.Machine.execAdEstErrWrite r addr data p s
  | .ptpEvent d => Sys2Proof.Machine.execPtpEvent d s
  | .cycleBoundary d => Sys2Proof.Machine.execCycleBoundary d s
  | .miss d => Sys2Proof.Machine.execMiss d s
  | .holdoverExpiry d => Sys2Proof.Machine.execHoldoverExpiry d s
  | .captureTrigger u => Sys2Proof.Machine.execCaptureTrigger u s
  | .walkerBinStart d => Sys2Proof.Machine.execWalkerBinStart d s
  | .walkerEntryRead d => Sys2Proof.Machine.execWalkerEntryRead d s
  | .occurrenceFire d => Sys2Proof.Machine.execOccurrenceFire d s
  | .indefiniteRewrite entry => Sys2Proof.Machine.execIndefiniteRewrite entry s
  | .entryUnlink entry => Sys2Proof.Machine.execEntryUnlink entry s
  | .entryRepair entry => Sys2Proof.Machine.execEntryRepair entry s
  | .massifRequestServed m bank => Sys2Proof.Machine.execMassifRequestServed m bank s
  | .scrubRead u => Sys2Proof.Machine.execScrubRead u s
  | .scrubWriteback u => Sys2Proof.Machine.execScrubWriteback u s
  | .scrubOverdue u => Sys2Proof.Machine.execScrubOverdue u s
  | .rawRead => Sys2Proof.Machine.execRawRead s
  | .rawWrite => Sys2Proof.Machine.execRawWrite s
  | .dmaStart m k by_ => Sys2Proof.Machine.execDmaStart m k by_ s
  | .dmaAbort m k r => Sys2Proof.Machine.execDmaAbort m k r s
  | .dmaElementRead m k => Sys2Proof.Machine.execDmaElementRead m k s
  | .dmaReadResponse m k => Sys2Proof.Machine.execDmaReadResponse m k s
  | .dmaWriteResponse m k => Sys2Proof.Machine.execDmaWriteResponse m k s
  | .dmaStop m k => Sys2Proof.Machine.execDmaStop m k s
  | .eventChannelFiring ch => Sys2Proof.Machine.execEventChannelFiring ch s
  | .refractoryEnd ch => Sys2Proof.Machine.execRefractoryEnd ch s
  | .stormWindowEnd => Sys2Proof.Machine.execStormWindowEnd s
  | .trainTransmit n => Sys2Proof.Machine.execTrainTransmit n s
  | .trainComplete n line => Sys2Proof.Machine.execTrainComplete n line s
  | .trainTimeout n x => Sys2Proof.Machine.execTrainTimeout n x s
  | .nodeProcessTrain n k bad other => Sys2Proof.Machine.execNodeProcessTrain n k bad other s
  | .nodeSample n k ready data => Sys2Proof.Machine.execNodeSample n k ready data s
  | .nodeApply n k => Sys2Proof.Machine.execNodeApply n k s
  | .nodeSafeTimeout n k => Sys2Proof.Machine.execNodeSafeTimeout n k s
  | .enum n k h => Sys2Proof.Machine.execEnum n k h s
  | .ident n k h => Sys2Proof.Machine.execIdent n k h s
  | .config n k t payload => Sys2Proof.Machine.execConfig n k t payload s
  | .release n k h => Sys2Proof.Machine.execRelease n k h s
  | .unaddr n k h => Sys2Proof.Machine.execUnaddr n k h s
  | .syncAcquired x => Sys2Proof.Machine.execSyncAcquired x s
  | .syncLost x => Sys2Proof.Machine.execSyncLost x s
  | .nodeUnaddressTimeout n k => Sys2Proof.Machine.execNodeUnaddressTimeout n k s
  | .brk n k => Sys2Proof.Machine.execBrk n k s
  | .breakDetected n from_ => Sys2Proof.Machine.execBreakDetected n from_ s
  | .breakRecovery n => Sys2Proof.Machine.execBreakRecovery n s
  | .frameReceived p f => Sys2Proof.Machine.execFrameReceived p f s
  | .frameTransmit p => Sys2Proof.Machine.execFrameTransmit p s
  | .qTailWrite r addr data p => Sys2Proof.Machine.execQTailWrite r addr data p s
  | .linkDown p => Sys2Proof.Machine.execLinkDown p s
  | .ptpStep r addr data p => Sys2Proof.Machine.execPtpStep r addr data p s
  | .hsrForward p f => Sys2Proof.Machine.execHsrForward p f s
  | .duplicateEntryAged pair => Sys2Proof.Machine.execDuplicateEntryAged pair s
  | .ringFrameReceived dirB f => Sys2Proof.Machine.execRingFrameReceived dirB f s
  | .supervisionFrame => Sys2Proof.Machine.execSupervisionFrame s
  | .ringLinkBreak linkB => Sys2Proof.Machine.execRingLinkBreak linkB s
  | .mirrorFrameReceived src line seq => Sys2Proof.Machine.execMirrorFrameReceived src line seq s
  | .srMbSend r addr data p => Sys2Proof.Machine.execSrMbSend r addr data p s
  | .mailboxMessageReceived mb src srcMb seq msg => Sys2Proof.Machine.execMailboxMessageReceived mb src srcMb seq msg s
  | .mailboxAck mb stored => Sys2Proof.Machine.execMailboxAck mb stored s
  | .mailboxTimeout mb => Sys2Proof.Machine.execMailboxTimeout mb s
  | .ringEnumTimeout => Sys2Proof.Machine.execRingEnumTimeout s
  | .readId => Sys2Proof.Machine.execReadId s
  | .readIdCut => Sys2Proof.Machine.execReadIdCut s
  | .status => Sys2Proof.Machine.execStatus s
  | .statusCut => Sys2Proof.Machine.execStatusCut s
  | .writePkt len pkt crc whole => Sys2Proof.Machine.execWritePkt len pkt crc whole s
  | .readPkt whole => Sys2Proof.Machine.execReadPkt whole s
  | .hostPacketEnqueue => Sys2Proof.Machine.execHostPacketEnqueue s
  | .commandQueueEntry p => Sys2Proof.Machine.execCommandQueueEntry p s
  | .packetProcessing => Sys2Proof.Machine.execPacketProcessing s
  | .jobCompletion job => Sys2Proof.Machine.execJobCompletion job s
  | .confirmTimeout session => Sys2Proof.Machine.execConfirmTimeout session s
  | .sessionIdleTimeout session => Sys2Proof.Machine.execSessionIdleTimeout session s
  | .reassemblyTimeout src => Sys2Proof.Machine.execReassemblyTimeout src s
  | .hello p => Sys2Proof.Machine.execHello p s
  | .confirm o => Sys2Proof.Machine.execConfirm o s
  | .close o => Sys2Proof.Machine.execClose o s
  | .identify o => Sys2Proof.Machine.execIdentify o s
  | .sessionInfo o => Sys2Proof.Machine.execSessionInfo o s
  | .jobStatus o job => Sys2Proof.Machine.execJobStatus o job s
  | .ping o data => Sys2Proof.Machine.execPing o data s
  | .ridgeForm o ridge kind c0 c1 c2 attr policy slot zero start => Sys2Proof.Machine.execRidgeForm o ridge kind c0 c1 c2 attr policy slot zero start s
  | .ridgeRelease o ridge => Sys2Proof.Machine.execRidgeRelease o ridge s
  | .ridgeHalt o ridge => Sys2Proof.Machine.execRidgeHalt o ridge s
  | .ridgeDissolve o ridge => Sys2Proof.Machine.execRidgeDissolve o ridge s
  | .ridgeStatus o ridge => Sys2Proof.Machine.execRidgeStatus o ridge s
  | .ridgePolicy o ridge policy => Sys2Proof.Machine.execRidgePolicy o ridge policy s
  | .ridgeReload o ridge slot start => Sys2Proof.Machine.execRidgeReload o ridge slot start s
  | .assign o kind index ridge => Sys2Proof.Machine.execAssign o kind index ridge s
  | .memRegion o massif region cfg rdlo rdhi wrlo wrhi => Sys2Proof.Machine.execMemRegion o massif region cfg rdlo rdhi wrlo wrhi s
  | .memBankown o massif bank en ridge => Sys2Proof.Machine.execMemBankown o massif bank en ridge s
  | .imgBegin o slot pmLen dmLen digest => Sys2Proof.Machine.execImgBegin o slot pmLen dmLen digest s
  | .imgData o slot offset data => Sys2Proof.Machine.execImgData o slot offset data s
  | .imgEnd o slot => Sys2Proof.Machine.execImgEnd o slot s
  | .imgList o => Sys2Proof.Machine.execImgList o s
  | .imgErase o slot => Sys2Proof.Machine.execImgErase o slot s
  | .adConfig o domain cfg evpc phase offset hold fnom ftol lock accept ptp => Sys2Proof.Machine.execAdConfig o domain cfg evpc phase offset hold fnom ftol lock accept ptp s
  | .adOffset o domain off => Sys2Proof.Machine.execAdOffset o domain off s
  | .adStatus o domain => Sys2Proof.Machine.execAdStatus o domain s
  | .astOpen o domain x => Sys2Proof.Machine.execAstOpen o domain x s
  | .astAdd o recs => Sys2Proof.Machine.execAstAdd o recs s
  | .astCommit o => Sys2Proof.Machine.execAstCommit o s
  | .astDiscard o => Sys2Proof.Machine.execAstDiscard o s
  | .astRead o first count => Sys2Proof.Machine.execAstRead o first count s
  | .astStats o domain => Sys2Proof.Machine.execAstStats o domain s
  | .chConfig o ch cfg cons => Sys2Proof.Machine.execChConfig o ch cfg cons s
  | .chRow o ch row => Sys2Proof.Machine.execChRow o ch row s
  | .chStatus o ch => Sys2Proof.Machine.execChStatus o ch s
  | .chpConfig o port cfg descs => Sys2Proof.Machine.execChpConfig o port cfg descs s
  | .chpEnum o port learn => Sys2Proof.Machine.execChpEnum o port learn s
  | .chpNode o port node => Sys2Proof.Machine.execChpNode o port node s
  | .chpStatus o port => Sys2Proof.Machine.execChpStatus o port s
  | .fcuRead o => Sys2Proof.Machine.execFcuRead o s
  | .fcuClear o sources => Sys2Proof.Machine.execFcuClear o sources s
  | .fcuReact o source mask => Sys2Proof.Machine.execFcuReact o source mask s
  | .logRead o first count => Sys2Proof.Machine.execLogRead o first count s
  | .statClear o kind index => Sys2Proof.Machine.execStatClear o kind index s
  | .eccTest o mem op word data check => Sys2Proof.Machine.execEccTest o mem op word data check s
  | .eccInject o mem word ena bita enb bitb => Sys2Proof.Machine.execEccInject o mem word ena bita enb bitb s
  | .checkerTest o source => Sys2Proof.Machine.execCheckerTest o source s
  | .checkerTestTimeout => Sys2Proof.Machine.execCheckerTestTimeout s
  | .coreTest o core => Sys2Proof.Machine.execCoreTest o core s
  | .rotConfig o massif en pairs stepMs => Sys2Proof.Machine.execRotConfig o massif en pairs stepMs s
  | .colConfig o massif prio delay => Sys2Proof.Machine.execColConfig o massif prio delay s
  | .testStatus o massif => Sys2Proof.Machine.execTestStatus o massif s
  | .fwBegin o len digest => Sys2Proof.Machine.execFwBegin o len digest s
  | .fwData o offset data => Sys2Proof.Machine.execFwData o offset data s
  | .fwEnd o => Sys2Proof.Machine.execFwEnd o s
  | .fwActivate o => Sys2Proof.Machine.execFwActivate o s
  | .firmwareSwap => Sys2Proof.Machine.execFirmwareSwap s
  | .epochRaise => Sys2Proof.Machine.execEpochRaise s
  | .nvmStatus o => Sys2Proof.Machine.execNvmStatus o s
  | .credAdd o cred role key => Sys2Proof.Machine.execCredAdd o cred role key s
  | .credRevoke o cred => Sys2Proof.Machine.execCredRevoke o cred s
  | .credList o => Sys2Proof.Machine.execCredList o s
  | .lcAdvance o target serial => Sys2Proof.Machine.execLcAdvance o target serial s
  | .vaultKey o slot wrapped => Sys2Proof.Machine.execVaultKey o slot wrapped s
  | .vaultWipe o => Sys2Proof.Machine.execVaultWipe o s
  | .scanEnable o => Sys2Proof.Machine.execScanEnable o s
  | .srStatus o => Sys2Proof.Machine.execSrStatus o s
  | .srMirror o k src line en => Sys2Proof.Machine.execSrMirror o k src line en s
  | .srMailbox o mb owner peer peerMb page => Sys2Proof.Machine.execSrMailbox o mb owner peer peerMb page s
  | .srForward o addr inner => Sys2Proof.Machine.execSrForward o addr inner s
  | .srForwardTimeout addr => Sys2Proof.Machine.execSrForwardTimeout addr s
  | .wdtCfgWrite r addr data p => Sys2Proof.Machine.execWdtCfgWrite r addr data p s
  | .wdtReqWrite r addr data p => Sys2Proof.Machine.execWdtReqWrite r addr data p s
  | .wdtChkWrite r addr data p => Sys2Proof.Machine.execWdtChkWrite r addr data p s
  | .checkInSample r edge => Sys2Proof.Machine.execCheckInSample r edge s
  | .periodEnd r => Sys2Proof.Machine.execPeriodEnd r s
  | .cairnWatchdogExpiry => Sys2Proof.Machine.execCairnWatchdogExpiry s
  | .crstcntExpiry => Sys2Proof.Machine.execCrstcntExpiry s
  | .aliveToggle => Sys2Proof.Machine.execAliveToggle s
  | .keepalive => Sys2Proof.Machine.execKeepalive s
  | .keepaliveTimeout => Sys2Proof.Machine.execKeepaliveTimeout s
  | .faultLogBatch => Sys2Proof.Machine.execFaultLogBatch s
  | .por bootsel srmaster sraddr => Sys2Proof.Machine.execPor bootsel srmaster sraddr s
  | .chipReset by_ bootsel => Sys2Proof.Machine.execChipReset by_ bootsel s
  | .startUp => Sys2Proof.Machine.execStartUp s
  | .brownoutEntry => Sys2Proof.Machine.execBrownoutEntry s
  | .brownoutExit => Sys2Proof.Machine.execBrownoutExit s
  | .wake => Sys2Proof.Machine.execWake s
  | .holdupSample code => Sys2Proof.Machine.execHoldupSample code s
  | .tamper which => Sys2Proof.Machine.execTamper which s
  | .wipeComplete allZero => Sys2Proof.Machine.execWipeComplete allZero s
  | .monitorSample temps volts => Sys2Proof.Machine.execMonitorSample temps volts s
  | .gpIoWrite r addr data p => Sys2Proof.Machine.execGpIoWrite r addr data p s
  | .gpInputEdge pin level => Sys2Proof.Machine.execGpInputEdge pin level s
  | .linkUp p => Sys2Proof.Machine.execLinkUp p s
  | .brkEnd n k => Sys2Proof.Machine.execBrkEnd n k s
  | .clockOrPinMonitorTrip t => Sys2Proof.Machine.execClockOrPinMonitorTrip t s
  | .randomHardwareFault h => Sys2Proof.Machine.execRandomHardwareFault h s
  | .powerOff => Sys2Proof.Machine.execPowerOff s

end Sys2Proof.Machine
end

