-- ==== Sys2Proof/Machine/Core.lean ====
section
/-!
DEFINITION. The machine handed to the host.
-/

/-- The machine: state, reasons to stop, step and reset. -/
def Sys2Proof.core : Host.Core := { State := Sys2Proof.Machine.State, Fault := Sys2Proof.Machine.Fault, Refusal := Sys2Proof.Machine.Refusal, step := Sys2Proof.Machine.step, reset := Sys2Proof.Machine.State.reset }
end

