-- ==== Sys2Proof/WellFormed.lean ====
section
/-!
DEFINITION. Which commands carry operands that the spec's formats can hold: an operation word has no bits for others, and a
command from outside states as many values as the thing it describes has. A command that is not well-formed still has a
meaning (an operand is cut to its field); the check says which commands the outside world can send.
-/

namespace Sys2Proof

/-- The immediate of SCS fits OFS[6:0] as a signed value (R138). -/
def MemMode.fitsScs : MemMode → Bool
  | .imm o => (o.setWidth 7).signExtend 12 == o
  | .postImm o => (o.setWidth 7).signExtend 12 == o
  | .circImm o => (o.setWidth 7).signExtend 12 == o
  | _ => true

/-- PADD has no mode 0 (R138). -/
def MemMode.updates : MemMode → Bool
  | .imm _ => false
  | _ => true

/-- ECC words of a memory and bits of each (Table 11-6): data and check bits. -/
def ecc39 (mem : Nat) : Bool := decide (mem < 0x40)

/-- Number of ECC words of memory MEM (Table 11-6). -/
def eccWords (mem : Nat) : Nat :=
  if mem < 0x40 then 32768 else if mem < 0x80 then 12288 else if mem < 0x84 then 262144 else if mem = 0x84 then 1048576
  else if mem = 0x85 then 65536 else if mem = 0x86 then 131072 else if mem = 0x87 then 65536 else if mem = 0x88 then 32768 else 0

/-- A flip names a bit that exists (Table 11-6, Table 6-6). -/
def HwFault.wellFormed : HwFault → Bool
  | .memBit mem word pos => decide (word < eccWords mem.toNat ∧ pos < (if ecc39 mem.toNat then 39 else 72))
  | .creg _ n _ => decide (n.toNat ≤ 0x06 ∨ (0x10 ≤ n.toNat ∧ n.toNat ≤ 0x1B) ∨ (0x20 ≤ n.toNat ∧ n.toNat ≤ 0x24))
  | _ => true

/-- The command is one that the formats of the spec can express. -/
def Instr.wellFormed : Instr → Bool
  | .slli _ _ _ _ imm | .srli _ _ _ _ imm | .srai _ _ _ _ imm => decide (imm.toNat < 32)
  | .loop _ _ i _ cnt _ => i || decide (cnt.toNat < 32)
  | .ldd _ _ rd _ _ => rd.toNat % 2 == 0
  | .std _ _ rs _ _ => rs.toNat % 2 == 0
  | .padd _ _ _ m => m.updates
  | .scs _ _ _ _ _ m => m.fitsScs
  | .vmacw _ _ vd _ _ _ => vd.toNat % 2 == 0
  | .vnarrow _ _ _ vs _ _ => vs.toNat % 2 == 0
  | .vsel _ _ _ _ _ m => !m
  | .nodeSample _ _ _ data => decide (data.length ≤ 63)
  | .enum _ _ t | .ident _ _ t | .release _ _ t | .unaddr _ _ t => t.payload.length == t.plen.toNat
  | .config _ _ t payload => payload.length == t.plen.toNat
  | .chpConfig _ _ _ descs => descs.length == 48
  | .writePkt len pkt _ whole => !whole || pkt.length == len.toNat
  | .monitorSample temps volts => temps.length == 8 && volts.length == 6
  | .randomHardwareFault h => h.wellFormed
  | .scrubRead u | .scrubWriteback u | .scrubOverdue u => decide (u.toNat < 137)
  | _ => true

end Sys2Proof
end

