-- ==== Sys2Proof/Safety.lean ====
section
/-!
DEFINITION. The terms in which the statements speak: when a core is at the start of a bundle with nothing in its way, what a
bundle of one operation leaves behind (R48 to R60), and the invariants of the device's state.
-/

namespace Sys2Proof.Machine

/-- Core c executes and stands at the start of a bundle: no operation of it has been given, nothing waits at its boundary (a
remote load, an error response, a delay bundle), the posted-store queue is empty and the bundle is not the end of a loop body
(R48, R57, R58, R60, R63). -/
structure State.Ready (s : State) (c : Nat) : Prop where
  executes : s.executes c = true
  open_ : (s.core c).open_ = []
  held : (s.core c).held = false
  wait : (s.core c).wait = []
  aerr : (s.core c).aerr = none
  refusals : (s.core c).refusals = []
  pend : (s.core c).pend = none
  retiPend : (s.core c).retiPend = false
  inPm : (s.core c).pc.toNat + 4 < 0x18000
  noEnd : Loops.endTest (s.core c).pc 4 (s.core c).testLoops = (none, (s.core c).testLoops)
  noPosted : (s.core c).posted = 0
  noQueue : (s.ridge (s.core c).ridge).queue = []

/-- Loop depth after a bundle of one operation with effect o (R65): a taken branch leaves the loops that do not contain its target. -/
def Core.depthAfter (x : Core) (o : OpEff) : Nat :=
  match o.branch with
  | some a => x.loops.branchDepth a x.loops.ld
  | none => x.loops.ld

/-- The target that such a bundle leaves pending (R60, R80): that of a taken branch, or EPC after a RETI. -/
def Core.pendAfter (x : Core) (o : OpEff) : Option Word :=
  match o.branch with
  | some a => some a
  | none => if o.reti then some x.epc else none

/-- What a bundle of one operation with effect o leaves in a core that was ready (R48 to R53, R60): the results of the
bundle before it land, then the early results of this one; its late results wait for the next bundle; the pc moves on by one
word; a taken branch leaves its target pending and ends the loops that do not contain it, a RETI leaves EPC pending; f, the
next bundle, is fetched. -/
def Core.ran (x : Core) (o : OpEff) (f : Fetched) : Core :=
  let ld := x.depthAfter o
  let keep := !o.lbinv && (match f.2.2.1 with
    | some k => decide (k < ld)
    | none => false)
  let y := x.landAll (x.landing [o] (x.pc + 4) f.1)
  { y with
    psw := pswWithDly (pswWithLd y.psw ld) (x.pendAfter o).isSome, late := (lateOf [o]).1, open_ := [], held := false
    pend := x.pendAfter o, retiPend := o.reti, pc := x.pc + 4, testLoops := { x.loops with ld := ld }, endSel := none, fetched := f.1
    lbLoop := if keep then f.2.2.1 else none, lbOn := keep && x.lbOn, lbuf := if keep then f.2.2.2 else [], wait := (lateOf [o]).2
    cycles := x.cycles + (1 + o.cycles false), aerr := none, refusals := [], landed := [] }

/-- The device after such a bundle: the core as above; then the stores take place, the record goes to the comparison or, in a
simplex ridge, its requests leave, and the ECC words read report what they found (R94, R154, R156, R261). -/
def State.ran (s : State) (c : Nat) (o : OpEff) : State :=
  let x := s.core c
  let f := o.flat o.elems
  let fe := s.fetch c x { x.loops with ld := x.depthAfter f } (x.pc + 4)
  let y := x.ran f fe
  let moved := x.depthAfter f != x.loops.ld || (x.pendAfter f).isSome
  let rec_ := bundleRecord x.pc (x.landed ++ x.landing [f] (x.pc + 4) fe.1) (if moved then [(0, y.psw)] else []) [f]
  let w := (s.setCore c y).applyStores c f.stores
  (w.1.post c rec_).eccEvents (s.outcomes f.reads ++ s.outcomes fe.2.1 ++ w.2)

/-- A domain that is not OFF has neither a boundary to handle nor a miss, and its holdover does not end (R213): the events that
wait apart, time has nothing left for it in this tick. -/
structure Domain.Quiet (x : Domain) : Prop where
  noBoundary : x.due = 0
  noMiss : x.st ≠ .free → x.adv < x.cfg.span
  noExpiry : x.st = .holdover → x.holds < x.cfg.hold

/-- No ball stands at another level than IN and no edge of one waits: time has nothing to do at the GP pins (R426). -/
def State.BallsQuiet (s : State) : Prop :=
  ∀ e ∈ s.gps, s.ballMoved e.1 = false ∧ e.2.edgeAt = none ∧ (s.gp e.1).edgeAt = none

/-- What giving core c an operation does when the core is ready: with E set the bundle of that one operation runs; without, it
joins the open bundle (R50, R124). -/
def State.gave (s : State) (c : Nat) (e : Bool) (k : Nat) (w : Word) (o : OpEff) : State :=
  if e then s.ran c (o.at_ k w) else s.setCore c ((s.core c).withOpen [o.at_ k w])

/-- Running ridge r may write the register at offset o of the register space by address addr: the ridge's check and the
filtering of the view let the write through (R38 to R40, R434). -/
structure State.Writes (s : State) (r : Nat) (addr : Word) (o : Nat) : Prop where
  running : (s.ridge r).running = true
  names : regOffset r addr = some o
  checked : s.check r (s.leadMode r) true addr.toNat 4 false = none
  filtered : s.regKinds r (rowOf addr.toNat == some .pview) true o = []

/-- The comparison of running ridge r meets its members alone (R154, R156): no col runs in its massif, no member's bundle is
held, no load waits to leave, the members are distinct cores of this ridge, and no injection is armed. -/
structure State.Compares (s : State) (r : Nat) : Prop where
  running : (s.ridge r).running = true
  noCol : (s.massif (s.ridge r).massif).col = none
  noLoads : (s.ridge r).loads = []
  notHeld : ∀ m ∈ (s.ridge r).valid, (s.core m.2).held = false
  members : ∀ m ∈ (s.ridge r).valid, m.2 < 64 ∧ (s.core m.2).st = .member ∧ (s.core m.2).ridge = r
  distinct : ((s.ridge r).valid.map Prod.snd).Nodup
  noInjection : s.fcu.injArm = false

/-- The record that each member of ridge r has closed and that the next comparison takes (R154 to R156); none where it has
closed none. -/
def State.heads (s : State) (r : Nat) : List (Option Record) := (s.ridge r).valid.map fun m => (s.core m.2).recs.head?

/-- Every merge-buffer entry names a word of DM and has tags of the bytes that it holds only (R100). -/
abbrev Core.MergeOk (x : Core) : Prop := ∀ m ∈ x.merge, m.word < 32768 ∧ m.tags &&& ~~~m.mask = 0

/-- Both lists of the memories, bytes and syndromes, have their canonical form (log 8). -/
structure State.MemWf (s : State) : Prop where
  mem : Memory.wf s.mem = true
  syn : Memory.wf s.syn = true

/-- Every ECC word of memory MEM is clean (R261), no injection is armed, and the memories have their canonical form. -/
structure State.Clean (s : State) (m : Nat) : Prop where
  canonical : s.MemWf
  words : ∀ w, s.memSyn m w = 0
  noCheck : s.fcu.injArm = false
  noWrite : s.ecc.injArm = false

/-- Cairn takes opcode op of origin o: it serves, the packet's session x exists, and step 5 of R341 refuses nothing (R341, R347). -/
structure State.Admits (s : State) (o : Origin) (op : Nat) (x : Session) : Prop where
  serves : s.cairnServes = true
  session : s.session o.session = some x
  allowed : s.gateOp x op = none

/-- The state after Cairn's reply to origin o for an opcode, with MORE set in an interim reply (R337, R344, R348). -/
def State.answered (s : State) (o : Origin) (op status : Nat) (data : List Byte) : State :=
  s.reply o.session o.seq.toNat o.via (if status = stAccepted then 0xC0 else 0x80) op status data true

/-- The state after an L command has become a job and its interim reply has gone out (R348, R349). -/
def State.started (s : State) (o : Origin) (op : Nat) (w : JobWork) : State :=
  (s.startJob o op w).2.2.answered o op stAccepted [BitVec.ofNat 8 (s.cairn.nextJob % 256)]

end Sys2Proof.Machine
end

