-- ==== Sys2Proof/Certificates/Slice0/Obligations.lean ====
section
/-!
DEFINITION. The statements for the provers. Each names the rules of spec/ that it states; a clause that rests on a choice of
this model names the log entry. A statement about a command of a core is made for a core that is ready (Safety.lean): it
stands at the start of a bundle with nothing in its way.
-/

open Sys2Proof Sys2Proof.Machine
/-- R131, R143: the register forms of the integer operations, and MUL, MULH, MULHU, write rd in the same bundle's early
results; the tag of the result is the OR of the operands' tags. -/
def Obligations.AluRegisterOperations : Prop :=
  ∀ (s : State) (c : Fin 64) (e : Bool) (rd ra rb : BitVec 5), s.Ready c →
    let a := ((s.core c).g ra).v
    let b := ((s.core c).g rb).v
    let out (func : Nat) (v : Word) : Host.Outcome State Fault Refusal :=
      .next (s.gave c e 4 (aluWord e func rd ra rb)
        { OpEff.nil with early := [.g rd.toNat ⟨v, ((s.core c).g ra).p || ((s.core c).g rb).p⟩] })
    exec (.add c e rd ra rb) s = out 0x00 (a + b)
    ∧ exec (.sub c e rd ra rb) s = out 0x01 (a - b)
    ∧ exec (.and c e rd ra rb) s = out 0x02 (a &&& b)
    ∧ exec (.or c e rd ra rb) s = out 0x03 (a ||| b)
    ∧ exec (.xor c e rd ra rb) s = out 0x04 (a ^^^ b)
    ∧ exec (.sll c e rd ra rb) s = out 0x05 (a <<< (b.toNat % 32))
    ∧ exec (.srl c e rd ra rb) s = out 0x06 (a >>> (b.toNat % 32))
    ∧ exec (.sra c e rd ra rb) s = out 0x07 (BitVec.ofInt 32 (a.toInt / 2 ^ (b.toNat % 32)))
    ∧ exec (.slt c e rd ra rb) s = out 0x08 (if a.toInt < b.toInt then 1 else 0)
    ∧ exec (.sltu c e rd ra rb) s = out 0x09 (if a.toNat < b.toNat then 1 else 0)
    ∧ exec (.min c e rd ra rb) s = out 0x0A (BitVec.ofInt 32 (min a.toInt b.toInt))
    ∧ exec (.max c e rd ra rb) s = out 0x0B (BitVec.ofInt 32 (max a.toInt b.toInt))
    ∧ exec (.mul c e rd ra rb) s = out 0x10 (BitVec.ofInt 32 (a.toInt * b.toInt))
    ∧ exec (.mulh c e rd ra rb) s = out 0x11 (BitVec.ofInt 32 (a.toInt * b.toInt / 2 ^ 32))
    ∧ exec (.mulhu c e rd ra rb) s = out 0x12 (BitVec.ofNat 32 (a.toNat * b.toNat / 2 ^ 32))

/-- 03, Table 6-3, R91: ADDS and SUBS clamp to the signed range; CLS counts the bits from bit 30 downward that equal bit 31;
DIVS truncates toward zero, saturates where the divisor is zero or the quotient does not fit, and lasts 16 cycles. -/
def Obligations.SaturatingAndDividing : Prop :=
  ∀ (s : State) (c : Fin 64) (e : Bool) (rd ra rb : BitVec 5), s.Ready c →
    let a := (s.core c).g ra
    let b := (s.core c).g rb
    let clamp (z : Int) : Word := BitVec.ofInt 32 (max (-(2 ^ 31)) (min (2 ^ 31 - 1) z))
    let out (func : Nat) (v : Word) (stall : Nat) : Host.Outcome State Fault Refusal :=
      .next (s.gave c e 4 (aluWord e func rd ra rb)
        { OpEff.nil with early := [.g rd.toNat ⟨v, a.p || b.p⟩], stall := stall })
    exec (.adds c e rd ra rb) s = out 0x0C (clamp (a.v.toInt + b.v.toInt)) 0
    ∧ exec (.subs c e rd ra rb) s = out 0x0D (clamp (a.v.toInt - b.v.toInt)) 0
    ∧ (b.v = 0 → exec (.divs c e rd ra rb) s = out 0x0F (if a.v.toInt < 0 then 0x80000000 else 0x7FFFFFFF) 15)
    ∧ (b.v ≠ 0 → exec (.divs c e rd ra rb) s = out 0x0F (clamp (a.v.toInt.tdiv b.v.toInt)) 15)
    ∧ (∃ n : Nat, n ≤ 31
        ∧ (∀ i, 31 - n ≤ i → i ≤ 30 → a.v.getLsbD i = a.v.getLsbD 31)
        ∧ (n < 31 → a.v.getLsbD (30 - n) ≠ a.v.getLsbD 31)
        ∧ exec (.cls c e rd ra) s = .next (s.gave c e 4 (aluWord e 0x0E rd ra 0)
            { OpEff.nil with early := [.g rd.toNat ⟨BitVec.ofNat 32 n, a.p⟩] }))

/-- R131, R132: the immediate forms sign-extend IMM12 but for ANDI, ORI, XORI and SLTUI, which zero-extend it; shift amounts are
below 32; MOVI and MOVUI set rd from IMM16, and MOVHI its upper half, keeping the lower. -/
def Obligations.AluImmediateOperations : Prop :=
  ∀ (s : State) (c : Fin 64) (e : Bool) (rd ra : BitVec 5) (imm : BitVec 12) (k : BitVec 16), s.Ready c →
    let a := ((s.core c).g ra).v
    let p := ((s.core c).g ra).p
    let x : Word := imm.signExtend 32
    let z : Word := imm.setWidth 32
    let out (func : Nat) (v : Word) : Host.Outcome State Fault Refusal :=
      .next (s.gave c e 4 (aluiWord e func rd ra imm) { OpEff.nil with early := [.g rd.toNat ⟨v, p⟩] })
    let outK (func : Nat) (v : Word) (q : Bool) : Host.Outcome State Fault Refusal :=
      .next (s.gave c e 4 (moviWord e func rd k) { OpEff.nil with early := [.g rd.toNat ⟨v, q⟩] })
    exec (.addi c e rd ra imm) s = out 0x0 (a + x)
    ∧ exec (.andi c e rd ra imm) s = out 0x1 (a &&& z)
    ∧ exec (.ori c e rd ra imm) s = out 0x2 (a ||| z)
    ∧ exec (.xori c e rd ra imm) s = out 0x3 (a ^^^ z)
    ∧ (imm.toNat < 32 → exec (.slli c e rd ra imm) s = out 0x4 (a <<< imm.toNat))
    ∧ (imm.toNat < 32 → exec (.srli c e rd ra imm) s = out 0x5 (a >>> imm.toNat))
    ∧ (imm.toNat < 32 → exec (.srai c e rd ra imm) s = out 0x6 (BitVec.ofInt 32 (a.toInt / 2 ^ imm.toNat)))
    ∧ exec (.slti c e rd ra imm) s = out 0x7 (if a.toInt < x.toInt then 1 else 0)
    ∧ exec (.sltui c e rd ra imm) s = out 0x8 (if a.toNat < z.toNat then 1 else 0)
    ∧ exec (.mini c e rd ra imm) s = out 0x9 (BitVec.ofInt 32 (min a.toInt x.toInt))
    ∧ exec (.maxi c e rd ra imm) s = out 0xA (BitVec.ofInt 32 (max a.toInt x.toInt))
    ∧ exec (.movi c e rd k) s = outK 0 (k.signExtend 32) false
    ∧ exec (.movui c e rd k) s = outK 1 (k.setWidth 32) false
    ∧ exec (.movhi c e rd k) s = outK 2 (k ++ (((s.core c).g rd).v.setWidth 16)) ((s.core c).g rd).p

/-- R28, R60, R133: a compare-and-branch whose operands carry no tag and whose target is a legal fetch address leaves the
target pending, for the bundle after the delay bundle, where its condition holds; else it does nothing. The immediate form
compares with IMM5, sign-extended in the signed conditions. -/
def Obligations.Branches : Prop :=
  ∀ (s : State) (c : Fin 64) (e i : Bool) (ra rb : BitVec 5) (off : BitVec 13), s.Ready c →
    ((s.core c).g ra).p = false → (i = false → ((s.core c).g rb).p = false) →
    let target := (s.core c).pc + (off.signExtend 32 <<< 2)
    target.toNat < 0x18000 → target.toNat % 4 = 0 →
    let a := ((s.core c).g ra).v
    let b (signed : Bool) : Word := if i then (if signed then rb.signExtend 32 else rb.setWidth 32) else ((s.core c).g rb).v
    let out (cond : Nat) (taken : Bool) : Host.Outcome State Fault Refusal :=
      .next (s.gave c e 4 (brWord e i cond ra rb off) { OpEff.nil with branch := if taken then some target else none })
    exec (.beq c e i ra rb off) s = out 0 (a == b true)
    ∧ exec (.bne c e i ra rb off) s = out 1 (a != b true)
    ∧ exec (.blt c e i ra rb off) s = out 2 (decide (a.toInt < (b true).toInt))
    ∧ exec (.bge c e i ra rb off) s = out 3 (decide ((b true).toInt ≤ a.toInt))
    ∧ exec (.bltu c e i ra rb off) s = out 4 (decide (a.toNat < (b false).toNat))
    ∧ exec (.bgeu c e i ra rb off) s = out 5 (decide ((b false).toNat ≤ a.toNat))

/-- R60, R133: J and JAL go to the pc plus four times the offset, JR and JALR to ra; JAL and JALR put the address of the bundle
after the delay bundle, which is n words long, into g31. R80: RETI goes to EPC, and at the end of its delay bundle PSW is EPSW, LD
and DLY with it; where that DLY is 1, ETGT is the pending target. -/
def Obligations.JumpsAndReturn : Prop :=
  (∀ (s : State) (c : Fin 64) (e : Bool) (ra : BitVec 5) (off : BitVec 25), s.Ready c →
    let x := s.core c
    let target := x.pc + (off.signExtend 32 <<< 2)
    let out (w : Word) (a : Word) (link : Bool) : Host.Outcome State Fault Refusal :=
      .next (s.gave c e 4 w { OpEff.nil with branch := some a, link := link })
    (targetOk target = true → exec (.j c e off) s = out (jmpWord e false off) target false
      ∧ exec (.jal c e off) s = out (jmpWord e true off) target true)
    ∧ ((x.g ra).p = false → targetOk (x.g ra).v = true →
      exec (.jr c e ra) s = out (jregWord e 0 ra) (x.g ra).v false
      ∧ exec (.jalr c e ra) s = out (jregWord e 1 ra) (x.g ra).v true)
    ∧ (targetOk x.epc = true → (x.epsw.getLsbD 10 = true → targetOk x.etgt = true) →
      exec (.reti c e) s = .next (s.gave c e 4 (jregWord e 2 0) { OpEff.nil with reti := true }))
    ∧ (∀ n : Nat, let back : TW := ⟨x.pc + 4 + BitVec.ofNat 32 (4 * n), false⟩
      x.lbLoop = none → x.pc.toNat % 4 = 0 → (∀ w, s.memSyn (0x40 + c) w = 0) → s.fcu.injArm = false → 0 < n → n ≤ 6 →
      x.pc.toNat + 4 + 4 * n ≤ 0x18000 →
      (∀ i, i < n → (s.memByte (0x40 + c) (x.pc.toNat + 4 + 4 * i + 3)).getLsbD 7 = decide (i + 1 = n)) →
      (targetOk target = true → ∃ t, exec (.jal c true off) s = .next t ∧ (t.core c).g 31 = back ∧ (t.core c).pend = some target)
      ∧ ((x.g ra).p = false → targetOk (x.g ra).v = true →
        ∃ t, exec (.jalr c true ra) s = .next t ∧ (t.core c).g 31 = back ∧ (t.core c).pend = some (x.g ra).v))
    ∧ (targetOk x.epc = true → (x.epsw.getLsbD 10 = true → targetOk x.etgt = true) →
      ∃ t, exec (.reti c true) s = .next t ∧ (t.core c).pend = some x.epc ∧ (t.core c).retiPend = true
        ∧ (t.core c).pc = x.pc + 4))
  ∧ (∀ (s : State) (c : Fin 64) (a : Word), let x := s.core c
    s.executes c = true → x.open_ = [] → x.held = false → x.wait = [] → x.aerr = none → x.refusals = [] → x.pend = some a →
    x.retiPend = true → x.pc.toNat + 4 ≤ 0x18000 → (∀ w, s.memSyn (0x40 + c) w = 0) → s.fcu.injArm = false →
    ∃ t, exec (.nop c true) s = .next t ∧ (t.core c).pc = a ∧ (t.core c).psw = x.epsw &&& 0x7FF ∧ (t.core c).retiPend = false
      ∧ (t.core c).pend = (if x.epsw.getLsbD 10 then some x.etgt else none) ∧ (t.core c).gr = (x.landAll x.due).gr
      ∧ (t.core c).epsw = (x.landAll x.due).epsw ∧ (∀ k, k ≠ c.val → t.core k = s.core k) ∧ t.mem = s.mem)

/-- R62: a LOOP that names PSW.LD as its index, with a count and an end address in PM not before its own bundle's end, starts a
loop whose body begins after its bundle: LS, LE and LC of the index are set, LD counts up, and the loop buffer holds nothing but the
bundle that F takes next, and that where the body fits. A LOOP with count zero starts none, takes one cycle more and continues
behind the bundle at the end address; in a pair or triad the first body bundle leaves a record of no effect. Nothing of the
device changes but core c.
The model's own choices in it: log 4 (the record of the bundle of no effect). -/
def Obligations.LoopStarts : Prop :=
  ∀ (s : State) (c : Fin 64) (i : Bool) (idx : BitVec 2) (cnt : BitVec 12) (endw : BitVec 11), s.Ready c →
    let x := s.core c
    let n : TW := if i then ⟨cnt.setWidth 32, false⟩ else x.g (cnt.setWidth 5)
    let start := x.pc + 4
    let last := x.pc + BitVec.ofNat 32 (4 * endw.toNat)
    (i = false → cnt.toNat < 32) → pswLd x.psw = idx.toNat → x.late = [] → n.p = false →
    start.toNat ≤ last.toNat → last.toNat < 0x18000 → (∀ w, s.memSyn (0x40 + c) w = 0) → s.fcu.injArm = false →
    ∃ t, exec (.loop c true i idx cnt endw) s = .next t ∧ t = s.setCore c (t.core c) ∧ (∀ k, k ≠ c.val → t.core k = s.core k)
      ∧ (n.v ≠ 0 → (t.core c).pc = start ∧ pswLd (t.core c).psw = idx.toNat + 1
          ∧ (t.core c).ls = x.ls.set idx.toNat start ∧ (t.core c).le = x.le.set idx.toNat last
          ∧ (t.core c).lc = x.lc.set idx.toNat n.v ∧ (t.core c).cycles = x.cycles + 1 ∧ (t.core c).lbOn = false
          ∧ (let fits := s.bodyFits c last.toNat 32 start.toNat
            (t.core c).lbLoop = (if fits then some idx.toNat else none)
            ∧ (t.core c).lbuf.map (·.1) = if fits then [start] else []))
      ∧ (n.v = 0 → pswLd (t.core c).psw = idx.toNat ∧ (t.core c).ls = x.ls ∧ (t.core c).le = x.le ∧ (t.core c).lc = x.lc
          ∧ (t.core c).pc = last + BitVec.ofNat 32 (4 * s.bundleLen c last) ∧ (t.core c).cycles = x.cycles + 2
          ∧ (t.core c).skip = none ∧ ((s.ridge x.ridge).kind ≠ 1 → ∃ k, k.pc = x.pc ∧ k.reqs = [] ∧ (t.core c).recs = x.recs ++ [k,
              { entry := false, pc := start, wbs := [], cregs := [], reqs := [], accs := [] }]))
      ∧ (t.core c).held = false ∧ (t.core c).gr = x.gr ∧ (t.core c).pf = x.pf ∧ (t.core c).acc = x.acc ∧ (t.core c).vr = x.vr
      ∧ t.mem = s.mem ∧ t.ridges = s.ridges

/-- R59, R61, R67, R73, R78, R101, R106, R107, R135, R136: the system operations. MOVS writes a listed control register where the
ridge may set the mode that it writes, but leaves VL and VTYPE as they are; VCFG and VCFGR set VTYPE, VL and VSTART and return what is left of
the count. TRAP enters its handler, whose address h is the word of PM at IVB + 4 × 0x88, with its immediate in EVAL; without E it
joins the open bundle. -/
def Obligations.SystemOperations : Prop :=
  ∀ (s : State) (c : Fin 64) (e : Bool) (rd ra rt x : BitVec 5) (creg : Byte) (t : BitVec 11), s.Ready c →
    let k := s.core c
    let out (w : Word) (o : OpEff) : Host.Outcome State Fault Refusal := .next (s.gave c e 4 w o)
    let g (n : Nat) (v : Word) (p : Bool) : List Wb := [.g n ⟨v, p⟩]
    let cfg (n v : Word) : List Wb :=
      if v.toNat % 4 = 3 ∨ 4 ≤ v.toNat % 2 ^ 31 then [.creg 0x21 0x80000000, .creg 0x20 0, .creg 0x22 0, .g rd.toNat ⟨n, false⟩]
      else
        let vl := min n.toNat (if v.toNat % 4 = 0 then 32 else if v.toNat % 4 = 1 then 16 else 8)
        [.creg 0x21 (v &&& 3), .creg 0x20 (BitVec.ofNat 32 vl), .creg 0x22 0, .g rd.toNat ⟨n - BitVec.ofNat 32 vl, false⟩]
    let trap := ({ OpEff.nil with trap := some (0x88, t.setWidth 32) } : OpEff).at_ 4 (sysWord e 3 0 0 t.toNat)
    let y := k.landAll k.due
    let h := (wordOfBytes (s.ownRead c true (y.ivb.toNat + 4 * 0x88) 4).1).1
    exec (.trap c e t) s = .next (if e then (s.setCore c (k.withOpen [trap])).enter c 0x88 (t.setWidth 32) none false
      else s.setCore c (k.withOpen [trap]))
    ∧ (e = true → (∀ w, s.memSyn (0x40 + c) w = 0) → s.fcu.injArm = false → y.ivb.toNat + 4 * 0x88 + 4 ≤ 0x18000 →
      h.toNat < 0x18000 → h.toNat % 4 = 0 →
      ∃ u, exec (.trap c e t) s = .next u ∧ (u.core c).pc = h ∧ (u.core c).epc = k.pc ∧ (u.core c).epsw = y.psw
        ∧ (u.core c).ecause = 0x88 ∧ (u.core c).eval = t.setWidth 32 ∧ (u.core c).open_ = [] ∧ (u.core c).gr = y.gr
        ∧ (u.core c).psw.getLsbD 0 = false ∧ ((u.core c).psw.getLsbD 4 = (s.ridge k.ridge).priv) ∧ u.mem = s.mem
        ∧ ∀ j, j ≠ c.val → u.core j = s.core j)
    ∧ exec (.nop c e) s = out (sysWord e 0 0 0 0) OpEff.nil
    ∧ (k.merge = [] → k.evicted = none → (s.ridge k.ridge).flying = [] →
        exec (.fence c e) s = out (sysWord e 1 0 0 0) { OpEff.nil with fence := true })
    ∧ exec (.lbinv c e) s = out (sysWord e 2 0 0 0) { OpEff.nil with lbinv := true }
    ∧ (cregListed creg.toNat = true →
        exec (.movc c e rd creg) s = out (sysWord e 4 rd 0 creg.toNat) { OpEff.nil with early := g rd.toNat (k.creg creg.toNat) false })
    ∧ (cregListed creg.toNat = true → creg.toNat ≠ 0x20 → creg.toNat ≠ 0x21 → (k.g ra).p = false →
        ((creg.toNat = 0 ∨ creg.toNat = 2) → (k.g ra).v.getLsbD 4 = true → (s.ridge k.ridge).priv = true) →
        exec (.movs c e creg ra) s = out (sysWord e 5 0 ra creg.toNat) { OpEff.nil with early := [.creg creg.toNat (k.g ra).v] })
    ∧ (creg.toNat = 0x20 ∨ creg.toNat = 0x21 → (k.g ra).p = false →
        exec (.movs c e creg ra) s = out (sysWord e 5 0 ra creg.toNat) OpEff.nil)
    ∧ exec (.pmovTo c e x ra) s = out (sysWord e 6 0 ra x.toNat) { OpEff.nil with early := [.pf x.toNat (k.g ra)] }
    ∧ exec (.pmovFrom c e rd x) s = out (sysWord e 7 rd 0 x.toNat) { OpEff.nil with early := [.g rd.toNat (k.ptr x.toNat)] }
    ∧ ((k.g ra).p = false →
        exec (.vcfg c e rd ra t) s = out (sysWord e 8 rd ra t.toNat) { OpEff.nil with early := cfg (k.g ra).v (t.setWidth 32) })
    ∧ ((k.g ra).p = false → (k.g rt).p = false →
        exec (.vcfgr c e rd ra rt) s = out (sysWord e 9 rd ra rt.toNat) { OpEff.nil with early := cfg (k.g ra).v (k.g rt).v })

/-- R81 to R93, Table 4-2: the complex multiply-accumulate operations. A component is reduced to 40 bits, clamped where
PSW.SAT is set; the accumulator's tag is the OR of the tags of what entered it. -/
def Obligations.MultiplyAccumulate : Prop :=
  ∀ (s : State) (c : Fin 64) (e : Bool) (k : BitVec 3) (ra rb : BitVec 5), s.Ready c →
    let x := s.core c
    let re (w : Word) : Int := (w.setWidth 16).toInt
    let im (w : Word) : Int := ((w >>> 16).setWidth 16).toInt
    let a := x.g ra
    let b := x.g rb
    let z := x.ac k
    let fit (v : Int) : BitVec 40 :=
      BitVec.ofInt 40 (if x.psw.getLsbD 9 then max (-(2 ^ 39)) (min (2 ^ 39 - 1) v) else v)
    let out (func : Nat) (r i : Int) (p : Bool) : Host.Outcome State Fault Refusal :=
      .next (s.gave c e 2 (cmacWord e func k ra rb) { OpEff.nil with early := [.acc k.toNat ⟨fit r, fit i, p⟩] })
    let pr := re a.v * re b.v - im a.v * im b.v
    let pi := re a.v * im b.v + im a.v * re b.v
    let jr := re a.v * re b.v + im a.v * im b.v
    let ji := im a.v * re b.v - re a.v * im b.v
    let p := a.p || b.p
    exec (.cmul c e k ra rb) s = out 0 pr pi p
    ∧ exec (.cmulj c e k ra rb) s = out 1 jr ji p
    ∧ exec (.cmac c e k ra rb) s = out 2 (z.re.toInt + pr) (z.im.toInt + pi) (p || z.p)
    ∧ exec (.cmacj c e k ra rb) s = out 3 (z.re.toInt + jr) (z.im.toInt + ji) (p || z.p)
    ∧ exec (.cmsub c e k ra rb) s = out 4 (z.re.toInt - pr) (z.im.toInt - pi) (p || z.p)
    ∧ exec (.cmsubj c e k ra rb) s = out 5 (z.re.toInt - jr) (z.im.toInt - ji) (p || z.p)
    ∧ exec (.dmac c e k ra rb) s
        = out 6 (z.re.toInt + re a.v * re b.v) (z.im.toInt + im a.v * im b.v) (p || z.p)

/-- R87, R89, R90, R92, R93: the operations on one accumulator and between accumulators and general registers. -/
def Obligations.AccumulatorOperations : Prop :=
  ∀ (s : State) (c : Fin 64) (e im : Bool) (d k b : BitVec 3) (gd gs sh : BitVec 5), s.Ready c →
    let x := s.core c
    let z := x.ac k
    let y := x.ac b
    let g := x.g gs
    let fit (v : Int) : BitVec 40 :=
      BitVec.ofInt 40 (if x.psw.getLsbD 9 then max (-(2 ^ 39)) (min (2 ^ 39 - 1) v) else v)
    let n : Int := (g.v.setWidth 6).toInt
    let shift (v : Int) : Int := if 0 ≤ n then v * 2 ^ n.toNat else v / 2 ^ (-n).toNat
    let out (w : Word) (l : List Wb) : Host.Outcome State Fault Refusal := .next (s.gave c e 2 w { OpEff.nil with early := l })
    let v := (if im then z.im.toInt else z.re.toInt) / 2 ^ sh.toNat
    let mfa (part : AccPart) (w : Word) : Prop := exec (.mfa c e gd k part) s
      = out (maccWord e 6 0 k.toNat 0 gd.toNat (partCode part) 0 0) [.g gd.toNat ⟨w, z.p⟩]
    let mta (part : AccPart) (r : Acc) : Prop := exec (.mta c e k part gs) s
      = out (maccWord e 7 k.toNat 0 0 gs.toNat (partCode part) 0 0) [.acc k.toNat r]
    exec (.aclr c e k) s = out (maccWord e 0 k.toNat 0 0 0 0 0 0) [.acc k.toNat ⟨0, 0, false⟩]
    ∧ exec (.cspla c e d k b) s = out (maccWord e 1 d.toNat k.toNat b.toNat 0 0 0 0)
        [.acc d.toNat ⟨fit (z.re.toInt + y.re.toInt), fit (z.im.toInt - y.im.toInt), z.p || y.p⟩]
    ∧ exec (.csplb c e d k b) s = out (maccWord e 2 d.toNat k.toNat b.toNat 0 0 0 0)
        [.acc d.toNat ⟨fit (z.im.toInt + y.im.toInt), fit (y.re.toInt - z.re.toInt), z.p || y.p⟩]
    ∧ exec (.norm c e k gs) s = out (maccWord e 3 k.toNat 0 0 gs.toNat 0 0 0)
        [.acc k.toNat ⟨fit (shift z.re.toInt), fit (shift z.im.toInt), z.p || g.p⟩]
    ∧ exec (.ext c e gd k im sh) s = out (maccWord e 4 0 k.toNat 0 gd.toNat 0 (b2n im) sh.toNat)
        [.g gd.toNat ⟨BitVec.ofInt 32 (max (-(2 ^ 31)) (min (2 ^ 31 - 1) v)), z.p⟩]
    ∧ exec (.exp c e gd k) s = out (maccWord e 5 0 k.toNat 0 gd.toNat 0 0 0)
        [.g gd.toNat ⟨BitVec.ofInt 32 ((min (signRun 38 z.re.toNat) (signRun 38 z.im.toNat) : Nat) - 8), z.p⟩]
    ∧ mfa .rl (z.re.setWidth 32) ∧ mfa .rh (((z.re >>> 32).setWidth 8).signExtend 32)
    ∧ mfa .il (z.im.setWidth 32) ∧ mfa .ih (((z.im >>> 32).setWidth 8).signExtend 32)
    ∧ mta .rl ⟨(z.re >>> 32).setWidth 8 ++ g.v, z.im, g.p⟩ ∧ mta .rh ⟨g.v.setWidth 8 ++ z.re.setWidth 32, z.im, z.p || g.p⟩
    ∧ mta .il ⟨z.re, (z.im >>> 32).setWidth 8 ++ g.v, z.p || g.p⟩ ∧ mta .ih ⟨z.re, g.v.setWidth 8 ++ z.im.setWidth 32, z.p || g.p⟩
/-- R96, R56, R57, R138: a scalar load through an untagged pointer. From the core's own PM or DM the bytes arrive with the next
bundle, extended to a word, a doubleword in the pair rd, rd + 1; outside, the request leaves with the bundle and the parts
wait for its response. The pointer is updated either way.
The model's own choices in it: log 14. -/
def Obligations.ScalarLoads : Prop :=
  ∀ (s : State) (c : Fin 64) (e : Bool) (rd : BitVec 5) (pk : BitVec 3) (m : MemMode), s.Ready c →
    let x := s.core c
    let a := x.address pk m
    (x.ptr pk.toNat).p = false →
    let word (b : List PByte) (k : Nat) : Nat := ofBytesLE ((b.drop k).take 4 |>.map (·.1))
    let load (type size : Nat) (signed : Bool) (i : Instr) (f : List PByte → List Wb) : Prop :=
      let up := wbPtr pk (x.update pk m (Nat.log2 size))
      let q : Req := { write := false, addr := a, size := size, data := [] }
      (∀ pm off, s.reach c false a.toNat size false = .own pm off →
        exec i s = .next (s.gave c e 0 (memWord e false type rd pk m)
          { OpEff.nil with
            early := up, late := f (s.ownRead c pm off size).1, reads := (s.ownRead c pm off size).2
            accs := [(pm, off, false)], stall := scalarStall pm off size }))
      ∧ (s.reach c false a.toNat size false = .remote →
        exec i s = .next (s.gave c e 0 (memWord e false type rd pk m)
          { OpEff.nil with
            early := up, reqs := [q]
            parts := [{ req := q, rd := rd.toNat, isVec := false, bit := 0, signed := signed, keep := [] }] }))
    load 0 1 true (.ldb c e rd pk m) (fun b => [.g rd.toNat ⟨(BitVec.ofNat 8 (word b 0)).signExtend 32, b.any (·.2)⟩])
    ∧ load 1 1 false (.ldbu c e rd pk m) (fun b => [.g rd.toNat ⟨BitVec.ofNat 32 (word b 0), b.any (·.2)⟩])
    ∧ load 2 2 true (.ldh c e rd pk m) (fun b => [.g rd.toNat ⟨(BitVec.ofNat 16 (word b 0)).signExtend 32, b.any (·.2)⟩])
    ∧ load 3 2 false (.ldhu c e rd pk m) (fun b => [.g rd.toNat ⟨BitVec.ofNat 32 (word b 0), b.any (·.2)⟩])
    ∧ load 4 4 false (.ld c e rd pk m) (fun b => [.g rd.toNat ⟨BitVec.ofNat 32 (word b 0), b.any (·.2)⟩])
    ∧ (rd.toNat % 2 = 0 → load 5 8 false (.ldd c e rd pk m) (fun b =>
        [.g rd.toNat ⟨BitVec.ofNat 32 (word b 0), (b.take 4).any (·.2)⟩,
         .g (rd.toNat + 1) ⟨BitVec.ofNat 32 (word b 4), (b.drop 4).any (·.2)⟩]))

/-- R47, R434: a scalar load, whichever it is, that the ridge's check refuses never leaves the core: its registers receive zeros with the next
bundle, ACCESS_ERROR waits at the boundary with the address, and the ridge records the first error, once, by its lead core.
The model's own choices in it: log 14. -/
def Obligations.RefusedLoad : Prop :=
  ∀ (s : State) (c : Fin 64) (rd : BitVec 5) (pk : BitVec 3) (m : MemMode) (kind : Nat), s.Ready c →
    let x := s.core c
    let a := x.address pk m
    (x.ptr pk.toNat).p = false → s.isLead c = true →
    (s.ridge x.ridge).aeValid = false → (∀ w, s.memSyn (0x40 + c) w = 0) → s.fcu.injArm = false →
    let zero (k : Nat) : Wb := .g (rd.toNat + k) ⟨0, false⟩
    let refused (size : Nat) (i : Instr) (late : List Wb) : Prop :=
      s.reach c false a.toNat size false = .refused kind →
      ∃ t, exec i s = .next t ∧ (t.core c).aerr = some a ∧ (t.core c).late = late
        ∧ (t.ridge x.ridge).aeValid = true ∧ (t.ridge x.ridge).aeKind = kind ∧ (t.ridge x.ridge).aeAddr = a
        ∧ (t.ridge x.ridge).aeWrite = false ∧ (t.ridge x.ridge).aeCount = 0
        ∧ (∀ k, k ≠ c.val → t.core k = s.core k) ∧ (∀ r, r ≠ x.ridge → t.ridge r = s.ridge r) ∧ t.mem = s.mem
    refused 1 (.ldb c true rd pk m) [zero 0] ∧ refused 1 (.ldbu c true rd pk m) [zero 0]
    ∧ refused 2 (.ldh c true rd pk m) [zero 0] ∧ refused 2 (.ldhu c true rd pk m) [zero 0]
    ∧ refused 4 (.ld c true rd pk m) [zero 0] ∧ (rd.toNat % 2 = 0 → refused 8 (.ldd c true rd pk m) [zero 0, zero 1])

/-- R88, R93, R94, R138: a scalar store through an untagged pointer hands its bytes, each with the register's tag, to the core's
own memory when the bundle ends; SB and SH to DM go through the merge buffer; SHS and SCS clamp to halfwords. Outside its own
memories each of them sends one request with its bytes. PADD updates the pointer and accesses nothing.
The model's own choices in it: log 14. -/
def Obligations.ScalarStores : Prop :=
  ∀ (s : State) (c : Fin 64) (e : Bool) (rs rt : BitVec 5) (pk : BitVec 3) (m : MemMode), s.Ready c →
    let x := s.core c
    let a := x.address pk m
    let clamp (v : Word) : Nat := (BitVec.ofInt 16 (max (-(2 ^ 15)) (min (2 ^ 15 - 1) v.toInt))).toNat
    let bytes (size n : Nat) (p : Bool) : List PByte := (bytesLE size n).map fun b => (b, p)
    let r := x.g rs
    let q := x.g rt
    let own (w : Word) (i : Instr) (mode : MemMode) (data : List PByte) : Prop :=
      ∀ pm off, s.reach c true (x.address pk mode).toNat data.length false = .own pm off →
        exec i s = .next (s.gave c e 0 w
          { OpEff.nil with
            early := wbPtr pk (x.update pk mode (Nat.log2 data.length))
            stores := [{ pm := pm, off := off, data := data, narrow := !pm && decide (data.length < 4) }]
            accs := [(pm, off, true)], stall := scalarStall pm off data.length })
    let far (w : Word) (i : Instr) (data : List PByte) : Prop :=
      s.reach c true a.toNat data.length false = .remote →
        exec i s = .next (s.gave c e 0 w
          { OpEff.nil with early := wbPtr pk (x.update pk m (Nat.log2 data.length))
                           reqs := [{ write := true, addr := a, size := data.length, data := data }] })
    ((x.ptr pk.toNat).p = false →
      own (memWord e true 0 rs pk m) (.sb c e rs pk m) m (bytes 1 r.v.toNat r.p)
      ∧ own (memWord e true 1 rs pk m) (.sh c e rs pk m) m (bytes 2 r.v.toNat r.p)
      ∧ own (memWord e true 2 rs pk m) (.st c e rs pk m) m (bytes 4 r.v.toNat r.p)
      ∧ (rs.toNat % 2 = 0 → own (memWord e true 3 rs pk m) (.std c e rs pk m) m
          (bytes 4 r.v.toNat r.p ++ bytes 4 (x.g (rs + 1)).v.toNat (x.g (rs + 1)).p))
      ∧ own (memWord e true 4 rs pk m) (.shs c e rs pk m) m (bytes 2 (clamp r.v) r.p)
      ∧ (m.fitsScs = true → own (scsWord e rs rt pk m) (.scs c e rs rt pk m) m
          (bytes 4 (clamp r.v + clamp q.v * 65536) (r.p || q.p)))
      ∧ far (memWord e true 0 rs pk m) (.sb c e rs pk m) (bytes 1 r.v.toNat r.p)
      ∧ far (memWord e true 1 rs pk m) (.sh c e rs pk m) (bytes 2 r.v.toNat r.p)
      ∧ far (memWord e true 2 rs pk m) (.st c e rs pk m) (bytes 4 r.v.toNat r.p)
      ∧ (rs.toNat % 2 = 0 → far (memWord e true 3 rs pk m) (.std c e rs pk m)
          (bytes 4 r.v.toNat r.p ++ bytes 4 (x.g (rs + 1)).v.toNat (x.g (rs + 1)).p))
      ∧ far (memWord e true 4 rs pk m) (.shs c e rs pk m) (bytes 2 (clamp r.v) r.p)
      ∧ (m.fitsScs = true → far (scsWord e rs rt pk m) (.scs c e rs rt pk m)
          (bytes 4 (clamp r.v + clamp q.v * 65536) (r.p || q.p))))
    ∧ (m.updates = true →
        exec (.padd c e pk m) s = .next (s.gave c e 0 (memWord e false 7 0 pk m)
          { OpEff.nil with early := wbPtr pk (x.update pk m 0) }))

/-- R97, R98, R99: the pointer after an access in each mode. With an offset it is unchanged; a post-modification adds m_k or the
immediate s; a circular update of step s, m_k or the immediate, makes the one correction of R97, and where its pointer starts in
[b, b + l), l is not 0, b + l lies below 2^31 and s is at most l and at most b in magnitude, it stays in that range at the same
place modulo l; a bit-reversed update adds m_k to the offset o from b with the carry running from bit k - 1 down to bit z, k the
highest set bit of l and z the log2 of the access size, and is linear where l is 0 or k is at most z. The tag of the updated pointer
is the OR of the tags of all the registers it came from. -/
def Obligations.PointerUpdates : Prop :=
  ∀ (x : Core) (pk i : BitVec 3) (o : BitVec 12) (z : Nat),
    let p := x.ptr pk.toNat
    let mk := x.ptr (8 + i.toNat)
    let b := x.ptr (16 + pk.toNat)
    let l := x.ptr (24 + pk.toNat)
    let circ (mode : MemMode) (step : TW) : Prop :=
      let q := p.v + step.v
      (b.v.toNat + l.v.toNat < 2 ^ 32 → x.update pk mode z = some
        ⟨if l.v = 0 then q else if b.v + l.v ≤ q then q - l.v else if q < b.v then q + l.v else q, p.p || step.p || b.p || l.p⟩)
      ∧ (l.v ≠ 0 → b.v.toNat + l.v.toNat < 2 ^ 31 → b.v.toNat ≤ p.v.toNat → p.v.toNat < b.v.toNat + l.v.toNat →
        step.v.toInt.natAbs ≤ l.v.toNat → step.v.toInt.natAbs ≤ b.v.toNat →
        ∃ q, x.update pk mode z = some q ∧ b.v.toNat ≤ q.v.toNat ∧ q.v.toNat < b.v.toNat + l.v.toNat
          ∧ (q.v.toNat : Int) % l.v.toNat = ((p.v.toNat : Int) + step.v.toInt) % l.v.toNat
          ∧ q.p = (p.p || step.p || b.p || l.p))
    let k := Nat.log2 l.v.toNat
    let rev (w : Word) : Nat := ((List.range (k - z)).map fun t => if w.getLsbD (k - 1 - t) then 2 ^ t else 0).sum
    x.update pk (.imm o) z = none
    ∧ x.update pk (.postMod i) z = some ⟨p.v + mk.v, p.p || mk.p⟩
    ∧ x.update pk (.postImm o) z = some ⟨p.v + o.signExtend 32, p.p⟩
    ∧ circ (.circMod i) mk ∧ circ (.circImm o) ⟨o.signExtend 32, false⟩
    ∧ ∃ q, x.update pk (.brev i) z = some q ∧ q.p = (p.p || mk.p || b.p || l.p)
      ∧ (l.v = 0 ∨ k ≤ z → q.v = p.v + mk.v)
      ∧ (l.v ≠ 0 → z < k → rev (q.v - b.v) = (rev (p.v - b.v) + rev mk.v) % 2 ^ (k - z)
        ∧ ∀ j, j < z ∨ k ≤ j → (q.v - b.v).getLsbD j = (p.v - b.v).getLsbD j)

/-- R109, R112, Table 5-4: the element operations of the V slot on two vector registers, at the width of VTYPE: what each
active element's exact result is. Those that multiply, narrow or widen need a width below 32. -/
def Obligations.VectorElementOperations : Prop :=
  ∀ (s : State) (c : Fin 64) (e m : Bool) (vd va vb : BitVec 5), s.Ready c → (s.core c).vinv = false →
    let x := s.core c
    let w := x.ew
    let rnd := roundShift x.vxrm
    let out (func : Nat) (f : Int → Int → Int) : Host.Outcome State Fault Refusal :=
      .next (s.gave c e 5 (vopWord e func false vd va vb m) (x.vec2 vd va vb m fun a b => (f a b, false)))
    let sat (func : Nat) (f : Int → Int → Int) : Host.Outcome State Fault Refusal :=
      .next (s.gave c e 5 (vopWord e func false vd va vb m)
        (x.vec2 vd va vb m fun a b =>
          (max (-(2 ^ (w - 1))) (min (2 ^ (w - 1) - 1) (f a b)), max (-(2 ^ (w - 1))) (min (2 ^ (w - 1) - 1) (f a b)) != f a b)))
    let bits (func : Nat) (f : Nat → Nat → Nat) : Host.Outcome State Fault Refusal :=
      .next (s.gave c e 5 (vopWord e func false vd va vb m)
        (x.vecMap vd m ((x.v va).t ||| (x.v vb).t) fun i => ((f (elemN (x.v va).v w i) (elemN (x.v vb).v w i) : Nat), false)))
    exec (.vadd c e vd va vb m) s = out 0x00 (fun a b => a + b)
    ∧ exec (.vsub c e vd va vb m) s = out 0x01 (fun a b => a - b)
    ∧ exec (.vadds c e vd va vb m) s = sat 0x02 (fun a b => a + b)
    ∧ exec (.vsubs c e vd va vb m) s = sat 0x03 (fun a b => a - b)
    ∧ exec (.vaddh c e vd va vb m) s = out 0x04 (fun a b => rnd (a + b) 1)
    ∧ exec (.vsubh c e vd va vb m) s = out 0x05 (fun a b => rnd (a - b) 1)
    ∧ (x.vew ≠ 2 → exec (.vmul c e vd va vb m) s = out 0x06 (fun a b => a * b))
    ∧ (x.vew ≠ 2 → exec (.vmulq c e vd va vb m) s = sat 0x07 (fun a b => rnd (a * b) (w - 1)))
    ∧ exec (.vand c e vd va vb m) s = bits 0x0F (fun a b => a &&& b)
    ∧ exec (.vor c e vd va vb m) s = bits 0x10 (fun a b => a ||| b)
    ∧ exec (.vxor c e vd va vb m) s = bits 0x11 (fun a b => a ^^^ b)
    ∧ exec (.vmin c e vd va vb m) s = out 0x12 min
    ∧ exec (.vmax c e vd va vb m) s = out 0x13 max

/-- R109, R113, Table 5-4: the shifts, the accumulating and narrowing operations, the compares, the selection, the moves and the
sum of the V slot complete, and when their results land each active element holds what the table gives and every other element
keeps what it held; no other v register, no general register but that of VEXT0, and no accumulator changes. -/
def Obligations.VectorOtherOperations : Prop :=
  ∀ (s : State) (c : Fin 64) (e m g : Bool) (vd va vb : BitVec 5), s.Ready c → (s.core c).vinv = false →
    (s.core c).vl ≤ 256 / (s.core c).ew →
    let x := s.core c
    let w := x.ew
    let a := (x.v va).v
    let b := (x.v vb).v
    let gs := (x.g vb).v.toNat
    let clamp (w : Nat) (z : Int) : Int := max (-(2 ^ (w - 1))) (min (2 ^ (w - 1) - 1) z)
    let on (m : Bool) (i : Nat) : Bool := decide (i < x.vl) && (!m || (x.v 0).v.getLsbD i)
    let runs (i : Instr) (word : Word) (f : Core → Prop) : Prop :=
      ∃ o, exec i s = .next (s.gave c e 5 word o) ∧ o.trap = none ∧ o.early = [] ∧ o.stores = [] ∧ o.reqs = []
        ∧ f (x.landAll o.late) ∧ (x.landAll o.late).acc = x.acc
        ∧ (∀ r, r ≠ vd → r ≠ vd + 1 → (x.landAll o.late).v r = x.v r)
        ∧ (∀ r, r ≠ vd → (x.landAll o.late).g r = x.g r)
    let vec (i : Instr) (word : Word) (m : Bool) (f : Nat → Int) : Prop :=
      runs i word fun y => (∀ k, k < 256 / w → elemN (y.v vd).v w k = if on m k then wrapN w (f k) else elemN (x.v vd).v w k)
        ∧ y.v (vd + 1) = x.v (vd + 1) ∧ y.g vd = x.g vd
    let shift (i : Instr) (func : Nat) (f : Nat → Nat → Int) : Prop :=
      vec i (vopWord e func g vd va vb m) m fun k => f (elemN a w k) (if g then gs % w else elemN b w k % w)
    let cmp (i : Instr) (func : Nat) (f : Int → Int → Bool) : Prop :=
      runs i (vopWord e func false vd va vb m) fun y => ∀ k, k < 256 → (y.v vd).v.getLsbD k
        = if on m k then f (elemZ a w k) (elemZ b w k) else (x.v vd).v.getLsbD k
    let wide (y : Core) (r : BitVec 5) (k : Nat) : Nat :=
      if k < 128 / w then elemN (y.v r).v (2 * w) k else elemN (y.v (r + 1)).v (2 * w) (k - 128 / w)
    shift (.vshrr c e vd va g vb m) 0x0B (fun n d => roundShift x.vxrm (signedN w n) d)
    ∧ shift (.vshl c e vd va g vb m) 0x0C (fun n d => (n * 2 ^ d : Nat))
    ∧ shift (.vshr c e vd va g vb m) 0x0D (fun n d => (n / 2 ^ d : Nat))
    ∧ shift (.vshra c e vd va g vb m) 0x0E (fun n d => signedN w n / 2 ^ d)
    ∧ (x.vew ≠ 2 → vec (.vmacq c e vd va vb m) (vopWord e 0x08 false vd va vb m) m fun k =>
        clamp w (elemZ (x.v vd).v w k + roundShift x.vxrm (elemZ a w k * elemZ b w k) (w - 1)))
    ∧ (x.vew ≠ 2 → vd.toNat % 2 = 0 → runs (.vmacw c e vd va vb m) (vopWord e 0x09 false vd va vb m) fun y =>
        ∀ k, k < 256 / w → wide y vd k = if on m k then
          wrapN (2 * w) (clamp (2 * w) (signedN (2 * w) (wide x vd k) + elemZ a w k * elemZ b w k)) else wide x vd k)
    ∧ (x.vew ≠ 2 → va.toNat % 2 = 0 → vec (.vnarrow c e vd va vb m) (vopWord e 0x0A true vd va vb m) m fun k =>
        clamp w (roundShift x.vxrm (signedN (2 * w) (wide x va k)) (gs % (2 * w))))
    ∧ cmp (.vcmpeq c e vd va vb m) 0x14 (fun a b => decide (a = b))
    ∧ cmp (.vcmplt c e vd va vb m) 0x15 (fun a b => decide (a < b))
    ∧ cmp (.vcmple c e vd va vb m) 0x16 (fun a b => decide (a ≤ b))
    ∧ vec (.vsel c e vd va vb false) (vopWord e 0x17 false vd va vb false) false
        (fun k => if (x.v 0).v.getLsbD k then elemZ b w k else elemZ a w k)
    ∧ vec (.vsplat c e vd vb m) (vopWord e 0x18 true vd 0 vb m) m (fun _ => gs)
    ∧ runs (.vins0 c e vd vb m) (vopWord e 0x19 true vd 0 vb m) (fun y => ∀ k, k < 256 / w →
        elemN (y.v vd).v w k = if k = 0 ∧ on m 0 = true then wrapN w gs else elemN (x.v vd).v w k)
    ∧ runs (.vext0 c e vd va m) (vopWord e 0x1A false vd va 0 m) (fun y => y.v vd = x.v vd ∧
        ((on m 0 = true → vd ≠ 0 → (y.g vd).v = BitVec.ofInt 32 (elemZ a w 0)) ∧ (on m 0 = false ∨ vd = 0 → y.g vd = x.g vd)))
    ∧ vec (.vmovup c e vd va vb m) (vopWord e 0x1B true vd va vb m) m (fun k => if k = 0 then gs else elemZ a w (k - 1))
    ∧ vec (.vmovdn c e vd va vb m) (vopWord e 0x1C true vd va vb m) m
        (fun k => if k + 1 = x.vl then gs else elemZ a w (k + 1))
    ∧ (x.vew ≠ 2 → runs (.vsumw c e vd va vb m) (vopWord e 0x1D false vd va vb m) fun y =>
        ∀ k, k < 8 → elemN (y.v vd).v 32 k = if k = 0 ∧ ((List.range x.vl).any (on m)) = true then
          wrapN 32 (clamp 32 (((List.range x.vl).filter (on m)).foldl (fun z i => z + elemZ a w i) (elemZ b 32 0)))
          else elemN (x.v vd).v 32 k)

/-- R109, R121: when an element operation's result lands, each active element holds the low bits of its exact value and every
other bit of the register keeps what it held; a lane that no active element touches keeps its tag, and one whose bits are all
written takes the tags of its sources. -/
def Obligations.VectorResultLands : Prop :=
  ∀ (x : Core) (vd : BitVec 5) (m : Bool) (src : Byte) (f : Nat → Int × Bool),
    x.vl ≤ 256 / x.ew → x.maskPoison m = false →
    let w := x.ew
    let y := x.landAll (x.vecMap vd m src f).late
    let on (i : Nat) : Prop := i < x.vl ∧ (m = true → (x.v 0).v.getLsbD i = true)
    (∀ i, i < 256 / w → on i → elemN (y.v vd).v w i = wrapN w (f i).1)
    ∧ (∀ i, i < 256 / w → ¬ on i → elemN (y.v vd).v w i = elemN (x.v vd).v w i)
    ∧ (∀ j, j < 8 → (∀ i, w * i / 32 = j → ¬ on i) → (y.v vd).t.getLsbD j = (x.v vd).t.getLsbD j)
    ∧ (∀ j, j < 8 → (∀ i, w * i / 32 = j → on i) → (y.v vd).t.getLsbD j = src.getLsbD j)
    ∧ (∀ k, k ≠ vd → y.v k = x.v k)
    ∧ y.gr = x.gr ∧ y.acc = x.acc ∧ y.psw = x.psw
    ∧ (y.vxsat = true ↔ x.vxsat = true ∨ ∃ i, on i ∧ (f i).2 = true)

/-- R109, R114, R115, R117, R139, Table 5-6: a vector load or store whose pointer, stride, indices and mask carry no tag. From the
core's own PM or DM each active element of a load holds, when the result lands, the bytes at its address, and every other element
keeps what it held; a store hands over each active element's bytes with their lanes' tags, and no others. Strided and indexed
accesses start at VSTART and leave it zero; a unit-stride one updates its pointer. Outside, a unit-stride access sends requests for
all its bytes with the bundle; the first element of a strided or indexed load holds the bundle until it is served, and the elements
of a strided or indexed store are posted in order, each on its own, until eight are, and the bundle is held while one is left.
The model's own choices in it: log 38 (each element's request outside stands in a record of its own: the clauses of held loads and of
posted stores), log 39 (with no active element a strided or indexed access completes at once and leaves VSTART zero). -/
def Obligations.VectorMemoryOperations : Prop :=
  ∀ (s : State) (c : Fin 64) (e m : Bool) (vd vx gs : BitVec 5) (pk : BitVec 3) (mode : VecMode), s.Ready c →
    let x := s.core c
    let w := x.ew
    let size := w / 8
    let p := (x.ptr pk.toNat).v
    x.vinv = false → x.maskPoison m = false → (x.ptr pk.toNat).p = false → x.vl ≤ 256 / w →
    let on (start i : Nat) : Bool := decide (start ≤ i ∧ i < x.vl) && (!m || (x.v 0).v.getLsbD i)
    let unit (i : Nat) : Word := p + BitVec.ofNat 32 (i * size)
    let strided (i : Nat) : Word := p + BitVec.ofNat 32 i * (x.g gs).v
    let indexed (i : Nat) : Word := p + BitVec.ofNat 32 (elemN (x.v vx).v w i)
    let load (i : Instr) (word : Word) (start : Nat) (addr : Nat → Word) (early : List Wb) : Prop :=
      ∀ (pm : Nat → Bool) (off : Nat → Nat), (∀ k, k < x.vl → s.reach c false (addr k).toNat size true = .own (pm k) (off k)) →
        ∃ o, exec i s = .next (s.gave c e 0 word o) ∧ o.trap = none ∧ o.early = early
          ∧ (let f := o.flat o.elems
            let y := x.landAll f.late
            f.stores = [] ∧ f.reqs = [] ∧ (∀ r, r ≠ vd → y.v r = x.v r) ∧ y.gr = x.gr
            ∧ ∀ k, k < 256 / w → elemN (y.v vd).v w k
              = if on start k then ofBytesLE ((s.ownRead c (pm k) (off k) size).1.map (·.1)) else elemN (x.v vd).v w k)
    let store (i : Instr) (word : Word) (start : Nat) (addr : Nat → Word) (early : List Wb) : Prop :=
      ∀ (pm : Nat → Bool) (off : Nat → Nat), (∀ k, k < x.vl → s.reach c true (addr k).toNat size true = .own (pm k) (off k)) →
        ∃ o, exec i s = .next (s.gave c e 0 word o) ∧ o.trap = none ∧ o.early = early
          ∧ (let f := o.flat o.elems
            f.late = [] ∧ f.reqs = []
            ∧ (∀ k j, on start k = true → j < size → ∃ t ∈ f.stores, t.pm = pm k ∧ t.off ≤ off k + j
              ∧ t.data[off k + j - t.off]?
                = some (BitVec.ofNat 8 ((x.v vd).v.toNat / 256 ^ (k * size + j)), (x.v vd).t.getLsbD ((k * size + j) / 4)))
            ∧ ∀ t ∈ f.stores, ∀ i, i < t.data.length → ∃ k j, on start k = true ∧ j < size ∧ t.pm = pm k ∧ t.off + i = off k + j)
    let moved : List Wb := if (List.range x.vl).all (fun k => !on 0 k) then [] else match mode with
      | .base => []
      | .postMod i => wbPtr pk (x.update pk (.postMod i) 0)
      | .postImm o => wbPtr pk (x.update pk (.postImm o) 0)
      | .postVl => [.pf pk.toNat ⟨p + BitVec.ofNat 32 (x.vl * size), false⟩]
    let far (i : Instr) (word : Word) (write : Bool) : Prop :=
      (∀ k, k < x.vl → s.reach c write (unit k).toNat size true = .remote) →
        ∃ o, exec i s = .next (s.gave c e 0 word o) ∧ o.trap = none ∧ o.early = moved ∧ o.late = [] ∧ o.stores = [] ∧ o.elems = []
          ∧ ∀ k j, on 0 k = true → j < size → ∃ q ∈ o.reqs, q.write = write ∧ ∃ n, q.mask[n]? = some true
            ∧ q.addr + BitVec.ofNat 32 n = unit k + BitVec.ofNat 32 j
            ∧ (write = true → q.data[n]?
              = some (BitVec.ofNat 8 ((x.v vd).v.toNat / 256 ^ (k * size + j)), (x.v vd).t.getLsbD ((k * size + j) / 4)))
    let held (i : Instr) (addr : Nat → Word) : Prop :=
      e = true → (s.ridge x.ridge).kind ≠ 1 → x.eSent = false → on x.vstart x.vstart = true →
      (∀ k, k < x.vl → s.reach c false (addr k).toNat size true = .remote) →
        ∃ t q, exec i s = .next t ∧ (t.core c).held = true ∧ q.write = false ∧ q.addr = addr x.vstart ∧ q.size = size
          ∧ ((t.core c).recs.map (·.reqs)) = x.recs.map (·.reqs) ++ [[q]] ∧ (t.core c).vr = x.vr ∧ t.mem = s.mem
    let posts (i : Instr) (addr : Nat → Word) : Prop :=
      e = true → (s.ridge x.ridge).kind ≠ 1 → (∀ w, s.memSyn (0x40 + c) w = 0) → s.fcu.injArm = false →
      (∀ k, k < x.vl → s.reach c true (addr k).toNat size true = .remote) →
        let acts := (List.range x.vl).filter (on x.vstart)
        ∃ t, exec i s = .next t ∧ (t.core c).held = decide (8 < acts.length) ∧ t.mem = s.mem
          ∧ (∃ q : Nat → Req, (∀ k, (q k).write = true ∧ (q k).addr = addr k ∧ (q k).size = size
              ∧ (∀ j, j < size → (q k).data[j]? = some (BitVec.ofNat 8 ((x.v vd).v.toNat / 256 ^ (k * size + j)),
                  (x.v vd).t.getLsbD ((k * size + j) / 4))))
            ∧ ((t.core c).recs.map (·.reqs)) = x.recs.map (·.reqs) ++ (acts.take 8).map (fun k => [q k])
                ++ (if acts.length ≤ 8 then [[]] else []))
          ∧ (acts.length ≤ 8 → (t.core c).vstart = 0 ∧ (t.core c).pc = x.pc + 4)
    let zero : List Wb := [.creg 0x22 0]
    let ls := vlsWord e false vd pk mode m
    let ss := vlsWord e true vd pk mode m
    let xw (st ix : Bool) (r : BitVec 5) : Word := vlxWord e st ix vd pk r m
    load (.vld c e vd pk mode m) ls 0 unit moved ∧ store (.vst c e vd pk mode m) ss 0 unit moved
    ∧ far (.vld c e vd pk mode m) ls false ∧ far (.vst c e vd pk mode m) ss true
    ∧ ((x.g gs).p = false → load (.vlds c e vd pk gs m) (xw false false gs) x.vstart strided zero
      ∧ store (.vsts c e vd pk gs m) (xw true false gs) x.vstart strided zero ∧ held (.vlds c e vd pk gs m) strided
      ∧ posts (.vsts c e vd pk gs m) strided)
    ∧ ((x.v vx).t = 0 → load (.vldx c e vd pk vx m) (xw false true vx) x.vstart indexed zero
      ∧ store (.vstx c e vd pk vx m) (xw true true vx) x.vstart indexed zero ∧ held (.vldx c e vd pk vx m) indexed
      ∧ posts (.vstx c e vd pk vx m) indexed)

/-- R103, R141, R142: the scalar floating-point operations. Arithmetic is exact on the values read and rounded once; a result
fills the whole v register that its f register overlays; comparisons and conversions to integers write a general register.
The model's own choices in it: log 28. -/
def Obligations.FloatingPoint : Prop :=
  ∀ (s : State) (c : Fin 64) (e : Bool) (d a b k : BitVec 5), s.Ready c →
    let x := s.core c
    let fa := x.f a
    let fb := x.f b
    let fc := x.f k
    let ga := x.g a
    let out (func : Nat) (b k : BitVec 5) (l : List Wb) : Host.Outcome State Fault Refusal :=
      .next (s.gave c e 5 (fopWord e func d a b k) { OpEff.nil with early := l })
    let toF (v : Word) (p : Bool) : List Wb := [wbF d ⟨v, p⟩]
    let toG (v : Word) (p : Bool) : List Wb := [.g d.toNat ⟨v, p⟩]
    let p := fa.p || fb.p
    let cmp (f : Int → Int → Bool) : Word :=
      if fRead fa.v = .nan ∨ fRead fb.v = .nan then 0 else if f (fScale (fRead fa.v)) (fScale (fRead fb.v)) then 1 else 0
    exec (.fadd c e d a b) s = out 0x00 b 0 (toF (fRound (fSum (fRead fa.v) (fRead fb.v))) p)
    ∧ exec (.fsub c e d a b) s = out 0x01 b 0 (toF (fRound (fSum (fRead fa.v) (fNeg (fRead fb.v)))) p)
    ∧ exec (.fmul c e d a b) s = out 0x02 b 0 (toF (fRound (fProd (fRead fa.v) (fRead fb.v))) p)
    ∧ exec (.fmadd c e d a b k) s
        = out 0x03 b k (toF (fRound (fSum (fProd (fRead fa.v) (fRead fb.v)) (fRead fc.v))) (p || fc.p))
    ∧ exec (.fmsub c e d a b k) s
        = out 0x04 b k (toF (fRound (fSum (fProd (fRead fa.v) (fRead fb.v)) (fNeg (fRead fc.v)))) (p || fc.p))
    ∧ exec (.fmin c e d a b) s = out 0x05 b 0 (toF (fRound (fPick false (fRead fa.v) (fRead fb.v))) p)
    ∧ exec (.fmax c e d a b) s = out 0x06 b 0 (toF (fRound (fPick true (fRead fa.v) (fRead fb.v))) p)
    ∧ exec (.fabs c e d a) s = out 0x07 0 0 (toF (fa.v &&& 0x7FFFFFFF) fa.p)
    ∧ exec (.fneg c e d a) s = out 0x08 0 0 (toF (fa.v ^^^ 0x80000000) fa.p)
    ∧ exec (.fitof c e d a) s = out 0x09 0 0 (toF (if ga.v = 0 then 0 else fRound (.num ga.v.toInt 0)) ga.p)
    ∧ exec (.fftoi c e d a) s = out 0x0A 0 0 (toG (fToInt (fRead fa.v)) fa.p)
    ∧ exec (.fsetb c e d a) s = out 0x0B 0 0 (toF ga.v ga.p)
    ∧ exec (.fgetb c e d a) s = out 0x0C 0 0 (toG fa.v fa.p)
    ∧ exec (.fcmpeq c e d a b) s = out 0x0D b 0 (toG (cmp fun i j => decide (i = j)) p)
    ∧ exec (.fcmplt c e d a b) s = out 0x0E b 0 (toG (cmp fun i j => decide (i < j)) p)
    ∧ exec (.fcmple c e d a b) s = out 0x0F b 0 (toG (cmp fun i j => decide (i ≤ j)) p)

/-- R142: rounding an exact value. A result that needs no rounding is exact; any other goes to the nearest value of 24 significant
bits, of two equally near ones to the even; NaN is 0x7FC0_0000, a magnitude that is or rounds to 2^128 or more is an
infinity of its sign, and a non-zero magnitude below 2^-126 is a zero of its sign, unless it rounds up to 2^-126.
The model's own choices in it: log 28. -/
def Obligations.FloatRounding : Prop :=
  fRound .nan = 0x7FC00000
  ∧ (∀ neg, fRound (.inf neg) = if neg then 0xFF800000 else 0x7F800000)
  ∧ (∀ m ex : Int, m ≠ 0 → m.natAbs ≤ 2 ^ 24 → -126 ≤ ex + Nat.log2 m.natAbs → ex + Nat.log2 m.natAbs ≤ 127 →
      ∃ k j : Int, fRead (fRound (.num m ex)) = .num k j ∧ Nat.log2 k.natAbs = 23
        ∧ (ex ≤ j → m = k * 2 ^ (j - ex).toNat) ∧ (j ≤ ex → m * 2 ^ (ex - j).toNat = k))
  ∧ (∀ m ex : Int, 2 ^ 24 ≤ m.natAbs → -126 ≤ ex + Nat.log2 m.natAbs → ex + Nat.log2 m.natAbs ≤ 127 →
      let d := Nat.log2 m.natAbs - 23
      ∃ k : Int, 2 * (m - k * 2 ^ d).natAbs ≤ 2 ^ d ∧ (2 * (m - k * 2 ^ d).natAbs = 2 ^ d → k % 2 = 0)
        ∧ 2 ^ 23 ≤ k.natAbs ∧ k.natAbs ≤ 2 ^ 24 ∧ fRound (.num m ex) = fRound (.num k (ex + d)))
  ∧ (∀ m ex : Int, m ≠ 0 → 128 ≤ ex + Nat.log2 m.natAbs → fRound (.num m ex) = if m < 0 then 0xFF800000 else 0x7F800000)
  ∧ (∀ m ex : Int, m ≠ 0 → ex + Nat.log2 m.natAbs < -126 →
      let top := 2 ^ (Nat.log2 m.natAbs + 1)
      let up := decide (ex + Nat.log2 m.natAbs = -127 ∧ (top - m.natAbs) * 2 ^ 25 ≤ top)
      fRound (.num m ex) = if up then (if m < 0 then 0x80800000 else 0x00800000) else if m < 0 then 0x80000000 else 0)

/-- R50 to R53, R56, R60, R94, R100, R154, R156: what a bundle of one operation leaves in a core whose PM holds no error: the results
of the bundle before land, then its own early ones, in order; the pc moves on; a branch target is pending and PSW.DLY says so;
its late results wait; every other core and, without a store, the memories are as they were. The record waits for the comparison,
and in a simplex ridge its stores enter the posted-store queue instead. A store changes the bytes that it names in the core's own
PM or DM, as the core's next load reads them, and no other byte; a narrow store to a word that no merge entry holds, while one of the
two entries is free, enters the merge buffer, and DM is not accessed. The entries of the buffer name words of DM, with tags only of the
bytes that they hold, before and after.
The model's own choices in it: log 4, log 13. -/
def Obligations.BundleOfOneOperation : Prop :=
  ∀ (s : State) (c : Fin 64) (o : OpEff), s.Ready c → (∀ w, s.memSyn (0x40 + c) w = 0) → s.fcu.injArm = false →
    o.reads = [] → o.elems = [] → o.link = false → o.reti = false → o.parts = [] →
    let x := s.core c
    let y := x.landAll (x.due ++ o.early)
    let t := s.ran c o
    let regs : Prop :=
      (t.core c).gr = y.gr ∧ (t.core c).pf = y.pf ∧ (t.core c).acc = y.acc ∧ (t.core c).vr = y.vr
      ∧ (t.core c).epc = y.epc ∧ (t.core c).epsw = y.epsw ∧ (t.core c).vl = y.vl ∧ (t.core c).vxsat = y.vxsat
      ∧ (t.core c).pc = x.pc + 4 ∧ (t.core c).late = o.late ∧ (t.core c).open_ = []
      ∧ (t.core c).pend = o.branch ∧ ((t.core c).psw.getLsbD 10 = o.branch.isSome)
      ∧ (∀ k, k ≠ c.val → t.core k = s.core k) ∧ t.fcu = s.fcu ∧ t.pending = s.pending
    let kept : Prop := regs ∧ (t.core c).merge = x.merge ∧ t.mem = s.mem ∧ t.syn = s.syn
    let posted : Prop := t.ridges = s.ridges
      ∧ ∃ k, (t.core c).recs = x.recs ++ [k] ∧ k.entry = false ∧ k.pc = x.pc ∧ k.reqs = o.reqs ∧ k.accs = o.accs
        ∧ k.wbs = x.landed ++ x.due ++ o.early
    (o.stores = [] → (s.ridge x.ridge).kind ≠ 1 → kept ∧ posted)
    ∧ (o.stores = [] → (s.ridge x.ridge).kind = 1 → (∀ q ∈ o.reqs, q.write = true) → (s.ridge x.ridge).loads = [] →
      kept ∧ (t.core c).recs = x.recs ∧ (t.ridge x.ridge).queue = o.reqs ∧ ∀ r, r ≠ x.ridge → t.ridge r = s.ridge r)
    ∧ (∀ (pm : Bool) (off : Nat) (data : List PByte) (narrow : Bool),
      o.stores = [{ pm := pm, off := off, data := data, narrow := narrow }] → o.reqs = [] → s.streamTo c = [] →
      s.Clean (ownMem c pm) → x.evicted = none → (x.merge.map (·.word)).Nodup → x.MergeOk → off + data.length ≤ (if pm then 98304 else 131072) →
      let stored (a : Nat) : Option PByte := if off ≤ a then data[a - off]? else none
      (∀ a, a < (if pm then 98304 else 131072) →
        (t.ownRead c pm a 1).1.map (·.1) = ((stored a).map fun b => [b.1]).getD ((s.ownRead c pm a 1).1.map (·.1)))
      ∧ (∀ mem a, mem ≠ ownMem c pm → mem < 256 → a < 2 ^ 23 → t.memByte mem a = s.memByte mem a)
      ∧ (pm = true → (t.core c).merge = x.merge)
      ∧ (pm = false → narrow = true → 0 < data.length → off % 4 + data.length < 4 → x.merge.length < 2 →
        (∀ m ∈ x.merge, m.word ≠ off / 4) →
        t.mem = s.mem ∧ t.syn = s.syn ∧ ∃ m, (t.core c).merge = x.merge ++ [m] ∧ m.word = off / 4
          ∧ (∀ i, i < 4 → m.mask.getLsbD i = (stored (off / 4 * 4 + i)).isSome)
          ∧ ∀ i b, i < 4 → stored (off / 4 * 4 + i) = some b → m.byte i = some b)
      ∧ (t.core c).MergeOk ∧ regs ∧ ((s.ridge x.ridge).kind ≠ 1 → posted))

/-- R50, R95: g0 reads zero and discards what is written to it; every other general register reads what landed last. -/
def Obligations.GeneralRegisterWrite : Prop :=
  ∀ (x : Core) (i k : BitVec 5) (v : TW),
    (x.land (.g i.toNat v)).g k = (if k = 0 then ⟨0, false⟩ else if k = i then v else x.g k)
    ∧ (x.land (.g i.toNat v)).psw = x.psw ∧ (x.land (.g i.toNat v)).pf = x.pf ∧ (x.land (.g i.toNat v)).acc = x.acc
    ∧ (x.land (.g i.toNat v)).vr = x.vr

/-- R28, R59, R61, R62, R78, R79, R95, R108, R113, R122, R126, Table 3-9: an operation that cannot run takes the trap of its cause
instead of any effect: TRAP; an odd register of a doubleword or a register pair; a control register that Table 6-6 does not list;
every vector operation while VTYPE.INV is set, and at width 32 those that need a narrower element; a poisoned operand of a
compare-and-branch, jump, loop or write of a control register, VCFG and VCFGR among them, and a poisoned pointer of a load or
store, a stride, a mask or the first index among them; a branch, jump or RETI to an illegal address; a write of PSW.MODE or
EPSW.MODE without PRIV; LOOP at depth 4, with another index than PSW.LD or with an end that lies before its start or outside PM.
The model's own choices in it: log 4, log 39. -/
def Obligations.OperationTraps : Prop :=
  ∀ (s : State) (c : Fin 64) (rd ra rb : BitVec 5) (pk : BitVec 3) (m : MemMode) (imm : BitVec 11) (off : BitVec 25)
    (rel : BitVec 13) (n : Byte) (b : Bool), s.Ready c →
    let x := s.core c
    let trap (i : Instr) (cause : Nat) (ev : Word) : Prop :=
      ∃ o : OpEff, exec i s = .next ((s.setCore c (x.withOpen [o])).enter c cause ev none false)
    let ill (i : Instr) (w : Word) : Prop := trap i 0x82 w
    let poison (i : Instr) (w : Word) : Prop := trap i 0x86 w
    let vop (func : Nat) (g : Bool) (vd va vb : BitVec 5) : Word := vopWord true func g vd va vb b
    -- TRAP, and undefined encodings
    trap (.trap c true imm) 0x88 (imm.setWidth 32)
    ∧ (rd.toNat % 2 = 1 → ill (.ldd c true rd pk m) (memWord true false 5 rd pk m)
      ∧ ill (.std c true rd pk m) (memWord true true 3 rd pk m) ∧ ill (.vmacw c true rd ra rb b) (vop 0x09 false rd ra rb)
      ∧ ill (.vnarrow c true ra rd rb b) (vop 0x0A true ra rd rb))
    ∧ (cregListed n.toNat = false → ill (.movc c true rd n) (sysWord true 4 rd 0 n.toNat)
      ∧ ill (.movs c true n ra) (sysWord true 5 0 ra n.toNat))
    -- vector operations
    ∧ (x.vinv = true →
      ill (.vadd c true rd ra rb b) (vop 0x00 false rd ra rb) ∧ ill (.vsub c true rd ra rb b) (vop 0x01 false rd ra rb)
      ∧ ill (.vadds c true rd ra rb b) (vop 0x02 false rd ra rb) ∧ ill (.vsubs c true rd ra rb b) (vop 0x03 false rd ra rb)
      ∧ ill (.vaddh c true rd ra rb b) (vop 0x04 false rd ra rb) ∧ ill (.vsubh c true rd ra rb b) (vop 0x05 false rd ra rb)
      ∧ ill (.vand c true rd ra rb b) (vop 0x0F false rd ra rb) ∧ ill (.vor c true rd ra rb b) (vop 0x10 false rd ra rb)
      ∧ ill (.vxor c true rd ra rb b) (vop 0x11 false rd ra rb) ∧ ill (.vmin c true rd ra rb b) (vop 0x12 false rd ra rb)
      ∧ ill (.vmax c true rd ra rb b) (vop 0x13 false rd ra rb) ∧ ill (.vcmpeq c true rd ra rb b) (vop 0x14 false rd ra rb)
      ∧ ill (.vcmplt c true rd ra rb b) (vop 0x15 false rd ra rb) ∧ ill (.vcmple c true rd ra rb b) (vop 0x16 false rd ra rb)
      ∧ ill (.vsel c true rd ra rb b) (vop 0x17 false rd ra rb) ∧ ill (.vsplat c true rd rb b) (vop 0x18 true rd 0 rb)
      ∧ ill (.vins0 c true rd rb b) (vop 0x19 true rd 0 rb) ∧ ill (.vext0 c true rd ra b) (vop 0x1A false rd ra 0)
      ∧ ill (.vmovup c true rd ra rb b) (vop 0x1B true rd ra rb) ∧ ill (.vmovdn c true rd ra rb b) (vop 0x1C true rd ra rb)
      ∧ (∀ g, ill (.vshrr c true rd ra g rb b) (vop 0x0B g rd ra rb) ∧ ill (.vshl c true rd ra g rb b) (vop 0x0C g rd ra rb)
        ∧ ill (.vshr c true rd ra g rb b) (vop 0x0D g rd ra rb) ∧ ill (.vshra c true rd ra g rb b) (vop 0x0E g rd ra rb))
      ∧ (∀ mode, ill (.vld c true rd pk mode b) (vlsWord true false rd pk mode b)
        ∧ ill (.vst c true rd pk mode b) (vlsWord true true rd pk mode b))
      ∧ ill (.vlds c true rd pk ra b) (vlxWord true false false rd pk ra b)
      ∧ ill (.vsts c true rd pk ra b) (vlxWord true true false rd pk ra b)
      ∧ ill (.vldx c true rd pk ra b) (vlxWord true false true rd pk ra b)
      ∧ ill (.vstx c true rd pk ra b) (vlxWord true true true rd pk ra b))
    ∧ (x.vinv = true ∨ x.vew = 2 →
      ill (.vmul c true rd ra rb b) (vop 0x06 false rd ra rb) ∧ ill (.vmulq c true rd ra rb b) (vop 0x07 false rd ra rb)
      ∧ ill (.vmacq c true rd ra rb b) (vop 0x08 false rd ra rb) ∧ ill (.vmacw c true rd ra rb b) (vop 0x09 false rd ra rb)
      ∧ ill (.vnarrow c true rd ra rb b) (vop 0x0A true rd ra rb) ∧ ill (.vsumw c true rd ra rb b) (vop 0x1D false rd ra rb))
    -- compare-and-branch, jumps and the return
    ∧ (let target := x.pc + (rel.signExtend 32 <<< 2)
      let u := x.g ra
      let v (signed : Bool) : TW := if b then ⟨if signed then rb.signExtend 32 else rb.setWidth 32, false⟩ else x.g rb
      (targetOk target = true → u.p = true ∨ (v true).p = true →
        poison (.beq c true b ra rb rel) (brWord true b 0 ra rb rel) ∧ poison (.bne c true b ra rb rel) (brWord true b 1 ra rb rel)
        ∧ poison (.blt c true b ra rb rel) (brWord true b 2 ra rb rel) ∧ poison (.bge c true b ra rb rel) (brWord true b 3 ra rb rel)
        ∧ poison (.bltu c true b ra rb rel) (brWord true b 4 ra rb rel)
        ∧ poison (.bgeu c true b ra rb rel) (brWord true b 5 ra rb rel))
      ∧ (targetOk target = false →
        (u.v = (v true).v → trap (.beq c true b ra rb rel) 0x84 target) ∧ (u.v ≠ (v true).v → trap (.bne c true b ra rb rel) 0x84 target)
        ∧ (u.v.toInt < (v true).v.toInt → trap (.blt c true b ra rb rel) 0x84 target)
        ∧ ((v true).v.toInt ≤ u.v.toInt → trap (.bge c true b ra rb rel) 0x84 target)
        ∧ (u.v.toNat < (v false).v.toNat → trap (.bltu c true b ra rb rel) 0x84 target)
        ∧ ((v false).v.toNat ≤ u.v.toNat → trap (.bgeu c true b ra rb rel) 0x84 target))
      ∧ (u.p = true → targetOk u.v = true → poison (.jr c true ra) (jregWord true 0 ra) ∧ poison (.jalr c true ra) (jregWord true 1 ra))
      ∧ (targetOk u.v = false → trap (.jr c true ra) 0x84 u.v ∧ trap (.jalr c true ra) 0x84 u.v)
      ∧ (let far := x.pc + (off.signExtend 32 <<< 2)
        targetOk far = false → trap (.j c true off) 0x84 far ∧ trap (.jal c true off) 0x84 far)
      ∧ (targetOk x.epc = false → trap (.reti c true) 0x84 x.epc)
      ∧ (targetOk x.epc = true → x.epsw.getLsbD 10 = true → targetOk x.etgt = false → trap (.reti c true) 0x84 x.etgt))
    -- loads and stores
    ∧ ((x.ptr pk.toNat).p = true →
      poison (.ldb c true rd pk m) (memWord true false 0 rd pk m) ∧ poison (.ldbu c true rd pk m) (memWord true false 1 rd pk m)
      ∧ poison (.ldh c true rd pk m) (memWord true false 2 rd pk m) ∧ poison (.ldhu c true rd pk m) (memWord true false 3 rd pk m)
      ∧ poison (.ld c true rd pk m) (memWord true false 4 rd pk m)
      ∧ (rd.toNat % 2 = 0 → poison (.ldd c true rd pk m) (memWord true false 5 rd pk m)
        ∧ poison (.std c true rd pk m) (memWord true true 3 rd pk m))
      ∧ poison (.sb c true rd pk m) (memWord true true 0 rd pk m) ∧ poison (.sh c true rd pk m) (memWord true true 1 rd pk m)
      ∧ poison (.st c true rd pk m) (memWord true true 2 rd pk m) ∧ poison (.shs c true rd pk m) (memWord true true 4 rd pk m)
      ∧ poison (.scs c true rd ra pk m) (scsWord true rd ra pk m))
    ∧ (∀ mode, let y := x.landAll x.due
      let size := x.ew / 8
      let p := (x.ptr pk.toNat).v
      let h := (wordOfBytes (s.ownRead c true (y.ivb.toNat + 4 * 0x86) 4).1).1
      let at_ (i : Instr) (w : Word) (write : Bool) (addr : Word) (start : Nat) : Prop :=
        (∀ k, s.reach c write addr.toNat size true ≠ .refused k) → ∃ t, exec i s = .next t ∧ (t.core c).ecause = 0x86
          ∧ (t.core c).eval = w ∧ (t.core c).epc = x.pc ∧ (t.core c).pc = h ∧ (t.core c).vstart = start ∧ (t.core c).gr = y.gr
          ∧ (t.core c).vr = y.vr ∧ (t.core c).pf = y.pf ∧ t.mem = s.mem ∧ ∀ k, k ≠ c.val → t.core k = s.core k
      x.vinv = false → (∀ w, s.memSyn (0x40 + c) w = 0) → s.fcu.injArm = false → y.ivb.toNat + 4 * 0x86 + 4 ≤ 0x18000 →
      h.toNat < 0x18000 → h.toNat % 4 = 0 →
      ((x.ptr pk.toNat).p = true ∨ (b = true ∧ (x.v 0).t.getLsbD 0 = true) →
        at_ (.vld c true rd pk mode b) (vlsWord true false rd pk mode b) false p 0
        ∧ at_ (.vst c true rd pk mode b) (vlsWord true true rd pk mode b) true p 0)
      ∧ ((x.ptr pk.toNat).p = true ∨ (x.g ra).p = true ∨ (b = true ∧ (x.v 0).t.getLsbD 0 = true) →
        let a := p + BitVec.ofNat 32 x.vstart * (x.g ra).v
        at_ (.vlds c true rd pk ra b) (vlxWord true false false rd pk ra b) false a x.vstart
        ∧ at_ (.vsts c true rd pk ra b) (vlxWord true true false rd pk ra b) true a x.vstart)
      ∧ ((x.ptr pk.toNat).p = true ∨ (b = true ∧ (x.v 0).t.getLsbD 0 = true)
          ∨ (x.vstart < x.vl ∧ (b = true → (x.v 0).v.getLsbD x.vstart = true) ∧ (x.v ra).t.getLsbD (x.ew * x.vstart / 32) = true) →
        let a := p + BitVec.ofNat 32 (elemN (x.v ra).v x.ew x.vstart)
        at_ (.vldx c true rd pk ra b) (vlxWord true false true rd pk ra b) false a x.vstart
        ∧ at_ (.vstx c true rd pk ra b) (vlxWord true true true rd pk ra b) true a x.vstart))
    -- control registers
    ∧ ((s.ridge x.ridge).priv = false → (x.g ra).v.getLsbD 4 = true →
      trap (.movs c true 0 ra) 0x83 (sysWord true 5 0 ra 0) ∧ trap (.movs c true 2 ra) 0x83 (sysWord true 5 0 ra 2))
    ∧ ((x.g ra).p = true →
      (cregListed n.toNat = true → ((n = 0 ∨ n = 2) → (s.ridge x.ridge).priv = true ∨ (x.g ra).v.getLsbD 4 = false) →
        poison (.movs c true n ra) (sysWord true 5 0 ra n.toNat))
      ∧ poison (.vcfg c true rd ra imm) (sysWord true 8 rd ra imm.toNat)
      ∧ poison (.vcfgr c true rd ra rb) (sysWord true 9 rd ra rb.toNat)
      ∧ poison (.vcfgr c true rd rb ra) (sysWord true 9 rd rb ra.toNat))
    -- LOOP
    ∧ (∀ (idx : BitVec 2) (cnt : BitVec 12), let w := loopWord true b idx cnt imm
      let count : TW := if b then ⟨cnt.setWidth 32, false⟩ else x.g (cnt.setWidth 5)
      let last := x.pc + BitVec.ofNat 32 (4 * imm.toNat)
      (last.toNat < x.pc.toNat + 4 ∨ 0x18000 ≤ last.toNat → ill (.loop c true b idx cnt imm) w)
      ∧ (pswLd x.psw < 4 → idx.toNat ≠ pswLd x.psw → ill (.loop c true b idx cnt imm) w)
      ∧ (x.pc.toNat + 4 ≤ last.toNat → last.toNat < 0x18000 → idx.toNat = pswLd x.psw ∨ 4 ≤ pswLd x.psw →
        (count.p = true → poison (.loop c true b idx cnt imm) w)
        ∧ (count.p = false → 4 ≤ pswLd x.psw → trap (.loop c true b idx cnt imm) 0x87 w)))

/-- R73, R77, R78, Table 3-8: the entry sequence. The late results of the bundle before land; EPC, EPSW, EVAL and ECAUSE are
saved; IE, LD and DLY of PSW clear, SAT stays, and MODE becomes the ridge's PRIV; the handler's address is the word of PM at
IVB + 4 × ECAUSE.
The model's own choices in it: log 16. -/
def Obligations.TrapEntry : Prop :=
  ∀ (s : State) (c cause : Nat) (ev : Word), c < 64 → cause < 256 → (∀ w, s.memSyn (0x40 + c) w = 0) → s.fcu.injArm = false →
    let x := s.core c
    let y := x.landAll x.due
    let vec := y.ivb.toNat + 4 * cause
    let h := (wordOfBytes (s.ownRead c true vec 4).1).1
    vec + 4 ≤ 0x18000 → h.toNat < 0x18000 → h.toNat % 4 = 0 →
    let t := s.enter c cause ev none false
    (t.core c).pc = h ∧ (t.core c).epc = x.pc ∧ (t.core c).epsw = y.psw ∧ (t.core c).ecause = BitVec.ofNat 8 cause
    ∧ (t.core c).eval = ev ∧ (t.core c).open_ = [] ∧ (t.core c).late = [] ∧ (t.core c).pend = none
    ∧ (t.core c).etgt = (if y.psw.getLsbD 10 then x.pend.getD y.etgt else y.etgt)
    ∧ (t.core c).psw.getLsbD 0 = false ∧ (t.core c).psw.getLsbD 10 = false ∧ pswLd (t.core c).psw = 0
    ∧ ((t.core c).psw.getLsbD 4 = (s.ridge x.ridge).priv) ∧ (t.core c).psw.getLsbD 9 = y.psw.getLsbD 9
    ∧ (t.core c).gr = y.gr ∧ (t.core c).vr = y.vr ∧ (t.core c).acc = y.acc ∧ (t.core c).pf = y.pf
    ∧ (∀ k, k ≠ c → t.core k = s.core k) ∧ t.mem = s.mem ∧ t.ridges = s.ridges

/-- R58, R71, R74, R78, R436: the entries that no operation raises. TRAP_ENTRY takes the ACCESS_ERROR that waits at a core's bundle
boundary, else the trap of the words that F holds; INTERRUPT_ENTRY consumes the recognised source, by its kind, and every
member of the ridge enters. In a pair or triad an entry abandons the bundle in X: without an access to vector elements, and with no
multi-cycle store begun, it has no effect, and EPC names it; a split store to DM, or one to PM, that it has begun completes.
The model's own choices in it: log 16. -/
def Obligations.EntriesAtABoundary : Prop :=
  (∀ (s : State) (c : Fin 64) (a : Word), s.executes c = true → (s.core c).held = false → (s.core c).open_ = [] →
    (s.core c).wait = [] → (s.core c).aerr = some a →
    exec (.trapEntry c) s = .next ((s.updCore c fun x => { x with aerr := none }).enter c 0x85 a none false))
  ∧ (∀ (s : State) (c : Fin 64) (cause : Nat) (ev : Word), s.executes c = true → (s.core c).held = false →
    (s.core c).open_ = [] → (s.core c).wait = [] → (s.core c).aerr = none →
    fetchTrap (s.core c).pc (s.core c).fetched = some (cause, ev) →
    exec (.trapEntry c) s = .next (s.enter c cause ev none false))
  ∧ (∀ (s : State) (r : Fin 64) (cause : Nat) (level : Option Nat) (nmi : Bool), (s.ridge r).running = true →
    (∀ c ∈ s.runners r, (s.core c).wait = [] ∧ (s.core c).open_ = [] ∧ (s.core c).aerr = none) →
    s.recognised r = some (cause, level, nmi) →
    exec (.interruptEntry r 0) s = .next ((s.runners r).foldl (fun s c => s.enter c cause 0 level nmi)
      (s.updRidge r fun x =>
        if nmi then { x with nmiPend := false }
        else if cause < 16 then { x with taskCnt := Tbl.set x.taskCnt cause (Tbl.get 0 x.taskCnt cause - 1) }
        else { x with icuPend := x.icuPend &&& ~~~(1#64 <<< cause) })))
  ∧ (∀ (s : State) (r : Fin 64) (n cause : Nat) (level : Option Nat) (nmi : Bool), let cs := s.runners r
    (s.ridge r).running = true → (s.ridge r).kind ≠ 1 → cs.Nodup → s.recognised r = some (cause, level, nmi) →
    (∀ c ∈ cs, let x := s.core c
      let y := x.landAll x.due
      let h := (wordOfBytes (s.ownRead c true (y.ivb.toNat + 4 * cause) 4).1).1
      c < 64 ∧ x.ridge = r ∧ x.wait = [] ∧ x.open_ ≠ [] ∧ (∀ o ∈ x.open_, o.elems = []) ∧ (∀ w, s.memSyn (0x40 + c) w = 0)
      ∧ s.streamTo c = [] ∧ y.ivb.toNat + 4 * cause + 4 ≤ 0x18000 ∧ h.toNat < 0x18000 ∧ h.toNat % 4 = 0) →
    s.fcu.injArm = false → s.ecc.injArm = false →
    (n = 0 ∨ (∀ c ∈ cs, ∀ o ∈ (s.core c).open_, o.stall = 0 ∨ o.stores = []) →
      ∃ t, exec (.interruptEntry r n) s = .next t ∧ t.mem = s.mem
        ∧ ∀ c ∈ cs, let x := s.core c
          let y := x.landAll x.due
          (t.core c).open_ = [] ∧ (t.core c).held = false ∧ (t.core c).epc = x.pc ∧ (t.core c).epsw = y.psw
          ∧ (t.core c).ecause = BitVec.ofNat 8 cause ∧ (t.core c).gr = y.gr ∧ (t.core c).pf = y.pf ∧ (t.core c).acc = y.acc
          ∧ (t.core c).vr = y.vr ∧ (t.core c).vstart = y.vstart ∧ (t.core c).merge = x.merge
          ∧ (t.core c).pc = (wordOfBytes (s.ownRead c true (y.ivb.toNat + 4 * cause) 4).1).1)
    ∧ (∀ c o m, cs = [c] → (s.core c).open_ = [o] → o.stores = [m] → 0 < n → 0 < o.stall → (s.core c).merge = [] →
      (s.core c).evicted = none → s.Clean (ownMem c m.pm) → m.off + m.data.length ≤ (if m.pm then 98304 else 131072) →
      m.narrow = false → (∀ b ∈ m.data, b.2 = false) → (m.pm = true → ∀ k, k < 4 → m.off + m.data.length ≤ (s.core c).ivb.toNat + 4 * cause + k
        ∨ (s.core c).ivb.toNat + 4 * cause + k < m.off) → (s.core c).late = [] →
      ∃ t, exec (.interruptEntry r n) s = .next t ∧ (t.core c).epc = (s.core c).pc ∧ (t.core c).gr = (s.core c).gr
        ∧ (t.core c).open_ = [] ∧ ∀ i b, m.data[i]? = some b → t.memByte (ownMem c m.pm) (m.off + i) = b.1))

/-- R71: which interrupt a running ridge recognises. The NMI comes first, whatever IE and PRI hold, unless NMIA is set, which holds it
back; a maskable source needs IE, its pending and enable bits, and a level above PRI, and one is recognised wherever some source has
them; no requested source has a higher level, nor an equal one and a lower number. -/
def Obligations.Recognition : Prop :=
  ∀ (s : State) (r c : Nat), s.lead r = some c →
    let x := s.ridge r
    let psw := (s.core c).psw
    let noNmi := x.nmiPend = false ∨ psw.getLsbD 5 = true
    (x.nmiPend = true → psw.getLsbD 5 = false → s.recognised r = some (0x40, none, true))
    ∧ (noNmi → psw.getLsbD 0 = false → s.recognised r = none)
    ∧ (∀ k, noNmi → psw.getLsbD 0 = true → x.pend.getLsbD k = true → x.icuEn.getLsbD k = true → pswPri psw < x.level k →
        ∃ n, s.recognised r = some (n, some (x.level n), false))
    ∧ (∀ n level, noNmi → s.recognised r = some (n, level, false) →
        psw.getLsbD 0 = true ∧ n < 64 ∧ level = some (x.level n) ∧ x.pend.getLsbD n = true ∧ x.icuEn.getLsbD n = true
        ∧ pswPri psw < x.level n
        ∧ ∀ k, k < 64 → x.pend.getLsbD k = true → x.icuEn.getLsbD k = true → pswPri psw < x.level k →
            x.level k < x.level n ∨ (x.level k = x.level n ∧ n ≤ k))

/-- R57, R58, R248: a store leaves the head of the queue for its massif port and waits there for its bank; a response
without an error leaves the ridge's list; a load's bytes take the place of its result, and an error response is recorded and
waits as ACCESS_ERROR at every executing member. No bundle of the ridge is held and no load waits to be sent.
The model's own choices in it: log 14. -/
def Obligations.StoresAndResponses : Prop :=
  (∀ (s : State) (r : Fin 64) (q : Req) (rest : List Req) (m : Nat), (s.ridge r).queue = q :: rest → (s.ridge r).loads = [] →
    s.massifOfAddr r q.addr.toNat = some m → (∀ c, (s.core c).held = false) →
    exec (.postedStoreLeave r) s = .next ((s.updRidge r fun x =>
      { x with queue := rest, flying := x.flying ++ [{ req := q, resp := none, ready := false }] }).enterPort m (r.val % 16) (.store r) q))
  ∧ (∀ (s : State) (r : Fin 64) (q : Req) (rest : List Posted), (s.ridge r).flying = { req := q, resp := none, ready := true } :: rest →
    (∀ c, (s.core c).held = false) →
    exec (.postedStoreResponse r) s = .next (s.updRidge r fun x => { x with flying := rest }))
  ∧ (∀ (s : State) (r : Fin 64) (q : Req) (rest : List Posted) (k : Nat),
    (s.ridge r).flying = { req := q, resp := some k, ready := true } :: rest → (s.ridge r).running = true →
    (s.ridge r).aeValid = false → (∀ c, (s.core c).held = false) →
    ∃ t, exec (.postedStoreResponse r) s = .next t ∧ (t.ridge r).flying = rest
      ∧ (t.ridge r).aeValid = true ∧ (t.ridge r).aeKind = k ∧ (t.ridge r).aeWrite = true ∧ (t.ridge r).aeAddr = q.addr
      ∧ (∀ c ∈ s.runners r, t.core c = { s.core c with aerr := (s.core c).aerr.or (some q.addr) })
      ∧ (∀ c, c ∉ s.runners r → t.core c = s.core c) ∧ t.mem = s.mem ∧ (∀ j, j ≠ r.val → t.ridge j = s.ridge j))
  ∧ (∀ (s : State) (r : Fin 64) (l : LoadReq) (rest : List LoadReq) (c : Nat) (p : RPart),
    (s.ridge r).loads = l :: rest → l.ready = true → l.err = none → s.runners r = [c] → (s.core c).wait = [p] →
    p.req = l.req → (s.core c).held = false → (s.core c).aerr = none → (s.core c).refusals = [] →
    (∀ o ∈ (s.core c).open_, ∀ p ∈ o.parts, p.req ≠ l.req) → (s.core c).eDrop.contains l.req = false → (s.ridge r).kind = 1 ∨ s.recognised r = none →
    ∃ t, exec (.remoteLoadResponse r) s = .next t ∧ (t.ridge r).loads = rest ∧ (t.core c).wait = []
      ∧ (t.core c).late = placeResult (s.core c).late p l.data
      ∧ (p.isVec = false → (t.core c).late = replaceAt (s.core c).late p.pos (loadWbs p.rd p.req.size p.signed l.data))
      ∧ (t.core c).gr = (s.core c).gr ∧ t.mem = s.mem ∧ ∀ j, j ≠ c → t.core j = s.core j)

/-- R63, R64: the end-of-body test at the end bundle of the innermost active loop, in a bundle that is no delay bundle: while
LC is above one the loop's start is the next fetch and LC will count down; at one, with no loop around it, fetch goes on behind
the bundle and the loop will end.
The model's own choices in it: log 16. -/
def Obligations.EndOfBodyTest : Prop :=
  ∀ (s : State) (c : Fin 64) (k : Nat) (ls le lc : Word), s.executes c = true → (s.core c).pend = none →
    let t := (s.core c).testLoops
    t.ld = k + 1 → t.ls[k]? = some ls → t.le[k]? = some le → t.lc[k]? = some lc → le = (s.core c).pc →
    (1 < lc.toNat → exec (.loopEndTest c) s = .next (s.setCore c { s.core c with
      endSel := some (ls, { t with lc := t.lc.set k (lc - 1) }) }))
    ∧ (lc.toNat ≤ 1 → k = 0 → exec (.loopEndTest c) s = .next (s.setCore c { s.core c with
      endSel := some ((s.core c).pc + BitVec.ofNat 32 (4 * (s.core c).fetched.length), { t with ld := 0 }) }))

/-- R100, R101, R163, R263, R264: a merge-buffer entry goes to its DM word: its bytes read back, the word's other bytes stay, and the
word is poisoned where a byte of the entry is. The entry written least recently goes while the buffer drains; an evicted one goes
whatever the core does. With neither, the command changes nothing.
The model's own choices in it: log 3, and log 14: a narrow store writes the entry that it evicts in its own phase, so no step leaves an
evicted one, and it is the draining buffer whose entries this command writes in a run. -/
def Obligations.EvictedEntryIsWritten : Prop :=
  ∀ (s : State) (c : Fin 64), let x := s.core c
    let writes (m : Merge) (t : State) : Prop :=
      exec (.mergeEntryCompletion c) s = .next t
      ∧ (∀ i, i < 4 → t.memByte c (m.word * 4 + i)
          = if m.mask.getLsbD i then BitVec.ofNat 8 (m.data.toNat / 256 ^ i) else s.memByte c (m.word * 4 + i))
      ∧ t.memSyn c m.word = (if m.tags = 0 then 0 else 0x7F)
      ∧ (∀ mem off, (mem ≠ c.val ∨ off / 4 ≠ m.word) → off < 2 ^ 23 → t.memByte mem off = s.memByte mem off)
      ∧ (∀ j, j ≠ c.val → t.core j = s.core j) ∧ t.ridges = s.ridges
    (x.evicted = none → x.merge = [] ∨ s.drains c = false → exec (.mergeEntryCompletion c) s = .next s)
    ∧ (∀ m rest, x.evicted = none → x.merge = m :: rest → s.drains c = true → x.held = false → s.streamTo c = [] → s.Clean c →
      x.MergeOk → m.mask ≠ 0 → ∃ t, writes m t ∧ t.core c = { x with merge := rest })
    ∧ (∀ m, x.evicted = some m → x.held = false → s.streamTo c = [] → s.Clean c → m.word < 32768 →
      m.tags &&& ~~~m.mask = 0 → m.mask ≠ 0 → ∃ t, writes m t ∧ t.core c = { x with evicted := none })

/-- R38, R46, R47, R58: a register write of a running ridge. One that the check and the filtering let through and the block
takes has the block's effect and nothing else; one that the block refuses is recorded in the ridge, where no earlier error
is, and waits as ACCESS_ERROR; a ridge without a program writes nothing. A write whose data is poisoned changes no register: it
sets the ridge's poison source and is answered with KIND 0b110 where no lower KIND applies (R42 to R45, R265).
The model's own choices in it: log 15. -/
def Obligations.RegisterWrites : Prop :=
  ∀ (s : State) (r : Fin 64) (addr data : Word) (o : Nat),
    (s.Writes r addr o → (s.regWrite r o data).2 = none →
      exec (.registerWrite r addr data false) s = .next (s.regWrite r o data).1)
    ∧ (∀ k, s.Writes r addr o → s.regWrite r o data = (s, some k) → (s.ridge r).aeValid = false →
      ∃ t, exec (.registerWrite r addr data false) s = .next t
        ∧ (t.ridge r).aeValid = true ∧ (t.ridge r).aeKind = k ∧ (t.ridge r).aeWrite = true ∧ (t.ridge r).aeAddr = addr
        ∧ (∀ c ∈ s.runners r, (t.core c).aerr = (s.core c).aerr.or (some addr)) ∧ t.mem = s.mem ∧ t.fcu = s.fcu)
    ∧ ((s.ridge r).running = false → exec (.registerWrite r addr data false) s = .next s)
    ∧ (s.Writes r addr o → let k := match (s.regWrite r o data).2 with
          | some k => min k 6
          | none => 6
      exec (.registerWrite r addr data true) s
        = .next (((s.fcuEvent (0x800 + 8 * r + 4)).recordError r k true addr).boundaryError r addr))
    ∧ (∀ q, s.Writes r addr (0x10000 + 0x400 * r + q) →
      (q = 0x100 → exec (.registerWrite r addr data false) s = .next (s.updRidge r fun x =>
        { x with icuEn := (x.icuEn >>> 32 <<< 32) ||| data.setWidth 64 }))
      ∧ (q = 0x140 → exec (.registerWrite r addr data false) s = .next (s.updRidge r fun x =>
        { x with tovf := x.tovf &&& ~~~(data.setWidth 16) }))
      ∧ (q = 0x30 → exec (.registerWrite r addr data false) s = .next (s.updRidge r fun x =>
        { x with aeValid := x.aeValid && !data.getLsbD 31 })))

/-- R72, R164, R276, R426: the named writes of the ridge block and of a GP pin. OUTEN is set only, and only in a running ridge;
RIDGE_EVSIG pulses the ridge's producer while its outputs are enabled; a route is kept where the ridge does not own the line;
GP_IO drives OUT.
The model's own choices in it: log 15. -/
def Obligations.RidgeBlockWrites : Prop :=
  ∀ (s : State) (r : Fin 64) (addr data : Word), let base := 0x10000 + 0x400 * r.val
    (s.Writes r addr (base + 0x10) →
      exec (.outenSet r addr data false) s = .next (s.updRidge r fun x => { x with outen := x.outen || data.getLsbD 0 }))
    ∧ (s.Writes r addr (base + 0x40) → (s.ridge r).outen = true → data.getLsbD 0 = true →
      exec (.ridgeEvsigFire r addr data false) s = .next (s.pulse (320 + r)))
    ∧ (s.Writes r addr (base + 0x40) → (s.ridge r).outen = false → exec (.ridgeEvsigFire r addr data false) s = .next s)
    ∧ (∀ n, 24 ≤ n → n < 64 → s.Writes r addr (base + 0x180 + 4 * (n - 24)) →
      let l := data.toNat % 0x400
      ((l = 0x3FF ∨ (lineAssigned l = true ∧ s.ownsLine r l = true)) →
        exec (.icuRouteWrite r addr data false) s = .next (s.updRidge r fun x => { x with icuRoute := Tbl.set x.icuRoute n l }))
      ∧ (l ≠ 0x3FF → lineAssigned l = true → s.ownsLine r l = false → (s.ridge r).aeValid = false →
        ∃ t, exec (.icuRouteWrite r addr data false) s = .next t ∧ (t.ridge r).icuRoute = (s.ridge r).icuRoute
          ∧ (t.ridge r).aeValid = true ∧ (t.ridge r).aeKind = 1))
    ∧ (∀ p, p < 96 → s.Writes r addr (0x500000 + 0x10 * p + 4) →
      exec (.gpIoWrite r addr data false) s = .next (s.updGp p fun g => { g with out := data.getLsbD 0, swAt := some s.tick }))

/-- R202, R323, R326, R332: the named writes of the angle engine, the Ethernet block and the station ring. A feeder's estimate
that names a cycle too old is only marked stale; a receive queue's TAIL gives up the slots that it passes, and one that passes
HEAD or names no slot is refused; a PTP step waits for the next clock edge and clears SYNCED; a message is sent with the next sequence number.
The model's own choices in it: log 17. -/
def Obligations.PeripheralWrites : Prop :=
  ∀ (s : State) (r : Fin 64) (addr data : Word),
    (∀ d, d < 8 → s.Writes r addr (0x100000 + 0x100 * d + 0x34) → let u := s.boundaries (s.dom d).due d
      let x := u.dom d
      x.cfg.fv = true → x.cfg.feeder = r.val → x.cfg.src = 3 → x.st ≠ .off →
      (x.estCyc ≠ x.cyc → (x.estCyc + 1) % 2 ^ 16 ≠ x.cyc →
        exec (.adEstErrWrite r addr data false) s = .next (u.updDom d fun x => { x with stale := true }))
      ∧ (x.estCyc = x.cyc →
        exec (.adEstErrWrite r addr data false) s = .next (u.evaluate d (data.setWidth 24).toInt u.tick 0 none)))
    ∧ (∀ p j, p < 4 → j < 16 → s.Writes r addr (0x300000 + 0x4000 * p + 0x100 + 0x10 * j + 8) →
      let q := (s.eth p).rx j
      let v := data.toNat % 256
      let slots := 2 * q.npage
      let given := (v + slots - q.tail) % slots
      (v < slots → v ≠ q.tail → given ≤ q.held →
        exec (.qTailWrite r addr data false) s = .next (s.updEth p fun x =>
          { x with rxq := Tbl.set x.rxq j { x.rx j with tail := v, held := q.held - given } }))
      ∧ (v ≠ q.tail → slots ≤ v ∨ q.held < given → (s.ridge r).aeValid = false →
        ∃ t, exec (.qTailWrite r addr data false) s = .next t ∧ t.eths = s.eths ∧ (t.ridge r).aeValid = true
          ∧ (t.ridge r).aeKind = 4 ∧ (t.ridge r).aeAddr = addr))
    ∧ (s.Writes r addr 0x300810 →
      exec (.ptpStep r addr data false) s
        = .next { s with ptp := { s.ptp with step := s.ptp.step + data.toInt, synced := false } })
    ∧ (∀ m, m < 15 → s.Writes r addr (0x310100 + 0x10 * m + 4) → let b := s.mbox m
      let len := data.toNat % 512
      b.busy = false → b.en = true → s.outputsLive r = true → 0 < len → len ≤ 256 → s.ringSends = true →
      (∀ w, s.memSyn 0x87 w = 0) → s.fcu.injArm = false → b.seq < 256 → s.ring.out.length ≤ 100 →
      ∃ t f, exec (.srMbSend r addr data false) s = .next t ∧ (t.mbox m).busy = true ∧ (t.mbox m).seq = (b.seq + 1) % 256
        ∧ t.ring.out = f :: f :: s.ring.out ∧ f.typ = 0 ∧ f.dst.toNat = b.peer % 128 ∧ f.payload = (t.mbox m).sent
        ∧ f.payload.length = len ∧ (∀ i, i < len → f.payload[i]? = some (s.memByte 0x87 (b.page * 4096 + i)))
        ∧ t.mem = s.mem ∧ t.cores = s.cores)

/-- R360, R361, R364: the watchdog's registers. The first write of WDT_CFG enables and locks, keeps REQ, and starts
the first period, whose edge 0 is yet to come; WDT_REQ is written once, before, and a REQ of zero stays zero but requires bit 0;
a check-in of a running ridge waits for the next watchdog sample. A write of a locked register changes nothing.
The model's own choices in it: log 22. -/
def Obligations.WatchdogWrites : Prop :=
  ∀ (s : State) (r : Fin 64) (addr data : Word), let base := 0x20000 + 0x100 * r.val
    let w := (s.ridge r).wdt
    (s.Writes r addr base → w.en = false →
      ∃ t, exec (.wdtCfgWrite r addr data false) s = .next t ∧ let v := (t.ridge r).wdt
        v.en = true ∧ v.reqLock = true ∧ v.open_ = data.toNat / 2 ^ 16 % 16 ∧ v.period = data.toNat % 2 ^ 16
        ∧ v.req = w.req ∧ v.required = (if w.req = 0 then 1 else w.req) ∧ v.n = 0 ∧ v.fresh = true ∧ v.done = 0 ∧ v.checkins = [] ∧ v.warn = w.warn
        ∧ t.mem = s.mem ∧ t.cores = s.cores ∧ ∀ k, k ≠ r.val → t.ridge k = s.ridge k)
    ∧ (s.Writes r addr (base + 4) → w.reqLock = false →
      exec (.wdtReqWrite r addr data false) s = .next (s.updWdt r fun v => { v with req := data.setWidth 16, reqLock := true }))
    ∧ (s.Writes r addr (base + 8) → w.en = true → data.setWidth 16 ≠ (0 : BitVec 16) →
      exec (.wdtChkWrite r addr data false) s = .next (s.updWdt r fun v => { v with checkins := v.checkins ++ [data.setWidth 16] }))
    ∧ (s.Writes r addr base → w.en = true → (s.ridge r).aeValid = false →
      ∃ t, exec (.wdtCfgWrite r addr data false) s = .next t ∧ (t.ridge r).wdt = w ∧ (t.ridge r).aeKind = 4)
    ∧ (s.Writes r addr (base + 4) → w.reqLock = true → (s.ridge r).aeValid = false →
      ∃ t, exec (.wdtReqWrite r addr data false) s = .next t ∧ (t.ridge r).wdt = w ∧ (t.ridge r).aeKind = 4)

/-- R154 to R158, R168: a comparison of the members' records. Where every member has closed the same record, its requests leave
and nothing else changes; a triad evicts the one member that differs and runs on; without a majority the ridge halts, and no
request of the record leaves.
The model's own choices in it: log 13. -/
def Obligations.BundleVotes : Prop :=
  ∀ (s : State) (r : Fin 64), s.Compares r →
    (∀ w, s.heads r ≠ [] → (∀ h ∈ s.heads r, h = some w) → (∀ q ∈ w.reqs, q.write = true) →
      ∃ t, exec (.bundleVote r) s = .next t
        ∧ t.ridge r = { s.ridge r with queue := (s.ridge r).queue ++ w.reqs }
        ∧ (∀ m ∈ (s.ridge r).valid, t.core m.2 = { s.core m.2 with recs := (s.core m.2).recs.drop 1 })
        ∧ (∀ c, (∀ m ∈ (s.ridge r).valid, m.2 ≠ c) → t.core c = s.core c)
        ∧ (∀ k, k ≠ r.val → t.ridge k = s.ridge k) ∧ t.mem = s.mem ∧ t.fcu = s.fcu)
    ∧ (∀ w k c, (s.ridge r).kind = 3 → (s.ridge r).valid.length = 3 → (k, c) ∈ (s.ridge r).valid →
      (∀ m ∈ (s.ridge r).valid, m.1 ≠ k → (s.core m.2).recs.head? = some w) → (s.core c).recs.head? ≠ some w →
      (∀ q ∈ w.reqs, q.write = true) →
      ∃ t, exec (.bundleVote r) s = .next t ∧ (t.core c).st = .quarantined
        ∧ (t.core c).quars = (s.core c).quars + 1 ∧ (t.ridge r).members = (s.ridge r).members.set k (false, c)
        ∧ (t.ridge r).st = .running ∧ (t.ridge r).degraded = true ∧ (t.ridge r).icuPend.getLsbD 17 = true
        ∧ (t.ridge r).queue = (s.ridge r).queue ++ w.reqs ∧ (t.ridge r).evicts = min 255 ((s.ridge r).evicts + 1)
        ∧ (t.src (0x20 * c + 0x18)).sticky = true
        ∧ (∀ m ∈ (s.ridge r).valid, m.1 ≠ k → t.core m.2 = { s.core m.2 with recs := (s.core m.2).recs.drop 1 })
        ∧ ((s.ridge r).voteValid = false → (t.ridge r).voteValid = true ∧ (t.ridge r).voteSlot = k
          ∧ (t.ridge r).voteAction = 1 ∧ (t.ridge r).voteSrc = false ∧ (t.ridge r).votePc = w.pc)
        ∧ t.mem = s.mem)
    ∧ ((s.ridge r).kind = 2 ∨ (s.ridge r).kind = 3 → (∃ w, some w ∈ s.heads r) →
      (∀ h ∈ s.heads r, 2 * ((s.heads r).filter fun g => g == h).length ≤ (s.heads r).length) →
      ∃ t, exec (.bundleVote r) s = .next t ∧ (t.ridge r).st = .halted ∧ (t.ridge r).outen = false
        ∧ (t.ridge r).draining = true ∧ (t.ridge r).queue = (s.ridge r).queue ∧ (t.ridge r).evicts = (s.ridge r).evicts
        ∧ (t.ridge r).members = (s.ridge r).members
        ∧ (t.ridge r).haltcause
          = (if (s.ridge r).kind = 2 then 1 else if (s.ridge r).valid.length = 3 then 2 else 3)
        ∧ (t.src (0x802 + 8 * r.val)).sticky = true
        ∧ ((s.ridge r).voteValid = false → (t.ridge r).voteValid = true ∧ (t.ridge r).voteSlot = 3
          ∧ (t.ridge r).voteAction = 2)
        ∧ (∀ m ∈ (s.ridge r).valid, (t.core m.2).recs = [] ∧ (t.core m.2).open_ = [] ∧ (t.core m.2).gr = (s.core m.2).gr)
        ∧ t.mem = s.mem)

/-- R101, R149, R150, R162, R163, R165, R166: what follows a halt or an uncorrected error. The block reset, once the stores
have left, resets the members' registers and the interrupt controller and keeps PM and DM; the automatic restart counts, loads
DM from the image and releases; Cairn removes a member without an entry in the vote registers; a cleared core is free.
The model's own choices in it: log 23, log 31. -/
def Obligations.RidgeRecovery : Prop :=
  (∀ (s : State) (r : Fin 64), (s.ridge r).st = .halted → (s.ridge r).draining = true → (s.ridge r).queue = [] →
    (s.ridge r).flying = [] → (s.ridge r).dissolve = false →
    (∀ m ∈ (s.ridge r).valid, (s.core m.2).merge = [] ∧ (s.core m.2).evicted = none) →
    ∃ t, exec (.ridgeBlockReset r) s = .next t
      ∧ t.ridge r = { s.ridge r with draining := false, loads := [], icuEn := 0, icuPend := 0, icuPrio := [], taskCnt := [],
                                     tovf := 0, icuRoute := [], nmiPend := false }
      ∧ (∀ m ∈ (s.ridge r).valid, let x := t.core m.2
        x.gr = [] ∧ x.pf = [] ∧ x.acc = [] ∧ x.vr = [] ∧ x.psw = 0 ∧ x.epc = 0 ∧ x.epsw = 0 ∧ x.ecause = 0 ∧ x.eval = 0
        ∧ x.ivb = 0 ∧ x.etgt = 0 ∧ x.vl = 0 ∧ x.vinv = true ∧ x.vstart = 0 ∧ x.vxsat = false ∧ x.lc = [0, 0, 0, 0])
      ∧ (∀ c, (∀ m ∈ (s.ridge r).valid, m.2 ≠ c) → t.core c = s.core c)
      ∧ (∀ k, k ≠ r.val → t.ridge k = s.ridge k) ∧ t.mem = s.mem ∧ t.syn = s.syn ∧ t.fcu = s.fcu)
  ∧ (∀ (s : State) (r : Fin 64), let x := s.ridge r
    x.st = .halted → x.draining = false → x.restart = true → x.rstcnt < x.maxrst → x.rstcnt < 15 → x.haltcause ≠ 7 →
    x.dissolve = false → x.underTest = 0 → x.testFailed = false → s.fcu.fatal = false → s.pwr.st = .run → s.cairnRuns = true →
    (∀ m ∈ x.valid, m.2 < 64 ∧ s.Clean (0x40 + m.2)) → s.fcu.injArm = false → s.ecc.injArm = false →
    ∃ t, exec (.automaticRestart r) s = .next t ∧ (t.ridge r).st = .running ∧ (t.ridge r).rstcnt = x.rstcnt + 1
      ∧ (t.ridge r).outen = false ∧ (t.ridge r).members = x.members ∧ t.fcu = s.fcu
      ∧ (∀ m ∈ x.valid, (t.core m.2).pc = x.start &&& ~~~3#32 ∧ (t.core m.2).gr = (s.core m.2).gr
        ∧ ∀ i, i < 131072 → t.memByte m.2 i = at_ (s.imageOf r).dm i 0))
  ∧ (∀ (s : State) (r : Fin 64) (k : Fin 3) (c : Nat), (s.ridge r).running = true → (s.ridge r).kind = 3 →
    (s.ridge r).valid.length = 3 → (s.ridge r).members[k.val]? = some (true, c) → (s.core c).removeDue = true →
    s.cairnRuns = true → (s.core c).st = .member → (s.massif (s.ridge r).massif).col = none → (∀ j, (s.core j).held = false) →
    ∃ t, exec (.memberRemoval r k) s = .next t ∧ (t.core c).st = .quarantined ∧ (t.ridge r).degraded = true
      ∧ (t.ridge r).members = (s.ridge r).members.set k.val (false, c) ∧ (t.ridge r).icuPend.getLsbD 17 = true
      ∧ (t.ridge r).evicts = (s.ridge r).evicts ∧ (t.ridge r).voteValid = (s.ridge r).voteValid
      ∧ (t.ridge r).st = .running ∧ (∀ j, j ≠ c → t.core j = s.core j) ∧ t.mem = s.mem ∧ t.fcu = s.fcu)
  ∧ (∀ (s : State) (c : Fin 64), (s.core c).st = .clearing → (∀ k, (s.ridge k).clearing.contains c.val = false) →
    ∃ t, exec (.coreCleared c) s = .next t ∧ ((t.core c).st = .free ∨ (t.core c).st = .spare)
      ∧ (∀ i, i < 131072 → t.memByte c i = 0) ∧ (∀ i, i < 98304 → t.memByte (0x40 + c) i = 0)
      ∧ (∀ i, t.memByte 0x80 i = s.memByte 0x80 i) ∧ t.ridges = s.ridges ∧ ∀ j, j ≠ c.val → t.core j = s.core j)
  ∧ (∀ (s : State) (c r : Fin 64), (s.core c).st = .clearing → (s.ridge r).clearing = [c.val] →
    (∀ k, k ≠ r.val → (s.ridge k).clearing.contains c.val = false) →
    ∃ t, exec (.coreCleared c) s = .next t ∧ t.ridge r = Ridge.reset ∧ ((t.core c).st = .free ∨ (t.core c).st = .spare))

/-- R171 to R181, R185: the steps of a col. A fill col starts with the newcomer in SHADOW for the empty slot, after the shift where
slot 0 is empty; a row copies 32 bytes from source to newcomer; priority starts under AUTO; a held cycle copies two DM rows
and one PM row; the first cycle of the register transfer copies 128 items, the general registers among them; at cutover the
newcomer holds what the source holds, has fetched bundle c for itself, and the vote follows.
The model's own choices in it: log 29. -/
def Obligations.ColSteps : Prop :=
  (∀ (s : State) (r n : Fin 64) (k : Nat), let m := (s.ridge r).massif
    s.needsFill r = true → massifOf n = m → s.cairnRuns = true → s.pwr.st = .run → (s.massif m).col = none →
    s.available r n = true → (s.ridge r).emptySlot = some k → k ≠ 0 →
    ∃ t c, exec (.fillColStart r n) s = .next t ∧ (t.core n).st = .shadow ∧ (t.core n).ridge = r.val
      ∧ (t.core n).slot = k ∧ (t.massif m).col = some c ∧ c.phase = 1 ∧ c.rot = false ∧ c.tslot = k ∧ c.ridge = r.val
      ∧ c.newcore = n.val ∧ (t.massif m).dmRows = 0 ∧ (t.massif m).pmRows = 0 ∧ (t.massif m).restarts = 0
      ∧ t.ridges = s.ridges ∧ t.mem = s.mem ∧ ∀ j, j ≠ n.val → t.core j = s.core j)
  ∧ (∀ (s : State) (r n : Fin 64) (x a b : Nat), let m := (s.ridge r).massif
    s.needsFill r = true → massifOf n = m → s.cairnRuns = true → s.pwr.st = .run → (s.massif m).col = none →
    s.available r n = true → (s.ridge r).kind = 3 → (s.ridge r).members = [(false, x), (true, a), (true, b)] → a ≠ b → a ≠ n.val → b ≠ n.val →
    ∃ t c, exec (.fillColStart r n) s = .next t ∧ (t.ridge r).members = [(true, a), (true, b), (false, x)]
      ∧ (t.core a).slot = (s.core a).slot - 1 ∧ (t.core b).slot = (s.core b).slot - 1 ∧ (t.core n).slot = 2
      ∧ (t.core n).st = .shadow ∧ (t.massif m).col = some c ∧ c.tslot = 2 ∧ c.sslot = 0 ∧ t.mem = s.mem)
  ∧ (∀ (s : State) (m : Fin 4) (pm : Bool) (k : Col) (src dst : Nat), let x := s.massif m
    let row := if pm then x.pmRows else x.dmRows
    let base := if pm then 0x40 else 0
    x.col = some k → k.phase = 1 → s.colSource m = some (src, dst) → src < 64 → dst < 64 → src ≠ dst → s.Clean (base + src) →
    row < (if pm then 3072 else 4096) →
    ∃ t, exec (.copyRow m pm) s = .next t ∧ (t.massif m).dmRows = (if pm then x.dmRows else row + 1)
      ∧ (t.massif m).pmRows = (if pm then row + 1 else x.pmRows)
      ∧ (t.massif m).col = (if (t.massif m).dmRows = 4096 ∧ (t.massif m).pmRows = 3072
          then some { k with phase := 2, prioOn := false } else some k)
      ∧ (∀ i, i < 32 → t.memByte (base + dst) (32 * row + i) = s.memByte (base + src) (32 * row + i))
      ∧ (∀ i, i < 131072 → i / 32 ≠ row → t.memByte (base + dst) i = s.memByte (base + dst) i)
      ∧ t.cores = s.cores ∧ t.ridges = s.ridges ∧ t.fcu = s.fcu)
  ∧ (∀ (s : State) (m : Fin 4) (pm : Bool) (k : Col) (src dst : Nat),
    (s.massif m).col = some k → k.phase = 2 → k.items = 0 → s.colSource m = some (src, dst) → src ≠ dst →
    ∃ t, exec (.copyRow m pm) s = .next t ∧ (t.massif m).col = some { k with items := 128 }
      ∧ (∀ i, (t.core dst).g i = (s.core src).g i)
      ∧ (t.core dst).st = (s.core dst).st ∧ (∀ j, j ≠ dst → t.core j = s.core j) ∧ t.ridges = s.ridges ∧ t.mem = s.mem)
  ∧ (∀ (s : State) (m : Fin 4) (k : Col), let x := s.massif m
    x.col = some k → x.prio = 0 → k.phase = 1 → k.prioOn = false → k.startTick + x.prioDelay * 32000 ≤ s.tick →
    exec (.colPriorityStart m) s = .next (s.updMassif m fun x => { x with col := some { k with prioOn := true } }))
  ∧ (∀ (s : State) (m : Fin 4) (k : Col) (src dst : Nat), let x := s.massif m
    x.col = some k → k.phase = 1 → k.prioOn = true → s.colSource m = some (src, dst) → src < 64 → dst < 64 → src ≠ dst →
    s.Clean src → s.Clean (0x40 + src) → x.dmRows + 2 ≤ 4096 → x.pmRows < 3072 → (s.runners k.ridge).Nodup →
    ∃ t, exec (.colPriorityHold m) s = .next t ∧ (t.massif m).dmRows = x.dmRows + 2 ∧ (t.massif m).pmRows = x.pmRows + 1
      ∧ (∀ c ∈ s.runners k.ridge, t.core c = { s.core c with cycles := (s.core c).cycles + 1 }) ∧ t.ridges = s.ridges)
  ∧ (∀ (s : State) (m : Fin 4) (k : Col) (src dst : Nat),
    (s.massif m).col = some k → k.phase = 2 → s.colSource m = some (src, dst) → (s.ridge k.ridge).running = true →
    (s.core src).open_ = [] → (s.core src).held = false → src ≠ dst → (∀ w, s.memSyn (0x40 + dst) w = 0) →
    s.fcu.injArm = false →
    let y := (s.core dst).takeOver (s.core src)
    let f := s.fetch dst y y.loops y.pc
    let z := { y with fetched := f.1, lbLoop := f.2.2.1, lbuf := f.2.2.2 }
    (k.rot = false → ∃ t n, exec (.cutover m) s = .next t ∧ t.core dst = z
      ∧ z.gr = (s.core src).gr ∧ z.pc = (s.core src).pc ∧ z.st = (s.core dst).st ∧ z.recs = []
      ∧ (t.massif m).col = some { k with phase := 3, owed := (s.core src).recs.length, items := n }
      ∧ (∀ c, c ≠ dst → t.core c = s.core c) ∧ t.ridges = s.ridges ∧ t.mem = s.mem)
    ∧ (k.rot = true → k.toTest = true → (s.core src).recs = [] → k.tslot = k.sslot →
      ∃ t, exec (.cutover m) s = .next t ∧ t.core dst = z
        ∧ (t.core src).st = .test ∧ (t.core src).bStatus = 1
        ∧ (t.ridge k.ridge).members = (s.ridge k.ridge).members.set k.tslot (false, src) ∧ t.mem = s.mem))

/-- R187 to R194, R392, Table 8-12: the self-test of a core. Slice 0 leaves PM and DM zero; every later slice counts 4,096
patterns; the last one ends the test: with PASS the core is cleared (a core in its third quarantine has FAILED), with FAIL it is
FAILED and its source is set, as it is when a slice overruns its budget. A quarantined core is tested; a rotation step starts a
col that sends the departing member to test.
The model's own choices in it: log 29. -/
def Obligations.SelfTests : Prop :=
  (∀ (s : State) (c : Fin 64), (s.core c).st = .test →
    ((s.core c).bSlices = 0 → ∃ t, exec (.selfTestSlice c true) s = .next t ∧ (t.core c).bSlices = 1
      ∧ (t.core c).st = .test ∧ (∀ i, i < 131072 → t.memByte c i = 0) ∧ (∀ i, i < 98304 → t.memByte (0x40 + c) i = 0)
      ∧ (∀ j, j ≠ c.val → t.core j = s.core j) ∧ t.ridges = s.ridges ∧ t.fcu = s.fcu)
    ∧ ((s.core c).bSlices = 0 → (s.core c).testFor ≠ some .inPlace →
      ∃ t, exec (.selfTestSlice c false) s = .next t ∧ (t.core c).bStatus = 3 ∧ (t.core c).bMfail = true
        ∧ (t.core c).st = .failed ∧ (t.src (0x20 * c + 0x19)).sticky = true)
    ∧ (∀ good, 1 ≤ (s.core c).bSlices → (s.core c).bSlices < 8 → exec (.selfTestSlice c good) s = .next (s.updCore c fun x =>
        { x with bSlices := x.bSlices + 1, bPatcnt := x.bPatcnt + 4096 }))
    ∧ ((s.core c).bSlices = 8 → (s.core c).testFor ≠ some .inPlace →
      ∃ t, exec (.selfTestSlice c true) s = .next t ∧ (t.core c).bStatus = 2 ∧ (t.core c).bSlices = 9
        ∧ (t.core c).bPatcnt = (s.core c).bPatcnt + 4096
        ∧ (t.core c).st = (if (s.core c).testFor = some .quarantine ∧ 3 ≤ (s.core c).quars then .failed else .clearing)
        ∧ t.mem = s.mem ∧ t.fcu = s.fcu ∧ ∀ j, j ≠ c.val → t.core j = s.core j)
    ∧ ((s.core c).bSlices = 8 → (s.core c).testFor ≠ some .inPlace →
      ∃ t, exec (.selfTestSlice c false) s = .next t ∧ (t.core c).bStatus = 3 ∧ (t.core c).st = .failed
        ∧ (t.src (0x20 * c + 0x19)).sticky = true ∧ t.mem = s.mem)
    ∧ ((s.core c).testFor ≠ some .inPlace →
      ∃ t, exec (.sliceBudgetExpired c) s = .next t ∧ (t.core c).bStatus = 3 ∧ (t.core c).st = .failed
        ∧ (t.core c).bSlices = (s.core c).bSlices ∧ (t.src (0x20 * c + 0x19)).sticky = true ∧ t.mem = s.mem))
  ∧ (∀ (s : State) (c : Fin 64), (s.core c).st = .quarantined → s.cairnRuns = true → s.pwr.st = .run →
    ∃ t, exec (.quarantineTestStart c) s = .next t ∧ (t.core c).st = .test ∧ (t.core c).bStatus = 1 ∧ (t.core c).bSlices = 0
      ∧ (t.core c).bPatcnt = 0 ∧ (t.core c).quars = (s.core c).quars ∧ (∀ j, j ≠ c.val → t.core j = s.core j)
      ∧ t.ridges = s.ridges ∧ t.mem = s.mem)
  ∧ (∀ (s : State) (r n : Fin 64) (k : Fin 3) (c : Nat), let m := (s.ridge r).massif
    s.rotates m r = true → (s.ridge r).members[k.val]? = some (true, c) → (s.massif m).col = none → massifOf n = m →
    s.available r n = true → s.cairnRuns = true → s.pwr.st = .run → s.fcu.fatal = false → (s.massif m).rotEn = true →
    s.nextRotation m = some (r.val, k.val) → (∀ d, (s.massif m).rotCore = some d → (s.core d).st = .member) →
    (∀ p, (s.massif m).rotLast = some p → p + max 10 (s.massif m).rotStep * 320000 ≤ s.tick) →
    (s.massif m).rotAgain = [] → s.cairn.jobs = [] → c ≠ n.val →
    ∃ t l, exec (.rotationStep r k n) s = .next t ∧ (t.massif m).col = some l ∧ l.rot = true ∧ l.phase = 1 ∧ l.toTest = true
      ∧ l.tslot = k.val ∧ l.sslot = k.val ∧ l.newcore = n.val ∧ (t.core n).st = .shadow ∧ (t.core n).slot = k.val
      ∧ (t.massif m).rotCore = some c ∧ (t.massif m).rotPos = some (r.val, k.val) ∧ (t.massif m).rotLast = some s.tick
      ∧ t.core c = s.core c ∧ t.ridges = s.ridges)

/-- R198 to R204, R208, R215: what an edge and a reference event do. An edge of the pin of a pulse-sourced domain, in a tick
with no boundary left to handle, waits for its evaluation with its timestamp and angle, and an edge that a capture unit is set to
triggers it, once in a tick; the evaluation rejects an error
above ACC once the domain tracks, steps a domain that acquires, and else updates AD_FBASE, the proportional term and AD_FREQ by the
loop; the device clock's second that is a multiple of DEN is an event of a PTP-sourced domain, and sets CYC.
The model's own choices in it: log 2, log 33. -/
def Obligations.ReferenceEvents : Prop :=
  (∀ (s : State) (pin : Fin 16) (level : Bool), s.pwr.st ≠ .off → s.angIn.getLsbD pin ≠ level → (∀ d, (s.dom d).due = 0) →
    ∃ t, exec (.angInEdge pin level) s = .next t ∧ t.angIn.getLsbD pin = level
      ∧ (∀ j, j ≠ pin.val → t.angIn.getLsbD j = s.angIn.getLsbD j)
      ∧ (∀ d, let x := s.dom d
        x.st ≠ .off → x.st ≠ .free → x.cfg.src = 1 → x.cfg.pin = pin.val → x.evs = [] →
        t.dom d = if x.cfg.edge.getLsbD (if level then 0 else 1) then
            { x with evs := [{ ts := s.tick, angle := x.held, due := s.tick + x.cfg.filt, pin := pin.val, index := false,
                               rev := false, spoiled := false, adv := 0, ptp := false }] } else x)
      ∧ (∀ d, (s.dom d).cfg.src ≠ 1 → (s.dom d).cfg.src ≠ 2 → t.dom d = (s.dom d).dropUnheld s.tick pin)
      ∧ (∀ u, let x := s.cap u
        x.was = none → x.triggered s.tick = false →
        t.cap u = if x.pin = pin.val ∧ x.trig.getLsbD (if level then 0 else 1) = true then
            { x with trigs := x.trigs ++ [{ tick := s.tick, domain := x.domain, rec_ := none }] } else x)
      ∧ (∀ ch, let x := s.chan ch
        t.chan ch = if level && (x.rowAt s.tick).getLsbD (480 + pin) then x.pulse s.tick else x))
  ∧ (∀ (s : State) (d : Fin 8) (ev : RefEv), let x := s.dom d
    let e := if ev.index || ev.ptp then wrap24 ((x.cfg.phase : Int) - (ev.angle % 2 ^ 24 : Nat))
      else nearestError x.cfg.phase (ev.angle % 2 ^ 24) x.cfg.n
    x.st ≠ .off → x.evs = [ev] → ev.due ≤ s.tick → x.Quiet → ev.adv < x.cfg.span →
    let real := ev.ptp = true → s.isInstant x = true
    (ev.rev = true → exec (.referenceEvent d) s = .next (s.updDom d fun x => { x with evs := [], rev := true }))
    ∧ (ev.rev = false → ev.spoiled = false → ¬real →
      exec (.referenceEvent d) s = .next (s.updDom d fun x => { x with evs := [] }))
    ∧ (ev.rev = false → ev.spoiled = true → exec (.referenceEvent d) s
      = .next (s.updDom d fun x => { x with evs := [], rej := satInc 16 x.rej }))
    ∧ (ev.rev = false → ev.spoiled = false → real → x.st = .track ∨ x.st = .locked ∨ x.st = .holdover → x.cfg.acc < e.natAbs →
      exec (.referenceEvent d) s = .next (s.updDom d fun x => { x with evs := [], rej := satInc 16 x.rej }))
    ∧ (∀ p, ev.rev = false → ev.spoiled = false → real → x.st = .track ∨ x.st = .locked → e.natAbs ≤ x.cfg.acc →
      x.prevTs = some p → p < ev.ts →
      ∃ t, exec (.referenceEvent d) s = .next t ∧ let y := t.dom d
        let w : Int := e * 2 ^ 22 / ((ev.ts - p : Nat) : Int)
        y.err = BitVec.ofInt 24 e ∧ y.fb = (x.cfg.clamp ((x.fb : Int) + w / (2 ^ x.cfg.ki : Int))).1
        ∧ y.slew = w / (2 ^ x.cfg.kp : Int) ∧ y.freq = (x.cfg.clamp ((y.fb : Int) + y.slew)).1 ∧ y.prevTs = some ev.ts
        ∧ y.phase = x.phase ∧ y.rej = x.rej ∧ y.evs = [] ∧ y.adv = ev.adv
        ∧ (x.st = .locked → e.natAbs ≤ x.cfg.win → y.st = .locked)
        ∧ (x.st = .track → e.natAbs ≤ x.cfg.win → max 1 x.cfg.lockn ≤ x.run + 1 → y.st = .locked)
        ∧ (x.st = .track → x.cfg.win < e.natAbs → y.st = .track) ∧ t.mem = s.mem ∧ t.cores = s.cores)
    ∧ (ev.rev = false → ev.spoiled = false → ev.ptp = false → x.st = .acquire ∨ x.st = .lost →
      ∃ t, exec (.referenceEvent d) s = .next t ∧ (t.dom d).st = .track
        ∧ (t.dom d).phase = (((x.phase : Int) + e * 2 ^ 22) % (2 ^ 62 : Int)).toNat
        ∧ (t.dom d).err = BitVec.ofInt 24 e ∧ (t.dom d).fb = x.fb ∧ (t.dom d).adv = ev.adv
        ∧ (t.dom d).freq = (x.cfg.clamp ((x.fb : Int) + x.slew)).1))
  ∧ (∀ (s : State) (d : Fin 8) (x : Domain), let p := s.ptp.ticks 1
    s.doms = [(d.val, x)] → x.st = .acquire → s.listens x = true → s.pwr.st = .run → x.Quiet → x.evs = [] →
    x.phase % 2 ^ 46 + x.freq < 2 ^ 46 → s.ptp.untilSecond = 1 → p.sec ≠ s.ptp.sec → p.sec % x.cfg.den = 0 →
    s.fcu.injArm = false →
    ∃ t, exec (.ptpEvent d) s = .next t ∧ t.tick = s.tick + 1 ∧ t.ptp = p ∧ (t.dom d).st = .track
      ∧ (t.dom d).cyc = p.sec / x.cfg.den * x.cfg.num % 2 ^ 16 ∧ (t.dom d).evs = [] ∧ (t.dom d).adv = 0
      ∧ (t.dom d).err = BitVec.ofInt 24 (wrap24 ((x.cfg.phase : Int) - ((x.phase + x.freq) / 2 ^ 22 % 2 ^ 24 : Nat)))
      ∧ (t.dom d).resync = true)

/-- R195, R207, R208, R211 to R213, Table 9-5: what time and silence do to a domain. A boundary crossed for the first time pulses
its producer, applies the staged offset as a step and makes the staged copy active; time comes to the next boundary of a domain
that has nothing else to do by adding its frequency word once a tick; a miss of a domain that acquires, or the end of
HOLDOVER, leads to LOST, a miss of a tracking domain to HOLDOVER, each with its source.
The model's own choices in it: log 2, log 12. -/
def Obligations.DomainStates : Prop :=
  (∀ (s : State) (d : Fin 8), let x := s.dom d
    x.st ≠ .off → x.due = 1 → x.dueTick ≤ s.tick → x.evs = [] → (x.st ≠ .free → x.adv < x.cfg.span) →
    (x.st = .holdover → x.holds + 1 < x.cfg.hold) →
    (x.offStg = none → x.stg = x.cfg →
      ∃ t, exec (.cycleBoundary d) s = .next t ∧ (t.dom d).due = 0 ∧ (t.dom d).phase = x.phase
        ∧ (t.dom d).cfg = x.cfg ∧ (t.dom d).freq = x.freq ∧ (t.dom d).st = x.st
        ∧ (t.dom d).holds = (if x.st = .holdover then x.holds + 1 else x.holds)
        ∧ (∀ ch, let y := s.chan ch
          t.chan ch = if (y.rowAt s.tick).getLsbD (128 + d) then y.pulse s.tick else y)
        ∧ t.tick = s.tick ∧ t.mem = s.mem ∧ t.cores = s.cores ∧ ∀ j, j ≠ d.val → t.dom j = s.dom j)
    ∧ (∀ o, x.offStg = some o → x.stg = x.cfg →
      ∃ t, exec (.cycleBoundary d) s = .next t ∧ (t.dom d).offset = o ∧ (t.dom d).offStg = none
        ∧ (t.dom d).phase = (((x.phase : Int) + o.toInt * 2 ^ 22) % (2 ^ 62 : Int)).toNat
        ∧ (t.dom d).cfg.phase = (((x.cfg.phase : Int) + o.toInt) % (2 ^ 24 : Int)).toNat)
    ∧ (x.offStg = none → x.stg ≠ x.cfg →
      ∃ t, exec (.cycleBoundary d) s = .next t ∧ (t.dom d).cfg = x.stg
        ∧ (x.stg.en = false → (t.dom d).st = .off ∧ (t.dom d).phase = 0 ∧ (t.dom d).freq = 0 ∧ (t.dom d).comps = [])))
  ∧ (∀ (s : State) (d : Fin 8) (x : Domain),
    s.doms = [(d.val, x)] → x.st = .free → x.due = 0 → x.back = 0 → x.evs = [] → x.offStg = none → x.stg = x.cfg →
    0 < x.freq → x.freq < 2 ^ 46 → x.phase < 2 ^ 62 → s.fcu.injArm = false → s.BallsQuiet →
    let k := (2 ^ 46 - x.phase % 2 ^ 46 + x.freq - 1) / x.freq
    ∃ t, exec (.cycleBoundary d) s = .next t ∧ t.tick = s.tick + k ∧ (t.dom d).phase = (x.phase + x.freq * k) % 2 ^ 62
      ∧ (t.dom d).due = 0 ∧ (t.dom d).turns = x.turns + 1 ∧ (t.dom d).freq = x.freq ∧ (t.dom d).st = .free
      ∧ (∀ ch, let y := s.chan ch
        t.chan ch = if (y.rowAt (s.tick + k)).getLsbD (128 + d) then y.pulse (s.tick + k) else y)
      ∧ t.mem = s.mem ∧ t.cores = s.cores)
  ∧ (∀ (s : State) (d : Fin 8), let x := s.dom d
    x.due = 0 → x.evs = [] → x.cfg.span ≤ x.adv →
    (x.st = .acquire → ∃ t, exec (.miss d) s = .next t ∧ (t.dom d).st = .lost ∧ (t.dom d).freq = x.cfg.fnom
      ∧ (t.dom d).fb = x.fb ∧ (t.dom d).missCnt = satInc 16 x.missCnt ∧ (t.src (0xF01 + 4 * d)).sticky = true
      ∧ (t.dom d).adv = x.adv - x.cfg.span ∧ t.tick = s.tick ∧ t.mem = s.mem)
    ∧ (x.st = .track ∨ x.st = .locked → x.cfg.hold ≠ 0 → ∃ t, exec (.miss d) s = .next t ∧ (t.dom d).st = .holdover
      ∧ (t.dom d).freq = x.fb ∧ (t.dom d).fb = x.fb ∧ (t.dom d).slew = 0 ∧ (t.dom d).holds = 0
      ∧ (t.dom d).missCnt = satInc 16 x.missCnt ∧ (t.src (0xF00 + 4 * d)).sticky = true)
    ∧ (x.st = .track ∨ x.st = .locked → x.cfg.hold = 0 → ∃ t, exec (.miss d) s = .next t ∧ (t.dom d).st = .lost
      ∧ (t.dom d).fb = x.cfg.fnom)
    ∧ (x.st = .holdover ∨ x.st = .lost → (x.st = .holdover → x.holds < x.cfg.hold) →
      exec (.miss d) s = .next (s.updDom d fun y => { y with
        missCnt := satInc 16 y.missCnt, adv := y.adv - y.cfg.span })))
  ∧ (∀ (s : State) (d : Fin 8), let x := s.dom d
    x.st = .holdover → x.cfg.hold ≤ x.holds → x.due = 0 → x.evs = [] → x.adv < x.cfg.span →
    ∃ t, exec (.holdoverExpiry d) s = .next t ∧ (t.dom d).st = .lost ∧ (t.dom d).freq = x.cfg.fnom
      ∧ (t.dom d).fb = x.cfg.fnom ∧ (t.src (0xF01 + 4 * d)).sticky = true ∧ (t.dom d).phase = x.phase)

/-- R215, R222, R224 to R229: captures and the walker. A unit that holds nothing takes what its domain held in the trigger's tick, one that holds a
capture sets OVR; a lane at its bin takes the heads of the nine lists; an armed occurrence ahead of the held angle goes to a comparator;
a due one fires once, with its action (a line, a train, a pin that the table drives, a capture unit), if the gate is open, and does
nothing at or behind FM as the tick found it; one at the angle
of FM that has not fired there fires too, where another entry's firing has put FM there.
The model's own choices in it: log 2, log 41 (the firing at FM's own angle). -/
def Obligations.CapturesAndWalker : Prop :=
  (∀ (s : State) (u : Fin 32) (q : CapTrig) (rest : List CapTrig), let x := s.cap u
    let d := s.dom q.domain
    let v := q.rec_.getD (BitVec.ofNat 32 d.held, d.st.code, d.cyc)
    x.trigs = q :: rest → (q.rec_ = none → d.st = .off ∨ (d.Quiet ∧ d.evs = [])) →
    (x.valid = false → ∃ t, exec (.captureTrigger u) s = .next t ∧ t.cap u = { x with
        trigs := rest, valid := true, angle := v.1, st := v.2.1, cyc := v.2.2, recTick := some q.tick }
      ∧ t.doms = s.doms ∧ t.cores = s.cores ∧ t.mem = s.mem
      ∧ (∀ ch, let y := s.chan ch
        t.chan ch = if (y.rowAt s.tick).getLsbD (144 + u) then y.pulse s.tick else y))
    ∧ (x.valid = true → ∃ t, exec (.captureTrigger u) s = .next t ∧ t.cap u = { x with
        trigs := rest, ovr := true, lost := some ({ q with rec_ := some v }, x.ovr) }
      ∧ t.doms = s.doms ∧ t.cores = s.cores ∧ t.mem = s.mem ∧ t.chans = s.chans ∧ ∀ w, w ≠ u.val → t.cap w = s.cap w))
  ∧ (∀ (s : State) (d : Fin 8), let x := s.dom d
    let b := (x.pos + 1) % 2 ^ 28
    x.st ≠ .off → x.Quiet → x.evs = [] → x.cur = [] → x.hold = none → atOrBehind (x.pos * 2 ^ 12) x.held = true →
    ∃ t, exec (.walkerBinStart d) s = .next t ∧ (t.dom d).rdBin = b ∧ t.tick = s.tick
      ∧ (∀ k, k < 9 → Tbl.find (t.dom d).cur k = Tbl.find s.ast.heads ((d.val * 9 + k) * 4096 + b % 4096 % 2 ^ (12 - k)))
      ∧ ((t.dom d).cur = [] → (t.dom d).pos = b) ∧ ((t.dom d).cur ≠ [] → (t.dom d).pos = x.pos)
      ∧ (t.dom d).comps = x.comps ∧ (∀ j, j ≠ d.val → t.dom j = s.dom j))
  ∧ (∀ (s : State) (d : Fin 8) (k i : Nat), let x := s.dom d
    let w (j : Nat) : Nat := s.wordData 0x84 (2 * i + j / 2) / 2 ^ (32 * (j % 2)) % 2 ^ 32
    let a := occAngle x.rdBin k (w 0 % 2 ^ 24)
    x.st ≠ .off → x.Quiet → x.evs = [] → x.hold = none → x.comps.length < 64 → s.nextList d = some (k, i) → s.Clean 0x84 →
    (astArmed (w 0) (w 2) (w 3) x.rdBin = false → ∃ t, exec (.walkerEntryRead d) s = .next t
      ∧ (t.dom d).comps = x.comps ∧ (t.dom d).fm = x.fm ∧ t.mem = s.mem ∧ t.fcu = s.fcu)
    ∧ (astArmed (w 0) (w 2) (w 3) x.rdBin = true → atOrBehind a x.held = false → ∃ t, exec (.walkerEntryRead d) s = .next t
      ∧ (t.dom d).comps = x.comps ++ [{ angle := a, entry := i, w0 := BitVec.ofNat 32 (w 0), w1 := BitVec.ofNat 32 (w 1),
                                        tick := s.tick, late := false, skip := false }]
      ∧ (t.dom d).cur = (if w 3 % 2 ^ 19 = i then Tbl.del x.cur k else Tbl.set x.cur k (w 3 % 2 ^ 19))
      ∧ t.mem = s.mem ∧ t.fcu = s.fcu))
  ∧ (∀ (s : State) (d : Fin 8) (o : Comp), let x := s.dom d
    let s' := s.updDom d fun z => { z with comps := [] }
    let fires := aheadOf o.angle (x.fmAt s.tick) = true ∨ (o.angle = x.fm ∧ x.fmEnts ≠ [] ∧ o.entry ∉ x.fmEnts)
    x.st ≠ .off → x.Quiet → x.evs = [] → x.comps = [o] → x.compDue s.tick o = true →
    (¬fires ∨ x.gate = false → exec (.occurrenceFire d) s = .next s')
    ∧ (fires → x.gate = true → o.late = false → o.skip = false → bitsOf o.w0.toNat 31 28 = 1 →
      exec (.occurrenceFire d) s
        = .next ((s'.updDom d fun z => z.markFired s.tick o).astLine (bitsOf o.w1.toNat 15 0 % 128)))
    ∧ (fires → x.gate = true → o.late = false → o.skip = false →
      let u := s'.updDom d fun z => z.markFired s.tick o
      let kind := bitsOf o.w0.toNat 31 28
      let tgt := bitsOf o.w1.toNat 15 0
      let par := bitsOf o.w1.toNat 31 16
      (kind = 2 → exec (.occurrenceFire d) s
        = .next (u.launch (tgt % 64) (par % 16) o.entry o.angle ((x.held + 2 ^ 40 - o.angle) % 2 ^ 24) false false))
      ∧ (kind = 3 → let p := tgt % 128
        (s.pinLive p 2 = false → exec (.occurrenceFire d) s = .next (u.updDom d fun z => { z with discCnt := satInc 16 z.discCnt }))
        ∧ (s.pinLive p 2 = true → (∀ a, (s.gp p).acts = some a → a.1 ≠ s.tick) → (s.gp p).swAt ≠ some s.tick →
          ∃ t, exec (.occurrenceFire d) s = .next t ∧ (t.gp p).out = actLevel (s.gp p).out (par % 4)
            ∧ (∀ q, q ≠ p → t.gp q = s.gp q) ∧ t.doms = u.doms ∧ t.mem = s.mem ∧ t.cores = s.cores))
      ∧ (kind = 4 → let c := tgt % 32
        (s.cap c).triggered s.tick = false → (s.cap c).was = none → exec (.occurrenceFire d) s
          = .next (u.updCap c fun y => { y with trigs := y.trigs ++ [{ tick := s.tick, domain := y.domain, rec_ := none }] })))
    ∧ (fires → x.gate = true → o.skip = false → o.late = true → bitsOf o.w0.toNat 31 28 = 1 →
      ∃ t, exec (.occurrenceFire d) s = .next t ∧ (t.dom d).fm = (if aheadOf o.angle x.fm then o.angle else x.fm)
        ∧ (t.dom d).comps = [] ∧ (t.dom d).late = true
        ∧ (t.dom d).lateCnt = satInc 16 x.lateCnt ∧ (t.dom d).last = some (false, o.entry)
        ∧ (t.src (0xF02 + 4 * d)).sticky = true))

/-- R231, R236 to R238, R240: what Cairn does to linked entries in RUN. An indefinite entry whose cycle X is entered becomes valid
in every cycle; an entry whose last cycle has passed leaves its list, whose head or whose predecessor's NEXT goes to its
successor, and waits for two boundaries; a poisoned entry is written again from the journal.
The model's own choices in it: log 36. -/
def Obligations.LinkedEntries : Prop :=
  ∀ (s : State) (i : BitVec 19) (l : AstLink), let n := i.toNat
    let d := s.dom (bitsOf l.w0.toNat 26 24)
    let reached (x : Nat) := (d.cyc + 2 ^ 16 - x) % 2 ^ 16 < 2 ^ 15
    let next (j : Nat) := s.entryHi j / 2 ^ 32 % 2 ^ 19
    Tbl.find s.ast.links n = some l → s.pwr.st = .run → s.cairnRuns = true → s.pwr.classB = true → s.ecc.injArm = false →
    (∀ x, s.Clean 0x84 → l.indef = some x → d.st ≠ .off → reached x →
      ∃ t m, exec (.indefiniteRewrite i) s = .next t ∧ t.entryHi n % 2 ^ 32 = (x + 2 ^ 16 - 1) % 2 ^ 16 * 2 ^ 16 + x % 2 ^ 16
        ∧ t.entryHi n / 2 ^ 32 = s.entryHi n / 2 ^ 32 ∧ t.entryLo n = s.entryLo n ∧ Tbl.find t.ast.links n = some m
        ∧ m.indef = none ∧ m.w2.toNat = t.entryHi n % 2 ^ 32 ∧ t.doms = s.doms ∧ t.ast.heads = s.ast.heads)
    ∧ (∀ u, l.ends = some u → d.st ≠ .off → u ≤ d.turns - d.back → Tbl.find s.ast.heads (listKey l.w0.toNat l.w3.toNat) = some n →
      ∃ t, exec (.entryUnlink i) s = .next t
        ∧ Tbl.find t.ast.heads (listKey l.w0.toNat l.w3.toNat) = (if next n = n then none else some (next n))
        ∧ Tbl.find t.ast.links n = none ∧ Tbl.find t.ast.waiting n = some (2, bitsOf l.w0.toNat 26 24)
        ∧ t.mem = s.mem ∧ t.doms = s.doms)
    ∧ (∀ u p, s.Clean 0x84 → l.ends = some u → d.st ≠ .off → u ≤ d.turns - d.back → Tbl.find s.ast.heads (listKey l.w0.toNat l.w3.toNat) = some p →
      p ≠ n → p < 2 ^ 19 → next p = n → 2 ≤ s.ast.links.length →
      ∃ t, exec (.entryUnlink i) s = .next t ∧ t.ast.heads = s.ast.heads
        ∧ t.entryHi p / 2 ^ 32 % 2 ^ 19 = (if next n = n then p else next n) ∧ t.entryHi p % 2 ^ 32 = s.entryHi p % 2 ^ 32
        ∧ t.entryLo p = s.entryLo p ∧ Tbl.find t.ast.links n = none)
    ∧ ((s.eccRead 0x84 (2 * n)).2.1 = true ∨ (s.eccRead 0x84 (2 * n + 1)).2.1 = true →
      ∃ t, exec (.entryRepair i) s = .next t ∧ t.entryLo n = l.w0.toNat + l.w1.toNat * 2 ^ 32
        ∧ t.entryHi n = l.w2.toNat + (l.w3.toNat - l.w3.toNat % 2 ^ 19 + l.next % 2 ^ 19) * 2 ^ 32
        ∧ (t.eccRead 0x84 (2 * n)).2.1 = false ∧ (t.eccRead 0x84 (2 * n + 1)).2.1 = false ∧ t.ast = s.ast)

/-- R246 to R249, R253: a bank serves the first port at or after its pointer; the head of every other port that also asks for it
waits a cycle longer, and the port counts a conflict where no other bank has counted that cycle; a request served raises its
port's longest wait. A load of one doubleword gets its bytes; a store of one doubleword changes its bytes and no other; the
pointer goes behind the port served.
The model's own choices in it: log 8. -/
def Obligations.MassifBanks : Prop :=
  ∀ (s : State) (m : Fin 4) (bank : Fin 32) (p : Nat) (q : PortReq) (rest : List PortReq), let x := s.massif m
    let off := q.req.addr.toNat % 0x200000
    let counted (y : Massif) : Prop := Tbl.get [] y.ports p = rest ∧ Tbl.get 0 y.rr bank = (p + 1) % 20
      ∧ Tbl.get 0 y.confMax p = min 255 (max (q.waited + 1) (Tbl.get 0 x.confMax p))
      ∧ Tbl.get 0 y.confCnt p = Tbl.get 0 x.confCnt p
      ∧ ∀ j e l, j < 20 → j ≠ p → Tbl.get [] x.ports j = e :: l → e.banks.contains bank.val = true →
        Tbl.get [] y.ports j = e.wait bank :: l
        ∧ Tbl.get 0 y.confCnt j = (if e.waited ≤ Tbl.get 0 e.waits bank then satInc 32 (Tbl.get 0 x.confCnt j)
            else Tbl.get 0 x.confCnt j)
    x.winner bank = some p → Tbl.get [] x.ports p = q :: rest →
    ((∀ j, j < 20 → (∃ e l, Tbl.get [] x.ports j = e :: l ∧ e.banks.contains bank.val = true) → Tbl.get 0 x.rr bank < 20 →
      (p + 20 - Tbl.get 0 x.rr bank) % 20 ≤ (j + 20 - Tbl.get 0 x.rr bank) % 20)
    ∧ (s.Clean (0x80 + m) → q.banks = [bank.val] → q.got = [] → q.req.mask = [] → 0 < q.req.size →
      q.req.addr.toNat % 8 + q.req.size ≤ 8 → q.req.addr.toNat / 8 % 32 = bank.val →
      (∀ (r : Nat) (l : LoadReq), q.req.write = false → q.who = .load r → (s.ridge r).loads = [l] → l.req = q.req →
        l.sent = true → l.ready = false →
        ∃ t, exec (.massifRequestServed m bank) s = .next t
          ∧ (t.ridge r).loads = [{ l with ready := true, data := (List.range q.req.size).map fun i =>
              (s.memByte (0x80 + m) (off + i), false) }]
          ∧ counted (t.massif m) ∧ t.mem = s.mem ∧ t.fcu = s.fcu ∧ t.cores = s.cores)
      ∧ (∀ (r : Nat) (f : Posted), q.req.write = true → q.who = .store r → (s.ridge r).flying = [f] → f.req = q.req →
        f.ready = false → q.req.data.length = q.req.size → (∀ b ∈ q.req.data, b.2 = false) → s.pwr.classB = true →
        ∃ t, exec (.massifRequestServed m bank) s = .next t ∧ (t.ridge r).flying = [{ f with ready := true }]
          ∧ (∀ i b, q.req.data[i]? = some b → t.memByte (0x80 + m) (off + i) = b.1)
          ∧ (∀ i, i < off ∨ off + q.req.size ≤ i → t.memByte (0x80 + m) i = s.memByte (0x80 + m) i)
          ∧ counted (t.massif m) ∧ t.cores = s.cores)))

/-- R261, R266, R267, R271: the scrubbers and the test port. A scrubber reads its next word when its time has come; the last word
of the array ends the lap; a wrong word is recorded with its source and waits to be written back, corrected or poisoned; a
lap beyond LIMIT is reported once. A raw read gives what is stored; a raw write stores data and check bits as given.
The model's own choices in it: log 2, log 37. -/
def Obligations.ScrubbersAndTestPort : Prop :=
  (∀ (s : State) (u : Byte), let m := u.toNat
    let x := s.scrub m
    x.en = true → 0 < memWords m → s.scrubLive m = true →
    (x.wb = none → (∀ l, x.last = some l → l + 2 ^ x.rate / 2 ≤ s.tick) → s.fcu.injArm = false →
      (s.memSyn m x.next = 0 → x.next + 1 < memWords m → exec (.scrubRead u) s
        = .next (s.updScrub m fun x => { x with last := some s.tick, next := x.next + 1 }))
      ∧ (s.memSyn m x.next = 0 → x.next + 1 = memWords m → exec (.scrubRead u) s
        = .next (s.updScrub m fun x => { x with
            last := some s.tick, next := 0, lap := min 0xFFFFFFFF ((s.tick - x.began) / 320), laps := satInc 16 x.laps,
            poisoned := min 0xFFFF x.seen, seen := 0, began := s.tick, overd := false }))
      ∧ (eccOutcome m (s.memSyn m x.next).toNat = 1 → x.next + 1 < memWords m → ∃ t, exec (.scrubRead u) s = .next t
        ∧ (t.scrub m).wb = some (x.next, false) ∧ (t.scrub m).next = x.next + 1 ∧ t.ecc.lastCe = some (m, x.next)
        ∧ (t.src (ceSource m x.next)).sticky = true)
      ∧ (eccOutcome m (s.memSyn m x.next).toNat = 2 → x.next + 1 < memWords m → ∃ t, exec (.scrubRead u) s = .next t
        ∧ (t.scrub m).wb = some (x.next, true) ∧ t.ecc.lastUe = some (m, x.next)
        ∧ (t.src (ueSource m x.next)).sticky = true))
    ∧ (∀ w b, s.MemWf → x.wb = some (w, b) → w < memWords m → s.ecc.injArm = false → s.fcu.injArm = false →
      (isClassB m = true → s.pwr.classB = true) →
      ∃ t, exec (.scrubWriteback u) s = .next t ∧ (t.scrub m).wb = none ∧ t.wordData m w = (s.eccRead m w).1
        ∧ t.memSyn m w = (if (s.eccRead m w).2.1 then poisonSyn m else 0))
    ∧ (x.overd = false → x.limit ≠ 0 → x.began + x.limit * 320000 ≤ s.tick → ∃ t, exec (.scrubOverdue u) s = .next t
      ∧ t.scrub m = { x with overd := true } ∧ (t.src (overdueSource m)).sticky = true ∧ t.mem = s.mem))
  ∧ (∀ (s : State), let e := s.ecc
    e.busy = true → e.origin = none →
    (e.op = 1 → ∃ t, exec .rawRead s = .next t ∧ t.ecc.td = BitVec.ofNat 64 (s.wordData e.tMem e.tWord)
      ∧ t.ecc.syn = s.memSyn e.tMem e.tWord ∧ t.ecc.result = eccOutcome e.tMem (s.memSyn e.tMem e.tWord).toNat
      ∧ t.ecc.chk.toNat = ((s.memSyn e.tMem e.tWord).toNat ^^^ eccEncode e.tMem (s.wordData e.tMem e.tWord)) % 256
      ∧ t.ecc.busy = false ∧ t.mem = s.mem ∧ t.syn = s.syn ∧ t.fcu = s.fcu ∧ t.ecc.lastCe = e.lastCe)
    ∧ (e.op = 2 → s.MemWf → e.tWord < memWords e.tMem → (isClassB e.tMem = true → s.pwr.classB = true) →
      ∃ t, exec .rawWrite s = .next t ∧ t.wordData e.tMem e.tWord = (if e.tMem < 64 then e.td.toNat % 2 ^ 32 else e.td.toNat)
        ∧ (t.memSyn e.tMem e.tWord).toNat = (e.chk.toNat ^^^ eccEncode e.tMem e.td.toNat) % 256 ∧ t.ecc.busy = false
        ∧ t.fcu = s.fcu ∧ t.cores = s.cores))

/-- R254 to R258: a channel of the massif DMA. START, by the owner's write or by the firing of an event channel, loads the count of
an idle channel whose owner has not halted, and of a busy one sets OVR; the event channel counts the start in FIRES, anything else
in DROPS; element reads are issued in order with the addresses of the source, at most four outstanding; an element read that its check refuses has
its error; the oldest response is written at the destination and both addresses go on; an error ends the transfer with EKIND
and EADDR; the last write's response completes it; a requested stop leaves neither DONE nor ERR; a block reset that waits takes place at the
transfer's end.
The model's own choices in it: log 12. -/
def Obligations.DmaTransfers : Prop :=
  ∀ (s : State) (m k : Fin 4), let ch := 4 * m.val + k.val
    let d := s.dma ch
    let n := if d.cnt = 0 then 65536 else d.cnt
    let begun : Dma := { d with busy := true, left := n, toRead := n, reads := [], writes := [], stopReq := false, rstReq := false }
    let mine (f : ChFire) : Prop := f.ckind = 2 ∧ f.cindex % 16 = ch
    (∀ r : Fin 64, s.Writes r (dmaCtrlAddr m k) (0x40000 + 0x1000 * m + 0x40 * k + 0x24) → d.owner = some r.val → s.pwr.st = .run →
      (d.busy = false → exec (.dmaStart m k (.owner r)) s = .next (s.updDma ch fun _ => begun))
      ∧ (d.busy = true → exec (.dmaStart m k (.owner r)) s = .next (s.updDma ch fun d => { d with ovr := true })))
    ∧ (∀ a f rest, let c := s.chan a
      let w := s.window f.tick
      c.waiting = f :: rest → mine f → f.lim = 0 → c.masked = false → (s.chans.map (·.1)).Nodup →
      (∀ e ∈ s.chans, e.1 ≠ a → ∀ g ∈ e.2.waiting, ¬mine g) →
      ∃ t, exec (.dmaStart m k .fabric) s = .next t ∧ t.ridges = s.ridges ∧ t.mem = s.mem ∧ t.fcu = s.fcu
        ∧ (t.chan a).waiting = rest ∧ (t.chan a).win = w ∧ (t.chan a).wcount = (if c.win = w then c.wcount + 1 else 1)
        ∧ (∀ j, j ≠ a → t.chan j = s.chan j) ∧ (∀ j, j ≠ ch → t.dma j = s.dma j)
        ∧ (∀ r, d.owner = some r → (s.ridge r).stopped = false → s.pwr.st = .run → s.fcu.fatal = false →
          (d.busy = false → t.dma ch = begun ∧ (t.chan a).fires = satInc 16 c.fires ∧ (t.chan a).drops = c.drops)
          ∧ (d.busy = true → t.dma ch = { d with ovr := true } ∧ (t.chan a).fires = c.fires
            ∧ (t.chan a).drops = satInc 16 c.drops))
        ∧ (d.owner = none ∨ (∃ r, d.owner = some r ∧ (s.ridge r).stopped = true) ∨ s.pwr.st ≠ .run ∨ s.fcu.fatal = true →
          t.dma ch = d ∧ (t.chan a).fires = c.fires ∧ (t.chan a).drops = satInc 16 c.drops))
    ∧ ((∀ e ∈ s.chans, (∀ g ∈ e.2.waiting, ¬mine g) ∧ ¬(e.2.ckind = 2 ∧ e.2.cindex % 16 = ch)) →
      exec (.dmaStart m k .fabric) s = .next s)
    ∧ (∀ r : Fin 64, s.Writes r (dmaCtrlAddr m k) (0x40000 + 0x1000 * m + 0x40 * k + 0x24) → d.owner = some r.val →
      d.busy = true → exec (.dmaAbort m k r) s = .next (s.updDma ch fun d => { d with stopReq := true }))
    ∧ (∀ r mm, let q : Req := { write := false, addr := d.readAddr, size := 2 ^ d.esize.toNat, data := [] }
      d.owner = some r → d.busy = true → d.toRead ≠ 0 → d.reads.length < 4 → d.stopReq = false →
      (∀ kind, s.dmaCheck r false d.readAddr.toNat q.size = some kind → exec (.dmaElementRead m k) s
        = .next ((s.refusedCheck r d.readAddr.toNat).updDma ch fun d => { d with toRead := d.toRead - 1, reads := d.reads ++ [⟨q, [], some kind, true⟩] }))
      ∧ (s.dmaCheck r false d.readAddr.toNat q.size = none → rowOf d.readAddr.toNat ≠ some .dm →
        s.massifOfAddr r d.readAddr.toNat = some mm → ∃ t, exec (.dmaElementRead m k) s = .next t
        ∧ (t.dma ch).toRead = d.toRead - 1 ∧ (t.dma ch).reads = d.reads ++ [⟨q, [], none, false⟩]
        ∧ (∃ e, Tbl.get [] (t.massif mm).ports (16 + k) = Tbl.get [] (s.massif mm).ports (16 + k) ++ [e] ∧ e.req = q
          ∧ e.who = .dmaRead ch) ∧ t.mem = s.mem ∧ t.cores = s.cores))
    ∧ (∀ r e rest, d.owner = some r → d.busy = true → d.reads = e :: rest → e.ready = true → d.stopReq = false → d.rstReq = false →
      (∀ kind, e.err = some kind → ∃ t, exec (.dmaReadResponse m k) s = .next t ∧ (t.dma ch).busy = false
        ∧ (t.dma ch).err = true ∧ (t.dma ch).ekind = kind ∧ (t.dma ch).eaddr = e.req.addr ∧ (t.dma ch).done = d.done
        ∧ (t.ridge r).icuPend.getLsbD (20 + k) = true ∧ t.mem = s.mem)
      ∧ (∀ mm, let q : Req := { write := true, addr := d.dst, size := 2 ^ d.esize.toNat, data := e.data }
        e.err = none → s.dmaCheck r true d.dst.toNat q.size = none → rowOf d.dst.toNat ≠ some .dm →
        s.massifOfAddr r d.dst.toNat = some mm → ∃ t, exec (.dmaReadResponse m k) s = .next t
        ∧ (t.dma ch).reads = rest ∧ (t.dma ch).left = d.left - 1 ∧ (t.dma ch).writes = d.writes ++ [(q, none, false)]
        ∧ (t.dma ch).src = circular d.src (d.sstep.signExtend 32) d.sbase d.slen
        ∧ (t.dma ch).dst = circular d.dst (d.dstep.signExtend 32) d.dbase d.dlen ∧ (t.dma ch).busy = true ∧ t.mem = s.mem))
    ∧ (∀ q rest, d.busy = true →
      (∀ kind, d.writes = (q, some kind, true) :: rest → d.rstReq = false → ∃ t, exec (.dmaWriteResponse m k) s = .next t
        ∧ (t.dma ch).busy = false ∧ (t.dma ch).err = true ∧ (t.dma ch).ekind = kind ∧ (t.dma ch).eaddr = q.addr)
      ∧ (d.writes = (q, none, true) :: rest → rest ≠ [] → exec (.dmaWriteResponse m k) s
        = .next (s.updDma ch fun d => { d with writes := rest }))
      ∧ (d.writes = [(q, none, true)] → d.reads = [] → d.toRead = 0 → d.rstReq = true →
        ∃ t, exec (.dmaWriteResponse m k) s = .next t ∧ t.dma ch = { Dma.reset with owner := d.owner } ∧ t.mem = s.mem)
      ∧ (d.writes = [(q, none, true)] → d.reads = [] → d.toRead = 0 → d.rstReq = false → ∃ t, exec (.dmaWriteResponse m k) s = .next t
        ∧ (t.dma ch).busy = false ∧ (t.dma ch).done = true ∧ (t.dma ch).err = d.err
        ∧ (∀ r, d.owner = some r → (t.ridge r).icuPend.getLsbD (20 + k) = true)
        ∧ (∀ c, let y := s.chan c
          t.chan c = if (y.rowAt s.tick).getLsbD (304 + ch) then y.pulse s.tick else y)))
    ∧ (d.busy = true → d.stopReq = true → d.rstReq = false → ∃ t, exec (.dmaStop m k) s = .next t
      ∧ (t.dma ch).busy = false ∧ (t.dma ch).stopped = true ∧ (t.dma ch).done = d.done ∧ (t.dma ch).err = d.err
      ∧ (t.dma ch).left = d.left ∧ t.ridges = s.ridges ∧ t.chans = s.chans)
    ∧ (d.busy = true → d.stopReq = true → d.rstReq = true → ∃ t, exec (.dmaStop m k) s = .next t
      ∧ t.dma ch = { Dma.reset with owner := d.owner } ∧ t.ridges = s.ridges ∧ t.chans = s.chans)

/-- R276 to R280, R283 to R285: a channel of the event fabric. The oldest firing on its way reaches the consumer and counts in the
storm window of its own tick, or is dropped where the channel is masked; the firing beyond LIM in a window is a storm, which
AUTOMASK answers by masking; the interval's end fires a held pulse, at the end's tick; after the window's end every WCOUNT is 0.
The model's own choices in it: log 2, log 32. -/
def Obligations.EventFabric : Prop :=
  (∀ (s : State) (ch : Fin 256) (f : ChFire) (rest : List ChFire), let c := (s.chan ch).upTo s.tick
    let w := s.window f.tick
    let n := if c.win = w then c.wcount + 1 else 1
    let r := f.cindex / 16 % 64
    c.waiting = f :: rest →
    (c.masked = false → f.lim = 0 ∨ n ≠ f.lim + 1 → f.ckind = 1 → (s.ridge r).running = true →
      Tbl.get 0 (s.ridge r).taskCnt (f.cindex % 16) < 255 →
      ∃ t, exec (.eventChannelFiring ch) s = .next t
        ∧ t.chan ch = { c with waiting := rest, wcount := n, win := w, fires := satInc 16 c.fires }
        ∧ Tbl.get 0 (t.ridge r).taskCnt (f.cindex % 16) = Tbl.get 0 (s.ridge r).taskCnt (f.cindex % 16) + 1
        ∧ t.mem = s.mem ∧ t.cores = s.cores ∧ t.fcu = s.fcu ∧ ∀ k, k ≠ ch.val → t.chan k = s.chan k)
    ∧ (c.masked = true → f.lim = 0 ∨ n ≠ f.lim + 1 → ∃ t, exec (.eventChannelFiring ch) s = .next t
      ∧ t.chan ch = { c with waiting := rest, wcount := n, win := w, drops := satInc 16 c.drops }
      ∧ t.ridges = s.ridges ∧ t.gps = s.gps ∧ t.fcu = s.fcu)
    ∧ (f.lim ≠ 0 → n = f.lim + 1 → f.automask = true → ∃ t, exec (.eventChannelFiring ch) s = .next t
      ∧ (c.clears f.tick = false → (t.chan ch).storm = true ∧ (t.chan ch).masked = true)
      ∧ (c.clears f.tick = true → (t.chan ch).storm = c.storm ∧ (t.chan ch).masked = c.masked)
      ∧ (t.chan ch).drops = satInc 16 c.drops ∧ (t.chan ch).fires = c.fires ∧ (t.src (0xE00 + ch)).sticky = true))
  ∧ (∀ (s : State) (ch : Fin 256) (e : Nat), let c := s.chan ch
    let f := c.firing e
    let w := s.window e
    let n := if c.win = w then c.wcount + 1 else 1
    let y : Channel := { c with held := false, start := none, refr := if e + 8 ≤ s.tick then none else some (e + 8)
                                wcount := n, win := w }
    c.refr = some e → e ≤ s.tick → c.waiting = [] →
    (c.held = false → exec (.refractoryEnd ch) s = .next (s.updChan ch fun c => { c with refr := none, start := none }))
    ∧ (c.held = true → c.masked = true → f.lim = 0 ∨ n ≠ f.lim + 1 → ∃ t, exec (.refractoryEnd ch) s = .next t
      ∧ t.chan ch = { y with drops := satInc 16 c.drops } ∧ t.ridges = s.ridges ∧ t.tick = s.tick)
    ∧ (c.held = true → c.masked = false → f.lim = 0 ∨ n ≠ f.lim + 1 → f.ckind = 0 → ∃ t, exec (.refractoryEnd ch) s = .next t
      ∧ t.chan ch = { y with drops := satInc 16 c.drops } ∧ t.ridges = s.ridges ∧ t.tick = s.tick)
    ∧ (c.held = true → c.masked = false → f.lim = 0 ∨ n ≠ f.lim + 1 → f.ckind = 1 →
      (s.ridge (f.cindex / 16 % 64)).running = true → ∃ t, exec (.refractoryEnd ch) s = .next t
      ∧ t.chan ch = { y with fires := satInc 16 c.fires } ∧ t.tick = s.tick))
  ∧ (∀ (s : State), (∀ e ∈ s.doms, e.2.st = .off ∧ e.2.commitReq = false) → s.fcu.injArm = false → s.BallsQuiet → ∃ t, exec .stormWindowEnd s = .next t
    ∧ t.tick = s.tick + (3200 - (s.tick - s.winStart) % 3200) ∧ t.chans = s.chans ∧ t.mem = s.mem ∧ t.cores = s.cores
    ∧ (s.winStart ≤ s.tick → (t.tick - s.winStart) % 3200 = 0
      ∧ ∀ ch, (s.chan ch).win ≤ s.window s.tick → t.wcountNow (s.chan ch) = 0))

/-- R295, R299, R301, R304, R313, R314, R316, R317: a chain port. The train leaves as its characters, of a dual pair on both rings;
the return of its copy with EOT completes it: each slot's record is written, what was not received whole counts, and the producers
fire; a timeout completes it with what has come, and with every slot missing where nothing has. A reported break puts a running ring into BREAK, with its location,
its source and its mark, once; the location is the address of the last node that sends BRK, 0x3E where that node has none, and
0x20 where RX is silent; an enumeration ends in MISMATCH, and a port in MISMATCH stays there. A break ends when RX has held sync for
1 ms and a train has ended by EOT.
The model's own choices in it: log 2, log 24, log 27. -/
def Obligations.ChainPorts : Prop :=
  ∀ (s : State) (n : Fin 64), let p := s.port n
    (∀ t : Train, let t' := { t with sent := true }
      p.train = some t →
      (t.sent = true → exec (.trainTransmit n) s = .next s)
      ∧ (t.sent = false → s.leadsPair n = false → exec (.trainTransmit n) s = .next (s.updPort n fun p => { p with
        train := some t', wire := if s.fcu.fatal then [] else t'.chars, rxd := none }))
      ∧ (t.sent = false → s.leadsPair n = true → ∃ u, exec (.trainTransmit n) s = .next u
        ∧ u.port n = { p with train := some t', wire := if s.fcu.fatal then [] else t'.chars, rxd := none }
        ∧ u.port (n + 1) = { s.port (n + 1) with wire := if s.fcu.fatal then [] else t'.chars, rxd := none }))
    ∧ (∀ (t : Train) (line : LinkErrors), let q := 8 + (t.u + 7) / 8 * 8
      let base := n.val * 0x4000 + t.ubase + t.seq % 2 * t.n * q
      let rx := received p.wire line
      s.dualPair n = false → p.train = some t → t.sent = true →
      (rx.getLast? ≠ some .eot → exec (.trainComplete n line) s = .next s)
      ∧ (s.Clean 0x86 → rx.getLast? = some .eot →
        (∀ k, k < t.n → ∃ x, (t.slots rx [])[k]? = some x ∧ x.present = true ∧ x.crcOk = true) →
        ∃ u, exec (.trainComplete n line) s = .next u ∧ (u.port n).train = none ∧ (u.port n).done = t.seq
        ∧ (u.port n).slotmap = 0 ∧ (u.port n).crce = p.crce ∧ (u.port n).sloterr = min 0xFFFF p.sloterr
        ∧ (u.port n).eotOk = true ∧ (u.port n).st = p.st
        ∧ (∀ k x i b, k < t.n → (t.slots rx [])[k]? = some x →
          (bytesLE 8 (t.seq % 256 + 256 + 512) ++ x.data.take t.u)[i]? = some b → u.memByte 0x86 (base + k * q + i) = b)
        ∧ (∀ c, let y := s.chan c
          u.chan c = if (y.rowAt s.tick).getLsbD (176 + n) then y.pulse s.tick else y)))
    ∧ (∀ (t : Train) (x : TrainRx), s.dualPair n = false → p.train = some t → p.rxd = none → s.Clean 0x86 →
      ∃ u, exec (.trainTimeout n x) s = .next u ∧ (u.port n).train = none ∧ (u.port n).done = t.seq ∧ (u.port n).eotOk = p.eotOk
      ∧ (x.got = 0 → 0 < t.n → (u.port n).crce = true ∧ (u.port n).slotmap = BitVec.ofNat 32 (2 ^ t.n - 1)
        ∧ (u.port n).sloterr = min 0xFFFF (p.sloterr + t.n)))
    ∧ (s.dualPair n = false →
      let N := (s.ringNodes n).length
      let breaks (k : Nat) : Prop := (s.node n k).sync = false ∨ (s.node n k).brk = true
      (∀ (a got : Option Byte) (loc : Nat),
        (p.sync = false ∧ got = a)
          ∨ (p.sync = true ∧ (∀ k, k < N → ¬breaks k) ∧ got = a ∧ a ≠ none)
          ∨ (p.sync = true ∧ ∃ k, k < N ∧ breaks k ∧ (∀ i, i < N → k < i → ¬breaks i)
            ∧ got = some (if (s.node n k).st = .unaddressed then 0x3F else BitVec.ofNat 8 (s.node n k).addr)) →
        (got = none ∧ loc = 0x20) ∨ (got = some (BitVec.ofNat 8 loc) ∧ loc ≤ 31) ∨ (got = some 0x3F ∧ loc = 0x3E) →
        p.en = true →
        (p.st = 2 → p.broken = false → ∃ u, exec (.breakDetected n a) s = .next u ∧ (u.port n).st = 3
          ∧ (u.port n).brk = true ∧ (u.port n).broken = true ∧ (u.port n).loca = loc ∧ (u.port n).eotOk = false
          ∧ (u.src (0xC02 + 8 * n)).sticky = true)
        ∧ (p.st = 1 ∨ p.st = 4 → p.broken = false → ∃ u, exec (.breakDetected n a) s = .next u ∧ (u.port n).st = 4
          ∧ (u.port n).loca = loc ∧ (u.port n).broken = false ∧ (u.src (0xC02 + 8 * n)).sticky = true)
        ∧ (p.broken = true → exec (.breakDetected n a) s = .next (s.updPort n fun p => { p with loca := loc })))
      ∧ (p.en = false → ∀ a, exec (.breakDetected n a) s = .next s)
      ∧ (p.sync = true → (∀ k, k < N → ¬breaks k) → exec (.breakDetected n none) s = .next s)
      ∧ (∀ b : Byte, p.sync = false → 31 < b.toNat → b ≠ 0x3F → exec (.breakDetected n (some b)) s = .next s)
      ∧ (∀ t, p.syncAt = some t → t + 320000 ≤ s.tick → p.eotOk = true → p.broken = true → p.st = 3 →
        ∃ u, exec (.breakRecovery n) s = .next u ∧ (u.port n).st = 2 ∧ (u.port n).loca = 0x3F ∧ (u.port n).broken = false
          ∧ u.tick = s.tick))
    ∧ (s.pwr.st ≠ .off → p.sync = false → exec (.syncAcquired (.port n)) s
        = .next (s.updPort n fun p => { p with sync := true, syncAt := some s.tick }))
    ∧ (s.pwr.st = .off → exec (.syncAcquired (.port n)) s = .next s)
    ∧ exec (.syncLost (.port n)) s = .next (s.updPort n fun p => { p with sync := false, syncAt := none })

/-- R295, R305 to R308, R310, R312, R313, R316, Tables 13-5, 13-7 and 13-10: a Penrid node of a ring that is no dual ring, and ENUM
on ring B of one that is. A train with a valid header has its slot filled by an OPERATIONAL node, which keeps its command where the
block's CRC is good; any other train is only forwarded, with ERR for what came damaged; a sample goes into the slot of the train
that carries it, and sample and apply act at an armed node; SAFE or a silent TNODE drives the safe states; a management command acts where it is addressed and goes on with its
answer, an ENUM whose count no address is left for leaving the node UNADDRESSED; a node out of sync takes nothing, has no address
after more than 1 ms, and sends BRK with its address in place of what it would forward, which the nodes after it send on
unchanged.
The model's own choices in it: log 27. -/
def Obligations.ChainNodes : Prop :=
  ∀ (s : State) (n k : Fin 64), let x := s.node n k
    (s.dualPair n = false → s.fitted n k = true →
      (∀ (t : Train) (bad : List Nat) (other : List (Nat × Bool × Byte)), let rx := received (s.port n).wire (linkErrors bad other)
        let on := rx.map PChar.onward
        let report : List PChar := [.brk, .data (if x.st = .unaddressed then 0x3F else BitVec.ofNat 8 x.addr)]
        (s.port n).train = some t → t.sent = true →
        (x.sync = false → exec (.nodeProcessTrain n k bad other) s = .next (s.updPort n fun p => { p with wire := report }))
        ∧ (x.sync = true → (x.st ≠ .operational ∨ fieldAt rx 1 10 = none) →
          exec (.nodeProcessTrain n k bad other) s = .next (s.updPort n fun p => { p with wire := if x.brk then report else on }))
        ∧ (∀ h c d u, x.sync = true → x.st = .operational → fieldAt rx 1 10 = some h → x.conf = some c →
          confDesc c (field h 0 1 % 16) = (true, d, u) → x.armed = false →
          ∃ v, exec (.nodeProcessTrain n k bad other) s = .next v ∧ let y := v.node n k
            let blk := fieldAt rx (15 + x.addr * (d + 4)) d
            y.cmd = blk ∧ y.dscrd = blk.isNone ∧ y.armed = true ∧ y.applySafe = bitOf (field h 0 1) 7
            ∧ y.slot = (y.status (field h 1 1) ++ y.sample
                ++ List.replicate (u - (y.status (field h 1 1) ++ y.sample).length) 0).take u
            ∧ (v.port n).wire = (if x.brk then report else fillSlot on (15 + t.n * (d + 4) + x.addr * (u + 4)) y.slot)
            ∧ y.applied = x.applied ∧ y.safe = x.safe ∧ y.sample = x.sample ∧ ∀ j, j ≠ n.val → v.port j = s.port j))
      ∧ (x.armed = true →
        (∀ data, ∃ v, exec (.nodeSample n k true data) s = .next v ∧ (v.node n k).sample = data ∧ (v.node n k).nrdy = false
          ∧ (v.node n k).applied = x.applied)
        ∧ (∀ data, ∃ v, exec (.nodeSample n k false data) s = .next v ∧ (v.node n k).sample = x.sample
          ∧ (v.node n k).nrdy = true)
        ∧ (∀ (t : Train) (data : List Byte) (l r : List PChar), (s.port n).train = some t → t.sent = true →
          t.seq = field x.slot 1 1 → x.filledA = true → x.slot.length = t.u →
          (s.port n).wire = l ++ slotChars x.slot ++ r → l.length = 15 + t.n * (t.d + 4) + x.addr * (t.u + 4) →
          ∃ v, exec (.nodeSample n k true data) s = .next v ∧ let y := v.node n k
            let b := y.status t.seq ++ data
            y.slot = (b ++ List.replicate (t.u - b.length) 0).take t.u ∧ (v.port n).wire = l ++ slotChars y.slot ++ r)
        ∧ (x.applySafe = true → exec (.nodeApply n k) s
          = .next (s.updNode n k fun x => { x with armed := false, cmd := none, safe := true, applied := none }))
        ∧ (∀ c, x.applySafe = false → x.cmd = some c → exec (.nodeApply n k) s
          = .next (s.updNode n k fun x => { x with armed := false, cmd := none, safe := false, applied := some c }))
        ∧ (x.applySafe = false → x.cmd = none → exec (.nodeApply n k) s
          = .next (s.updNode n k fun x => { x with armed := false })))
      ∧ (x.st = .operational → exec (.nodeSafeTimeout n k) s
        = .next (s.updNode n k fun x => { x with safe := true, applied := none }))
      ∧ (x.sync = false → ∀ (h : MgmtTrain) (w : List Byte), exec (.enum n k h) s = .next s ∧ exec (.ident n k h) s = .next s
        ∧ exec (.config n k h w) s = .next s ∧ exec (.release n k h) s = .next s ∧ exec (.unaddr n k h) s = .next s)
      ∧ (x.sync = true → x.brk = false → ∀ (h : MgmtTrain) (w : List Byte),
        (mgmtOk h = true → (h.addr = 0xFF ∨ (x.st ≠ .unaddressed ∧ x.addr = h.addr.toNat)) →
          (h.mcmd = 1 → h.cnt.toNat ≤ 31 → ∃ v, exec (.enum n k h) s = .next v ∧ (v.node n k).st = .addressed
            ∧ (v.node n k).addr = h.cnt.toNat ∧ (v.node n k).cntOut = h.cnt + 1 ∧ (v.node n k).conf = none
            ∧ (v.node n k).safe = true ∧ (v.node n k).tx = mgmtChars (mgmtSeal { h with cnt := h.cnt + 1 }))
          ∧ (h.mcmd = 1 → 32 ≤ h.cnt.toNat → ∃ v, exec (.enum n k h) s = .next v ∧ (v.node n k).st = .unaddressed
            ∧ (v.node n k).cntOut = h.cnt + 1 ∧ (v.node n k).conf = none ∧ (v.node n k).safe = true
            ∧ (v.node n k).applied = none ∧ (v.node n k).tx = mgmtChars (mgmtSeal { h with cnt := h.cnt + 1 }))
          ∧ (h.mcmd = 2 → x.st ≠ .unaddressed → exec (.ident n k h) s = .next (s.updNode n k fun x => { x with
            resp := x.ident.take 32, tx := mgmtChars (mgmtFill h x.addr (x.ident.take 32)) }))
          ∧ (h.mcmd = 3 → x.st ≠ .unaddressed → mgmtPayloadOk h = true →
            (x.accepts h.payload = true → x.fitsB h.slots.length = true → ∃ v, exec (.config n k { h with payload := w } h.payload) s = .next v
              ∧ (v.node n k).st = .configured ∧ (v.node n k).conf = some (h.payload.take 102)
              ∧ (v.node n k).resp = [0, 0, 0, 0] ∧ (v.node n k).safe = true
              ∧ (v.node n k).tx = mgmtChars (mgmtFill h x.addr [0, 0, 0, 0]))
            ∧ (x.accepts h.payload = false ∨ x.fitsB h.slots.length = false → exec (.config n k { h with payload := w } h.payload) s
              = .next (s.updNode n k fun x => { x with
                resp := [0, 0, 0, 1], tx := mgmtChars (mgmtFill h x.addr [0, 0, 0, 1]) })))
          ∧ (h.mcmd = 4 → x.st = .configured → ∃ v, exec (.release n k h) s = .next v ∧ (v.node n k).st = .operational
            ∧ (v.node n k).conf = x.conf ∧ (v.node n k).tx = mgmtChars h)
          ∧ (h.mcmd = 5 → ∃ v, exec (.unaddr n k h) s = .next v ∧ (v.node n k).st = .unaddressed ∧ (v.node n k).safe = true
            ∧ (v.node n k).applied = none ∧ (v.node n k).tx = mgmtChars h))
        ∧ (mgmtOk h = false ∨ (h.addr ≠ 0xFF ∧ (x.st = .unaddressed ∨ x.addr ≠ h.addr.toNat)) →
          let on := s.updNode n k fun x => { x with tx := mgmtChars h }
          (h.mcmd = 1 → exec (.enum n k h) s = .next on) ∧ (h.mcmd = 2 → exec (.ident n k h) s = .next on)
          ∧ (h.mcmd = 3 → exec (.config n k { h with payload := w } h.payload) s = .next on) ∧ (h.mcmd = 4 → exec (.release n k h) s = .next on)
          ∧ (h.mcmd = 5 → exec (.unaddr n k h) s = .next on))))
    ∧ (∀ (h : MgmtTrain) (w : List Byte), (h.mcmd ≠ 1 → exec (.enum n k h) s = .next s) ∧ (h.mcmd ≠ 2 → exec (.ident n k h) s = .next s)
      ∧ (h.mcmd ≠ 3 → exec (.config n k h w) s = .next s) ∧ (h.mcmd ≠ 4 → exec (.release n k h) s = .next s)
      ∧ (h.mcmd ≠ 5 → exec (.unaddr n k h) s = .next s))
    ∧ (∀ h : MgmtTrain, let a := n.val - 1
      let j := (s.ringNodes a).length - 1 - k
      s.dualPair n = true → n.val % 2 = 1 → k < (s.ringNodes a).length → s.fitted a j = true →
      (s.node a j).syncB = true → (s.node a j).brkB = false → mgmtOk h = true → h.mcmd = 1 →
      h.addr = 0xFF → exec (.enum n k h) s = .next (s.updNode a j fun x => { x with
        cntOut := h.cnt + 1, cntB := some h.cnt.toNat, tx := mgmtChars (mgmtSeal { h with cnt := h.cnt + 1 }) }))
    ∧ (s.dualPair n = false → s.fitted n k = false → ∃ v, exec (.syncAcquired (.node n k)) s = .next v
      ∧ (v.node n k).st = .unaddressed ∧ (v.node n k).sync = true ∧ (v.node n k).safe = true
      ∧ (v.node n k).ident.length = 32 ∧ (v.node n k).ident[5]? = some 1 ∧ v.mem = s.mem)
    ∧ (s.dualPair n = false → s.fitted n k = true →
      exec (.syncAcquired (.node n k)) s = .next (s.updNode n k fun y =>
        if y.sync then y else { y with sync := true, syncAt := s.tick })
      ∧ exec (.syncLost (.node n k)) s = .next (s.updNode n k fun y =>
        if y.sync then { y with sync := false, syncAt := s.tick } else y)
      ∧ (x.sync = false → (∃ v, exec (.brk n k) s = .next v ∧
          let l : List PChar := [.brk, .data (if x.st = .unaddressed then 0x3F else BitVec.ofNat 8 x.addr)]
          v.node n k = { x with brk := true, tx := l } ∧ v.ports = s.ports ∧ v.mem = s.mem
          ∧ ∀ i, i ≠ k.val → v.node n i =
            if k.val < i ∧ i < (s.ringNodes n).length ∧ ∀ j, j < i + 1 → k.val < j →
              (s.node n j).sync = true ∧ (s.node n j).brk = false then { s.node n i with tx := l } else s.node n i)
        ∧ (x.syncAt + 320001 ≤ s.tick → ∃ v, exec (.nodeUnaddressTimeout n k) s = .next v ∧ (v.node n k).st = .unaddressed
          ∧ (v.node n k).safe = true ∧ v.tick = s.tick))
      ∧ (x.sync = true → x.brk = true → x.syncAt + 320000 ≤ s.tick →
        exec (.brkEnd n k) s = .next (s.updNode n k fun x => { x with brk := false })))

/-- R320, R321, R323, R324, R327: an Ethernet port outside a redundant pair, and the pair. A bad frame is counted; a frame that a
rule sends to a queue is stored behind its header at HEAD, or dropped where the ring is full; the next frame of a transmit
queue leaves, padded, and its slot is marked; the link goes up and down; an HSR frame is forwarded once.
The model's own choices in it: log 17, log 18. -/
def Obligations.EthernetPorts : Prop :=
  ∀ (s : State) (p : Fin 4), let e := s.eth p
    (∀ f : Frame, s.netRuns = true → e.en = true → e.link = true →
      ((f.fcsOk = false ∨ f.bytes.length + 4 < 64 ∨ 1528 < f.bytes.length + 4) →
        exec (.frameReceived p f) s = .next (s.updEth p fun e => { e with bad := satInc 16 e.bad }))
      ∧ (∀ k w, let q := s.queue p (bitsOf w 19 16)
        f.fcsOk = true → 64 ≤ f.bytes.length + 4 → f.bytes.length + 4 ≤ 1528 → s.redOf p = 0 → s.isJikar f.bytes = false →
        isArpOrEcho f.bytes = false → s.matchRule p f.bytes = some (k, w) → bitsOf w 22 21 = 0 → k < 256 →
        (q.en = true → q.held < 2 * q.npage → s.Clean 0x87 →
          ∃ t, exec (.frameReceived p f) s = .next t ∧ (t.queue p (bitsOf w 19 16)).head = (q.head + 1) % (2 * q.npage)
            ∧ (t.queue p (bitsOf w 19 16)).tail = q.tail ∧ (t.queue p (bitsOf w 19 16)).held = q.held + 1 ∧ t.memByte 0x87 (q.slotAt q.head + 3) = BitVec.ofNat 8 k
            ∧ t.memByte 0x87 (q.slotAt q.head) = BitVec.ofNat 8 f.bytes.length
            ∧ (∀ i b, f.bytes[i]? = some b → t.memByte 0x87 (q.slotAt q.head + 16 + i) = b) ∧ t.cores = s.cores)
        ∧ (q.en = true → 2 * q.npage ≤ q.held →
          exec (.frameReceived p f) s = .next (s.updQueue p (bitsOf w 19 16) fun q => { q with drop := satInc 16 q.drop })))
      ∧ (f.fcsOk = true → 64 ≤ f.bytes.length + 4 → f.bytes.length + 4 ≤ 1528 → s.redOf p = 0 → s.isJikar f.bytes = false →
        isArpOrEcho f.bytes = false → s.matchRule p f.bytes = none →
        exec (.frameReceived p f) s = .next (s.updEth p fun e => { e with nomatch_ := satInc 16 e.nomatch_ })))
    ∧ (∀ j len, let q := s.queue p (16 + j)
      let off := q.slotAt q.head
      let b := (List.range len).map fun i => s.memByte 0x87 (off + 16 + i)
      s.netSends = true → s.redOf p = 0 → e.en = true → e.link = true → s.nextTx p = some j → j < 8 → s.Clean 0x87 →
      0 < q.npage → s.memByte 0x87 off = BitVec.ofNat 8 len → s.memByte 0x87 (off + 1) = BitVec.ofNat 8 (len / 256) → 14 ≤ len →
      len ≤ 1524 → s.memByte 0x87 (off + 2) = 0 →
      ∃ t, exec (.frameTransmit p) s = .next t ∧ (t.eth p).sent = b ++ List.replicate (60 - len) 0
        ∧ (t.eth p).sentBad = false ∧ (t.queue p (16 + j)).head = (q.head + 1) % (2 * q.npage) ∧ (t.queue p (16 + j)).held = q.held - 1
        ∧ t.memByte 0x87 (off + 2) = 0x10 ∧ (∀ i, i ≠ off + 2 → t.memByte 0x87 i = s.memByte 0x87 i))
    ∧ (e.link = true → ∃ t, exec (.linkDown p) s = .next t ∧ (t.eth p).link = false
      ∧ (t.src (0xF40 + 4 * p)).sticky = true ∧ (t.eth p).sent = e.sent)
    ∧ (s.netRuns = true → e.en = true → exec (.linkUp p) s = .next (s.updEth p fun e => { e with link := true }))
    ∧ (∀ (f : Frame) (g : BitVec 16), let even := p.val / 2 * 2
      let other := 2 * even + 1 - p.val
      s.netSends = true → s.redOf p = 2 → f.fcsOk = true → 64 ≤ f.bytes.length + 4 → f.bytes.length + 4 ≤ 1528 → e.en = true → e.link = true → (s.eth other).en = true →
      (s.eth other).link = true → redSeq 2 f.bytes = some g →
      ((s.eth even).mine.contains (srcMac f.bytes, g) = false → (s.eth even).fwdSeen.contains (srcMac f.bytes, g) = false →
        ∃ t, exec (.hsrForward p f) s = .next t ∧ (t.eth other).fwd = f.bytes
          ∧ (t.eth even).fwdSeen.contains (srcMac f.bytes, g) = true)
      ∧ ((s.eth even).fwdSeen.contains (srcMac f.bytes, g) = true → exec (.hsrForward p f) s = .next s))
    ∧ (∀ (pair : Fin 2) (k : BitVec 48 × BitVec 16) (rest : List (BitVec 48 × BitVec 16)),
      (s.eth (2 * pair.val)).dups = k :: rest →
      exec (.duplicateEntryAged pair) s = .next (s.updEth (2 * pair.val) fun x => { x with
        dups := rest, fwdSeen := x.fwdSeen.filter fun e => e != k }))

/-- R328 to R332: the station ring. A frame of this device is stripped, a damaged one counted and forwarded with its check bytes
inverted, every other one forwarded in its direction; an ENUM numbers a waiting device, ends at the master that sent it, and meets
another master as a conflict; a mirror frame fires the lines that name it, once; a message fills a free slot, raises its line
and is acknowledged, and one that finds no slot is refused; the answer, while the ring runs, or its absence ends the message in
flight; a silent link is a break. The sender of a sound frame is noted as one of the ring's devices, which is this model's (log 18).
The model's own choices in it: log 18. -/
def Obligations.StationRing : Prop :=
  (∀ (s : State) (f : RingFrame) (dirB : Bool), s.netRuns = true → s.ring.st ≠ 0 →
    let heard := if s.ring.peers.contains f.src.toNat = true ∨ f.src = 0x3F then s.ring.peers else s.ring.peers ++ [f.src.toNat]
    (ringOk f = true → f.typ ≠ 3 → s.ring.ownFrame f = true → exec (.ringFrameReceived dirB f) s
      = .next (s.updRing fun x => { x with out := x.out.erase f, peers := heard }))
    ∧ (ringOk f = true → f.typ = 3 → f.b5 = 0 → s.ring.out.contains f = true → exec (.ringFrameReceived dirB f) s
      = .next (s.updRing fun x => { x with out := x.out.erase f, peers := heard }))
    ∧ (ringOk f = false → s.ring.ownFrame f = true → exec (.ringFrameReceived dirB f) s
      = .next (s.updRing fun x => { x with crce := satInc 16 x.crce }))
    ∧ (ringOk f = false → s.ring.ownFrame f = false → s.netSends = true → exec (.ringFrameReceived dirB f) s
      = .next (s.updRing fun x => { x with crce := satInc 16 x.crce, fwd := some (dirB, { f with crc := ~~~f.crc }) }))
    ∧ (ringOk f = true → f.typ.toNat < 2 → s.ring.ownFrame f = false → f.dst.toNat ≠ s.ring.addr → s.netSends = true →
      exec (.ringFrameReceived dirB f) s = .next (s.updRing fun x => { x with fwd := some (dirB, f), peers := heard }))
    ∧ (ringOk f = true → f.typ = 3 → f.b5 ≠ 0 → dirB = false →
      (s.ring.master = false → s.ring.st = 1 → s.netSends = true → ∃ t, exec (.ringFrameReceived dirB f) s = .next t
        ∧ t.ring.st = 2 ∧ t.ring.addr = f.b5.toNat % 64
        ∧ t.ring.fwd = some (false, ringSeal { f with b5 := BitVec.ofNat 8 (f.b5.toNat + 1) }))
      ∧ (s.ring.master = true → s.ring.st = 1 → f.src.toNat = s.ring.addr → f.seq.toNat = s.ring.enumSeq →
        exec (.ringFrameReceived dirB f) s = .next (s.updRing fun x => { x with
          st := 2, count := f.b5.toNat, out := x.out.drop 1, peers := heard }))
      ∧ (s.ring.master = true → s.ring.st = 1 ∨ s.ring.st = 2 → f.src.toNat ≠ s.ring.addr → s.fcu.injArm = false →
        ∃ t, exec (.ringFrameReceived dirB f) s = .next t ∧ t.ring.st = 4 ∧ t.ring.addr = 0x3F
        ∧ (t.src 0xF60).sticky = true))
    ∧ exec (.ringLinkBreak dirB) s
      = .next ((s.updRing fun x => if dirB then { x with brkb := true } else { x with brka := true }).fcuEvent 0xF61))
  ∧ (∀ (s : State), s.ringSends = true → s.ring.out.length ≤ 126 →
    ∃ t f, exec .supervisionFrame s = .next t ∧ t.ring.out = f :: f :: s.ring.out ∧ f.typ = 3 ∧ f.b5 = 0
      ∧ f.src.toNat = s.ring.addr % 64 ∧ ringOk f = true ∧ t.ring.tx = ringCodes f ∧ t.mem = s.mem)
  ∧ (∀ (s : State), s.ring.st = 1 →
    (s.ring.heard = true → s.ring.master = false → s.ring.strap ≠ 0x3F → s.ring.strapSeen = false →
      exec .ringEnumTimeout s = .next (s.updRing fun x => { x with st := 2, addr := x.strap }))
    ∧ (s.ring.heard = true → s.ring.master = false → s.ring.strap ≠ 0x3F → s.ring.strapSeen = true → s.fcu.injArm = false →
      ∃ t, exec .ringEnumTimeout s = .next t ∧ t.ring.st = 3 ∧ t.ring.addr = 0x3F ∧ (t.src 0xF60).sticky = true)
    ∧ (s.ring.heard = false ∨ s.ring.master = true ∨ s.ring.strap = 0x3F →
      exec .ringEnumTimeout s = .next (s.updRing fun x => { x with st := 3, addr := 0x3F })))
  ∧ (∀ (s : State) (src : BitVec 6) (line : BitVec 4) (seq : Byte), s.ringRunning = true →
    let key := src.toNat * 16 + line.toNat
    let seen := Tbl.get [] s.ring.mseen key
    (seen.contains seq.toNat = true → exec (.mirrorFrameReceived src line seq) s = .next s)
    ∧ (∀ k, seen.contains seq.toNat = false → k < 16 →
      (∀ j, j < 16 → (Tbl.get (false, 0, 0) s.ring.min j = (true, src.toNat, line.toNat) ↔ j = k)) →
      exec (.mirrorFrameReceived src line seq) s
        = .next ((s.updRing fun x => { x with
            mseen := Tbl.set x.mseen key ((seq.toNat :: seen).take 128) }).pulse (496 + k))))
  ∧ (∀ (s : State) (m : Fin 16) (src : BitVec 6) (srcMb : BitVec 4) (seq : Byte) (msg : List Byte), let b := s.mbox m
    let key := src.toNat * 16 + srcMb.toNat
    let seen := Tbl.get [] b.taken key
    s.ringSends = true → m.val < 15 → b.en = true → 0 < msg.length → msg.length ≤ 256 → s.ring.out.length ≤ 126 →
    (seen.contains seq.toNat = true → exec (.mailboxMessageReceived m src srcMb seq msg) s = .next s)
    ∧ (seen.contains seq.toNat = false → b.ihead < 7 → b.full.getLsbD b.ihead = false → s.Clean 0x87 →
      ∃ t f, exec (.mailboxMessageReceived m src srcMb seq msg) s = .next t
        ∧ (∀ i c, msg[i]? = some c → t.memByte 0x87 (b.page * 4096 + 512 * (b.ihead + 1) + 4 + i) = c)
        ∧ (t.mbox m).full = b.full ||| (1#7 <<< b.ihead) ∧ (t.mbox m).ihead = (b.ihead + 1) % 7
        ∧ (Tbl.get [] (t.mbox m).taken key).contains seq.toNat = true ∧ t.ring.out = f :: f :: s.ring.out ∧ f.typ = 1
        ∧ f.dst.toNat = src.toNat ∧ f.seq = seq ∧ f.payload = [1] ∧ ringOk f = true
        ∧ t.ridges = (s.line (0x1C0 + m)).ridges)
    ∧ (seen.contains seq.toNat = false → (∀ i, i < 7 → b.full.getLsbD i = true) →
      ∃ t f, exec (.mailboxMessageReceived m src srcMb seq msg) s = .next t ∧ (t.mbox m).full = b.full
        ∧ t.ring.out = f :: f :: s.ring.out ∧ f.typ = 1 ∧ f.payload = [0] ∧ t.mem = s.mem))
  ∧ (∀ (s : State) (m : Fin 16), (s.mbox m).busy = true →
    (∀ stored, s.netRuns = true → ∃ t, exec (.mailboxAck m stored) s = .next t ∧ (t.mbox m).busy = false
      ∧ (t.mbox m).result = (if stored then 1 else 2) ∧ t.mem = s.mem)
    ∧ (∀ stored, s.netRuns = false → exec (.mailboxAck m stored) s = .next s)
    ∧ (∃ t, exec (.mailboxTimeout m) s = .next t ∧ (t.mbox m).busy = false ∧ (t.mbox m).result = 3))

/-- R333, R334, R340, R391, Table 14-6: the host port. Each read command answers what it names and STATUS clears ERR; a
command cut short sets ERR; a packet with a good CRC waits in the port where TXFREE is 1, and any other sets ERR; a reply leaves
with its length and CRC and is released; the waiting packet enters a command queue that has room.
The model's own choices in it: log 25. -/
def Obligations.HostPortCommands : Prop :=
  ∀ (s : State), s.netRuns = true →
    exec .readId s = .next { s with host := { s.host with out := be deviceId } }
    ∧ exec .readIdCut s = .next { s with host := { s.host with err := true, out := [] } }
    ∧ exec .statusCut s = .next { s with host := { s.host with err := true, out := [] } }
    ∧ exec (.readPkt false) s = .next { s with host := { s.host with err := true, out := [] } }
    ∧ (∀ len pkt crc, exec (.writePkt len pkt crc false) s = .next { s with host := { s.host with err := true } })
    ∧ (∀ len pkt crc, s.txFree = false ∨ 4128 < len.toNat ∨ pkt.length ≠ len.toNat →
      exec (.writePkt len pkt crc true) s = .next { s with host := { s.host with err := true } })
    ∧ (exec .status s = .next { s with host := { s.host with
        err := false
        out := [BitVec.ofNat 8 ((if s.host.replies.isEmpty then 0 else 1) + (if s.txFree then 2 else 0)
          + (if s.host.err then 4 else 0))] } })
    ∧ (∀ (len : BitVec 16) (pkt : List Byte) (crc : Word), len.toNat ≤ 4128 → pkt.length = len.toNat → s.txFree = true →
      (crc.toNat = crc32c (bytesBE 2 len.toNat ++ pkt) →
        exec (.writePkt len pkt crc true) s = .next { s with host := { s.host with inp := some pkt } })
      ∧ (crc.toNat ≠ crc32c (bytesBE 2 len.toNat ++ pkt) →
        exec (.writePkt len pkt crc true) s = .next { s with host := { s.host with err := true } }))
    ∧ (∀ r rest, s.host.replies = r :: rest → exec (.readPkt true) s = .next { s with host := { s.host with
        replies := rest, out := bytesBE 2 r.length ++ r ++ bytesBE 4 (crc32c (bytesBE 2 r.length ++ r)) } })
    ∧ (∀ b, s.host.inp = some b → s.cairn.queue.length < 32 → s.cairn.ready = true →
      ∃ t, exec .hostPacketEnqueue s = .next t ∧ t.host.inp = none
        ∧ t.cairn.queue = s.cairn.queue ++ [{ via := .host, bytes := b }] ∧ t.cairn.dropped = s.cairn.dropped)

/-- R337 to R345, R348, R349: packets, sessions and replies. A reply takes SEQ of the device and is kept for a repeat; a full queue
drops a packet and counts it; a packet that fails a step of R341 is counted and nothing else, but for a repeat whose reply is still
kept, which is sent again; HELLO adds a confirming session,
CONFIRM opens it, CLOSE and the timeouts end it; an opcode that step 5 refuses gets its status; a job that has come to its end joins the finished ones with its status, and one that
has not runs on.
The model's own choices in it: log 11, log 20, log 25. -/
def Obligations.JikarSessions : Prop :=
  (∀ (s : State) (sid : BitVec 32) (x : Session) (cseq flags op status : Nat) (data : List Byte), s.session sid = some x →
    x.dseq < 2 ^ 32 → s.host.replies.length < 4 → data.length ≤ 4088 →
    let d := if status = stOk ∨ status = stAccepted then data else []
    let pay := replyPrefix status cseq ++ d
    let pkt := sealPacket x.kd x.sd (packetHeader flags sid.toNat x.dseq op pay.length) pay x.dseq
    let t := s.reply sid cseq .host flags op status data true
    t.host.replies = s.host.replies ++ [pkt]
    ∧ t.session sid = some { x with dseq := x.dseq + 1, kept := ((cseq, pkt) :: x.kept).take 8 } ∧ t.mem = s.mem)
  ∧ (∀ (s : State) (p : Packet), s.cairn.ready = true →
    (s.cairn.queue.length < 32 → exec (.commandQueueEntry p) s = .next (s.updCairn fun c => { c with queue := c.queue ++ [p] }))
    ∧ (32 ≤ s.cairn.queue.length → p.via ≠ .host →
      exec (.commandQueueEntry p) s = .next (s.updCairn fun c => { c with dropped := satInc 16 c.dropped })))
  ∧ (∀ (s : State) (p : Packet) (rest : List Packet), let s' := s.updCairn fun c => { c with queue := rest }
    let b := p.bytes
    let sid := BitVec.ofNat 32 (field b 4 4)
    let seq := field b 8 4
    let cipher := (b.drop 16).take (field b 14 2)
    s.cairn.queue = p :: rest → s.cairnServes = true → s.cairnWaits = false →
    (packetWellFormed p = false → exec .packetProcessing s
      = .next (s'.updCairn fun c => { c with malformed := satInc 16 c.malformed }))
    ∧ (packetWellFormed p = true → field b 12 2 ≠ 1 → s.session sid = none → exec .packetProcessing s
      = .next (s'.updCairn fun c => { c with authfail := satInc 16 c.authfail }))
    ∧ (∀ x, packetWellFormed p = true → field b 12 2 ≠ 1 → s.session sid = some x →
      gcmTagBytes x.kc (packetNonce x.sc seq) (b.take 16) cipher ≠ b.drop (16 + field b 14 2) → exec .packetProcessing s
      = .next (s'.updCairn fun c => { c with authfail := satInc 16 c.authfail }))
    ∧ (∀ x, packetWellFormed p = true → field b 12 2 ≠ 1 → s.session sid = some x →
      gcmTagBytes x.kc (packetNonce x.sc seq) (b.take 16) cipher = b.drop (16 + field b 14 2) →
      (∀ e, x.isNew seq = false → (x.kept.find? fun e => e.1 == seq) = some e →
        exec .packetProcessing s = .next (s'.sendOn p.via e.2))
      ∧ (x.isNew seq = true → exec .packetProcessing s
        = .next ((s'.updSession sid fun x => x.accept seq p.via).runOp { session := sid, seq := BitVec.ofNat 32 seq, via := p.via }
          (field b 12 2) (gcmCrypt x.kc (packetNonce x.sc seq) cipher)))
      ∧ (x.isNew seq = false → (∀ e ∈ x.kept, e.1 ≠ seq) → exec .packetProcessing s
        = .next (s'.updCairn fun c => { c with replay := satInc 16 c.replay }))))
  ∧ (∀ (s : State) (p : Packet), s.cairnServes = true →
    (helloWellFormed p = false → exec (.hello p) s = .next (s.updCairn fun c => { c with malformed := satInc 16 c.malformed }))
    ∧ (helloWellFormed p = true → s.helloRefusal p = none → ∃ t x, exec (.hello p) s = .next t
      ∧ t.cairn.sessions = s.cairn.sessions ++ [x] ∧ x.open_ = false ∧ x.sid ≠ 0 ∧ s.session x.sid = none ∧ x.dseq = 1
      ∧ x.role = s.helloRole p ∧ x.kept = []))
  ∧ (∀ (s : State) (o : Origin) (x : Session),
    (s.Admits o 0x0002 x → exec (.confirm o) s
      = .next ((s.updSession o.session fun x => { x with open_ := true }).answered o 0x0002 stOk []))
    ∧ (s.Admits o 0x0003 x → exec (.close o) s = .next ((s.answered o 0x0003 stOk []).endSession o.session))
    ∧ (s.Admits o 0x0004 x → exec (.identify o) s = .next (s.answered o 0x0004 stOk s.identity))
    ∧ (s.Admits o 0x0005 x → exec (.sessionInfo o) s = .next (s.answered o 0x0005 stOk (s.sessionData o)))
    ∧ (∀ job j, s.Admits o 0x0006 x → (s.cairn.jobs.find? fun j => j.num == job.toNat) = none →
      (s.cairn.finished.find? fun j => j.num == job.toNat) = some j →
      exec (.jobStatus o job) s = .next (s.answered o 0x0006 stOk (j.data false (j.status.getD 0))))
    ∧ (∀ data, s.Admits o 0x0007 x → data.length ≤ 64 → exec (.ping o data) s = .next (s.answered o 0x0007 stOk data))
    ∧ (∀ data e, s.cairnServes = true → s.session o.session = some x → s.gateOp x 0x0007 = some e →
      exec (.ping o data) s = .next (s.answered o 0x0007 e [])))
  ∧ (∀ (s : State) (sid : BitVec 32) (x : Session), s.session sid = some x → s.ast.batch = none →
    (∃ t, exec (.sessionIdleTimeout sid) s = .next t ∧ t.session sid = none ∧ t.mem = s.mem)
    ∧ (x.open_ = false → ∃ t, exec (.confirmTimeout sid) s = .next t ∧ t.session sid = none)
    ∧ (x.open_ = true → exec (.confirmTimeout sid) s = .next s))
  ∧ (∀ (s : State) (src : BitVec 6), ∃ t, exec (.reassemblyTimeout src) s = .next t
    ∧ Tbl.find t.cairn.frags src.toNat = none ∧ Tbl.find t.cairn.fragIdx src.toNat = none ∧ t.mem = s.mem)
  ∧ (∀ (s : State) (num : Byte) (j : Job), s.cairnServes = true → (s.cairn.jobs.find? fun j => j.num == num.toNat) = some j →
    let ended (t : State) (st : Nat) : Prop := exec (.jobCompletion num) s = .next t
      ∧ (t.cairn.jobs.find? fun j => j.num == num.toNat) = none
      ∧ t.cairn.finished.head? = some { j with status := some st, pct := 100 }
    let goesOn : Prop := exec (.jobCompletion num) s = .next s
    (∀ slot, j.work = .imgErase slot → ∃ t, ended t stOk ∧ Tbl.get none t.nvm.images slot.toNat = none)
    ∧ (∀ slot pm dm dig sid, j.work = .imgEnd slot → s.cairn.img = some (slot.toNat, pm, dm, dig, sid) →
      (∀ l, bufBytes s.cairn.imgBuf (pm + dm) = some l → Config.sha384 l = dig → ∃ t, ended t stOk
        ∧ Tbl.get none t.nvm.images slot.toNat = some { pm := l.take pm, dm := l.drop pm, digest := dig } ∧ t.cairn.img = none)
      ∧ (bufBytes s.cairn.imgBuf (pm + dm) = none → ∃ t, ended t stImageBad ∧ Tbl.get none t.nvm.images slot.toNat = none))
    ∧ (∀ ridge kind c0 c1 c2 attr policy slot start, j.work = .form ridge kind c0 c1 c2 attr policy slot start →
      (∀ e, j.status = some e → ∃ t, ended t e ∧ t.ridges = s.ridges)
      ∧ (j.status = none → (s.ridge ridge.toNat).st ≠ .loading → ∃ t, ended t stAborted ∧ t.ridges = s.ridges)
      ∧ (j.status = none → (s.ridge ridge.toNat).st = .loading → ∃ t, ended t stOk
        ∧ t.ridge ridge.toNat = { s.ridge ridge.toNat with st := .ready }))
    ∧ (∀ ridge slot start, j.work = .reload ridge slot start → j.status = none → let st := (s.ridge ridge.toNat).st
      (st ≠ .ready → st ≠ .halted → ∃ t, ended t stAborted ∧ t.ridges = s.ridges)
      ∧ (st = .ready ∨ st = .halted → ∃ t, ended t stOk
        ∧ t.ridge ridge.toNat = { s.ridge ridge.toNat with st := .ready, image := slot.toNat, start := start }))
    ∧ (∀ ridge, j.work = .dissolve ridge → ((s.ridge ridge.toNat).st = .free → ∃ t, ended t stOk)
      ∧ ((s.ridge ridge.toNat).st ≠ .free → goesOn))
    ∧ (∀ d x added old e, j.work = .astCommit d x added old → j.status = some e → ∃ t, ended t e)
    ∧ (∀ port learn, j.work = .chpEnum port learn → ∃ t, ended t stOk)
    ∧ (∀ n, j.work = .checkerTest n → (s.injDone j = true → ∃ t, ended t stOk) ∧ (s.injDone j = false → goesOn))
    ∧ (∀ core, j.work = .coreTest core → (j.status ≠ none → ∃ t, ended t stOk) ∧ (j.status = none → goesOn))
    ∧ (∀ len dig, j.work = .fwEnd → s.cairn.fw = some (len, dig) → let l := (List.range len).filterMap (chunkByte s.cairn.fwBuf)
      (l.length ≠ len → ∃ t, ended t stImageBad ∧ t.nvm.fwStandby = s.nvm.fwStandby)
      ∧ (l.length = len → Config.sha384 l = dig → Config.fwSigned l = true → ∃ t, ended t stOk
        ∧ t.nvm.fwStandby = some { bytes := l, version := Config.fwVersion l, epoch := Config.fwEpoch l }
        ∧ t.nvm.fwActive = s.nvm.fwActive))
    ∧ (j.work = .fwActivate → (∀ e, j.status = some e → ∃ t, ended t e) ∧ (j.status = none → goesOn))
    ∧ (∀ target, j.work = .lcAdvance target →
      (s.nvm.lc < target.toNat → s.pwr.st = .run → ∃ t, exec (.jobCompletion num) s = .next t ∧ t.nvm.lc = target.toNat
        ∧ t.nvm.keys = [] ∧ t.pwr.wipeBusy = true ∧ t.cairn.jobs = s.cairn.jobs ∧ ∀ i, i < 262144 → t.memByte 0x88 i = 0)
      ∧ (s.nvm.lc = target.toNat → s.pwr.wipeBusy = true → goesOn)
      ∧ (s.nvm.lc = target.toNat → s.pwr.wipeBusy = false → ∃ t, ended t stOk ∧ t.cairn.sessions = []
        ∧ ∀ r, r < 64 → (s.ridge r).st ≠ .free → (s.ridge r).st ≠ .dissolving → (t.ridge r).secure = false))
    ∧ (j.work = .vaultWipe →
      (s.pwr.wiped = true → s.pwr.wipeBusy = false → s.pwr.wipeDue = false → ∃ t, ended t stOk ∧ t.mem = s.mem)
      ∧ (s.pwr.wiped = false → goesOn)))

/-- R146 to R150, R251, R252, R350 to R352: the ridge commands of a session that may run them, where the checks pass and the
journal takes the record (u is the state after the commit).
The model's own choices in it: log 26, log 31. -/
def Obligations.JikarRidgeCommands : Prop :=
  ∀ (s u : State) (o : Origin) (x : Session) (ridge : Byte), let r := ridge.toNat
    (∀ kind c0 c1 c2 attr policy slot zero start, s.Admits o 0x0101 x →
      (s.formParamsOk ridge kind c0 c1 c2 attr policy slot zero start = false →
        exec (.ridgeForm o ridge kind c0 c1 c2 attr policy slot zero start) s = .next (s.answered o 0x0101 stBadParam []))
      ∧ (s.formParamsOk ridge kind c0 c1 c2 attr policy slot zero start = true → s.pwr.st = .run → s.nvm.identity = true →
        s.check146 r kind.toNat (formCores kind c0 c1 c2) (attr.getLsbD 1) = none → s.cairn.jobs = [] →
        s.cairn.fwSwap = false → s.commit [.form ridge kind c0 c1 c2 attr policy slot start] = (none, u) →
        u.imageGood slot.toNat = true →
        ∃ t, exec (.ridgeForm o ridge kind c0 c1 c2 attr policy slot zero start) s = .next t ∧ (t.ridge r).st = .loading
          ∧ (t.ridge r).kind = kind.toNat ∧ (t.ridge r).start = start ∧ (t.ridge r).outen = false
          ∧ (t.ridge r).priv = attr.getLsbD 0 ∧ (t.ridge r).secure = attr.getLsbD 1 ∧ (t.ridge r).haltcause = 0
          ∧ (t.ridge r).maxrst = policy.toNat / 16 ∧ (t.ridge r).restart = policy.getLsbD 0
          ∧ (∀ k c, (formCores kind c0 c1 c2)[k]? = some c → (t.core c).st = .member ∧ (t.core c).ridge = r
            ∧ (t.core c).slot = k ∧ (t.ridge r).members[k]? = some (true, c))
          ∧ t.cairn.jobs.length = 1 ∧ t.mem = s.mem))
    ∧ (s.Admits o 0x0102 x → r < 64 → s.cairn.jobs = [] → (s.ridge r).underTest = 0 → s.pwr.st = .run → s.fcu.fatal = false →
      (s.ridge r).testFailed = false → (s.ridge r).dissolve = false → (s.ridge r).st = .ready ∨ (s.ridge r).st = .halted →
      (s.ridge r).draining = false → s.commit [.release ridge] = (none, u) → (∀ m ∈ (s.ridge r).valid, s.Clean (0x40 + m.2)) →
      ∃ t, exec (.ridgeRelease o ridge) s = .next t ∧ (t.ridge r).st = .running ∧ (t.ridge r).rstcnt = 0
        ∧ (t.ridge r).outen = false ∧ (∀ m ∈ (s.ridge r).valid, (t.core m.2).pc = (s.ridge r).start &&& ~~~3#32)
        ∧ (t.ridge r).wdt.n = 0 ∧ (t.ridge r).members = (s.ridge r).members ∧ t.mem = s.mem)
    ∧ (s.Admits o 0x0103 x → r < 64 → (s.ridge r).running = true → s.commit [.halt ridge] = (none, u) →
      ∃ t, exec (.ridgeHalt o ridge) s = .next t ∧ (t.ridge r).st = .halted ∧ (t.ridge r).haltcause = 7
        ∧ (t.ridge r).outen = false ∧ (t.ridge r).draining = true ∧ (t.ridge r).queue = (s.ridge r).queue ∧ t.mem = s.mem)
    ∧ (s.Admits o 0x0104 x → r < 64 → s.cairn.jobs = [] → s.cairn.fwSwap = false → s.commit [.dissolve ridge] = (none, u) →
      ((s.ridge r).running = true → ∃ t, exec (.ridgeDissolve o ridge) s = .next t ∧ (t.ridge r).st = .halted
        ∧ (t.ridge r).haltcause = 7 ∧ (t.ridge r).dissolve = true ∧ (t.ridge r).priv = false ∧ (t.ridge r).secure = false
        ∧ (t.ridge r).wdt = Wdt.reset)
      ∧ ((s.ridge r).st = .ready ∨ (s.ridge r).st = .halted → (s.ridge r).draining = false → (s.ridge r).valid ≠ [] →
        ∃ t, exec (.ridgeDissolve o ridge) s = .next t ∧ (t.ridge r).st = .dissolving ∧ (t.ridge r).outen = false
          ∧ (∀ m ∈ (s.ridge r).valid, (t.core m.2).st = .clearing) ∧ (∀ c, (t.chan c).owner ≠ some r)
          ∧ (∀ p, (t.port p).owner ≠ some r) ∧ (∀ p, (t.gp p).owner ≠ some r) ∧ t.cairn.jobs.length = 1))
    ∧ (s.Admits o 0x0105 x → r < 64 → exec (.ridgeStatus o ridge) s = .next (s.answered o 0x0105 stOk
      (be (s.ridge r).status ++ be (s.ridge r).membersReg ++ be (s.ridge r).voteInfo ++ be (s.ridge r).votePc)))
    ∧ (∀ policy : Byte, s.Admits o 0x0106 x → r < 64 → policy.toNat % 16 / 2 = 0 → s.cairn.jobs = [] → (s.ridge r).st ≠ .free →
      s.commit [.policy ridge policy] = (none, u) → exec (.ridgePolicy o ridge policy) s
        = .next ((u.updRidge r fun x => { x with maxrst := policy.toNat / 16, restart := bitOf policy.toNat 0 }).answered o
          0x0106 stOk []))
    ∧ (∀ (slot : Byte) (start : Word), s.Admits o 0x0107 x → r < 64 → slot.toNat < 64 →
      (Tbl.get none s.nvm.images slot.toNat).isSome = true → start.toNat % 4 = 0 → start.toNat ≤ 0x17FFF → s.cairn.jobs = [] →
      s.cairn.fwSwap = false → s.pwr.st = .run → (s.ridge r).underTest = 0 → (s.ridge r).testFailed = false →
      (s.ridge r).dissolve = false →
      (s.ridge r).st = .ready ∨ (s.ridge r).st = .halted → (s.ridge r).draining = false →
      s.commit [.reload ridge slot start] = (none, u) → u.imageGood slot.toNat = true →
      exec (.ridgeReload o ridge slot start) s = .next (u.started o 0x0107 (.reload ridge slot start)))
    ∧ (∀ (kind : Byte) (index : BitVec 16), s.Admits o 0x0108 x → assignIndexOk kind.toNat index.toNat = true →
      s.cairn.jobs = [] → s.commit [.assign kind index ridge] = (none, u) →
      (r < 64 → (s.ridge r).st ≠ .free → (kind.toNat = 4 → (s.ridge r).massif = index.toNat / 4) →
        (kind.toNat = 6 → let q := s.queue (index.toNat / 32) (index.toNat % 32)
          s.queuePages q.page q.npage (some r) = true) →
        s.ownerOf kind.toNat index.toNat = none →
        ∃ t, exec (.assign o kind index ridge) s = .next t ∧ t.ownerOf kind.toNat index.toNat = some r ∧ t.ridges = s.ridges)
      ∧ (ridge = 0xFF → ∃ t, exec (.assign o kind index ridge) s = .next t ∧ t.ownerOf kind.toNat index.toNat = none))
    ∧ (∀ (massif region : Byte) (cfg rdlo rdhi wrlo wrhi : Word), s.Admits o 0x0109 x → massif.toNat < 4 → region.toNat < 32 →
      s.commit [.memRegion massif region cfg rdlo rdhi wrlo wrhi] = (none, u) →
      exec (.memRegion o massif region cfg rdlo rdhi wrlo wrhi) s
        = .next ((u.updMassif massif.toNat fun x => { x with
            regions := Tbl.set x.regions region.toNat { en := bitOf cfg.toNat 31, limit := bitsOf cfg.toNat 24 16
                                                        base := bitsOf cfg.toNat 8 0, rd := rdhi ++ rdlo, wr := wrhi ++ wrlo } }).answered o 0x0109 stOk []))
    ∧ (∀ massif bank en : Byte, s.Admits o 0x010A x → massif.toNat < 4 → bank.toNat < 32 → en.toNat ≤ 1 → r < 64 →
      s.commit [.memBankown massif bank en ridge] = (none, u) → exec (.memBankown o massif bank en ridge) s
        = .next ((u.updMassif massif.toNat fun x => { x with
            bankOwn := Tbl.set x.bankOwn bank.toNat (en.toNat == 1, r) }).answered o 0x010A stOk []))

/-- R211, R212, R238, R281, R288, R353, R354: the image, angle, schedule and channel commands of a session that may run them, where
the checks pass and the journal takes the record (u is the state after the commit).
The model's own choices in it: log 26. -/
def Obligations.JikarTableCommands : Prop :=
  ∀ (s u : State) (o : Origin) (x : Session),
    (∀ (slot : Byte) (pm dm : Word) (dig : BitVec 384), s.Admits o 0x0201 x → slot.toNat < 64 → pm.toNat ≤ 98304 →
      dm.toNat ≤ 131072 → s.slotUsed slot.toNat = false → s.slotHeld slot.toNat = false → s.cairn.img = none →
      exec (.imgBegin o slot pm dm dig) s = .next ((s.updCairn fun c => { c with
        img := some (slot.toNat, pm.toNat, dm.toNat, dig, o.session), imgBuf := [] }).answered o 0x0201 stOk []))
    ∧ (∀ (slot : Byte) (off : Word) (data : List Byte) pm dm dig, s.Admits o 0x0202 x →
      s.cairn.img = some (slot.toNat, pm, dm, dig, o.session) → off.toNat % 8 = 0 → off.toNat + data.length ≤ pm + dm →
      (data.length % 8 = 0 ∨ off.toNat + data.length = pm + dm) → exec (.imgData o slot off data) s
        = .next ((s.updCairn fun c => { c with imgBuf := bufWrite c.imgBuf (off.toNat / 8) data }).answered o 0x0202 stOk []))
    ∧ (∀ (slot : Byte) pm dm dig, s.Admits o 0x0203 x → s.cairn.img = some (slot.toNat, pm, dm, dig, o.session) →
      s.cairn.jobs = [] → s.cairn.fwSwap = false → s.commit [.other 0x0203] = (none, u) →
      exec (.imgEnd o slot) s = .next (u.started o 0x0203 (.imgEnd slot)))
    ∧ (s.Admits o 0x0204 x → exec (.imgList o) s = .next (s.answered o 0x0204 stOk
      ((List.range 64).flatMap fun n => imgEntry (Tbl.get none s.nvm.images n))))
    ∧ (∀ slot : Byte, s.Admits o 0x0205 x → slot.toNat < 64 → s.slotUsed slot.toNat = false → s.cairn.jobs = [] →
      s.cairn.img = none → s.cairn.fwSwap = false → s.commit [.other 0x0205] = (none, u) →
      exec (.imgErase o slot) s = .next (u.started o 0x0205 (.imgErase slot)))
    ∧ (∀ (d : Byte) (cfg evpc phase offset hold fnom ftol lock accept ptp : Word),
      let w := [cfg, evpc, phase, offset, hold, fnom, ftol, lock, accept, ptp]
      s.Admits o 0x0301 x → d.toNat < 8 → ((s.dom d.toNat).stg.ofWords w).ok = true → s.cairn.jobs = [] →
      s.commit [.adConfig d w] = (none, u) →
      exec (.adConfig o d cfg evpc phase offset hold fnom ftol lock accept ptp) s
        = .next ((u.updDom d.toNat fun x => { x with stg := x.stg.ofWords w, commitReq := x.st == .off }).answered o 0x0301 stOk []))
    ∧ (∀ (d : Byte) (off : BitVec 24), s.Admits o 0x0302 x → d.toNat < 8 → s.cairn.jobs = [] →
      s.commit [.adOffset d off] = (none, u) → exec (.adOffset o d off) s
        = .next ((u.updDom d.toNat fun x => { x with offStg := if off = 0 then none else some off }).answered o 0x0302 stOk []))
    ∧ (∀ d : Byte, s.Admits o 0x0303 x → d.toNat < 8 → exec (.adStatus o d) s = .next (s.answered o 0x0303 stOk
      (s.regBytes ([0x40, 0x44, 0x48, 0x4C, 0x50, 0x54, 0x58].map (· + 0x100000 + d.toNat * 0x100)))))
    ∧ (∀ (d : Byte) (X : BitVec 16), s.Admits o 0x0304 x → d.toNat < 8 → s.ast.batch = none → exec (.astOpen o d X) s
      = .next (State.answered { s with ast := { s.ast with batch := some (o.session, d.toNat, X.toNat, []) } } o 0x0304 stOk []))
    ∧ (∀ d X l recs, s.Admits o 0x0305 x → s.ast.batch = some (o.session, d, X, l) → l.length + recs.length ≤ 8192 →
      recs.all AstRec.formOk = true → exec (.astAdd o recs) s
        = .next (State.answered { s with ast := { s.ast with batch := some (o.session, d, X, l ++ recs) } } o 0x0305 stOk
          (bytesBE 2 (l.length + recs.length))))
    ∧ (∀ d X recs, s.Admits o 0x0306 x → s.ast.batch = some (o.session, d, X, recs) → s.pwr.st = .run → s.cairn.jobs = [] →
      s.cairn.fwSwap = false → s.checkBatch d X recs = none → 2 ≤ (X + 2 ^ 16 - (s.dom d).cyc) % 2 ^ 16 →
      (X + 2 ^ 16 - (s.dom d).cyc) % 2 ^ 16 ≤ 32767 →
      State.commit { s with ast := { s.ast with batch := none } } [.astBatch d X recs] = (none, u) →
      ∃ t, exec (.astCommit o) s = .next t ∧ t.ast.batch = none ∧ t.ast.busy = true ∧ t.ast.editDom = d ∧ t.ast.result = 0
        ∧ t.ast.xcyc = X ∧ t.cairn.jobs.length = 1)
    ∧ (∀ b, s.Admits o 0x0307 x → s.batchOf o.session = some b → exec (.astDiscard o) s
      = .next (State.answered { s with ast := { s.ast with batch := none } } o 0x0307 stOk []))
    ∧ (∀ (first : Word) (count : Byte), s.Admits o 0x0308 x → s.pwr.st = .run → 0 < count.toNat → count.toNat ≤ 64 →
      first.toNat + count.toNat ≤ 2 ^ 19 → s.Clean 0x84 → exec (.astRead o first count) s
        = .next (s.answered o 0x0308 stOk ((List.range count.toNat).flatMap fun k =>
          (List.range 4).flatMap fun j => bytesBE 4 (s.wordData 0x84 (2 * (first.toNat + k) + j / 2) / 2 ^ (32 * (j % 2))))))
    ∧ (∀ d : Byte, s.Admits o 0x0309 x → d.toNat < 8 → exec (.astStats o d) s = .next (s.answered o 0x0309 stOk
      (s.regBytes (0x101000 :: [0, 4, 8, 0xC].map (· + 0x101100 + d.toNat * 0x20)))))
    ∧ (∀ (ch : Byte) (cfg cons : Word), s.Admits o 0x0401 x → s.checkChannel ch.toNat cfg cons = none →
      s.commit [.chConfig ch cfg cons] = (none, u) → ∃ t, exec (.chConfig o ch cfg cons) s = .next t
        ∧ (t.chan ch.toNat).owner = cfgOwner cfg ∧ (t.chan ch.toNat).sec = cfg.getLsbD 30
        ∧ (t.chan ch.toNat).automask = cfg.getLsbD 29 ∧ (t.chan ch.toNat).lim = cfg.toNat % 512
        ∧ (t.chan ch.toNat).ckind = cons.toNat / 2 ^ 12 % 8 ∧ (t.chan ch.toNat).param = cons.toNat / 2 ^ 10 % 4
        ∧ (t.chan ch.toNat).cindex = cons.toNat % 1024 ∧ (t.chan ch.toNat).row = (s.chan ch.toNat).row
        ∧ (∀ c, c ≠ ch.toNat → t.chan c = s.chan c))
    ∧ (∀ (ch : Byte) (row : BitVec 512), s.Admits o 0x0402 x →
      s.checkRow (s.chan ch.toNat).owner (s.chan ch.toNat).sec row = none → s.commit [.chRow ch row] = (none, u) →
      exec (.chRow o ch row) s = .next ((u.updChan ch.toNat fun x => x.change u.tick fun x => { x with row := row }).answered
        o 0x0402 stOk []))
    ∧ (∀ ch : Byte, s.Admits o 0x0403 x → exec (.chStatus o ch) s = .next (s.answered o 0x0403 stOk
      (s.regBytes ([0, 4, 8, 0xC].map (· + 0x110000 + ch.toNat * 0x10) ++
        (List.range 16).map fun w => 0x114000 + ch.toNat * 0x40 + 4 * w))))

/-- R192, R271 to R273, R298, R356, R357, R372, R384, R385, R435: the chain, fault and test commands of a session that may run them,
where the checks pass and the journal takes the record (u is the state after the commit).
The model's own choices in it: log 24, log 26. -/
def Obligations.JikarFaultCommands : Prop :=
  ∀ (s u : State) (o : Origin) (x : Session),
    (∀ (port : Byte) (cfg : Word) (w : List Word), s.Admits o 0x0501 x → port.toNat < 64 → w.length = 48 → s.cairn.jobs = [] →
      s.descsOk port.toNat (bitsOf cfg.toNat 23 16) (bitOf cfg.toNat 30) w = true → cfg.getLsbD 30 = false →
      cfg.getLsbD 31 = false → (s.port port.toNat).en = false → (s.port port.toNat).st = 0 →
      s.commit [.chpConfig port cfg w] = (none, u) → ∃ t, exec (.chpConfig o port cfg w) s = .next t
        ∧ (t.port port.toNat).en = false ∧ (t.port port.toNat).tmo = cfg.toNat / 2 ^ 16 % 256
        ∧ (t.port port.toNat).nexp = cfg.toNat % 64
        ∧ (∀ k, k < 16 → Tbl.get Desc.reset (t.port port.toNat).descs k = Desc.ofWords w k)
        ∧ (t.port port.toNat).st = 0 ∧ t.nodes = s.nodes)
    ∧ (∀ port : Byte, s.Admits o 0x0502 x → port.toNat < 64 → s.cairn.jobs = [] → s.cairn.fwSwap = false →
      (s.port port.toNat).en = true → ∃ t, exec (.chpEnum o port 0) s = .next t ∧ (t.port port.toNat).st = 1
        ∧ t.cairn.jobs.length = 1)
    ∧ (∀ port node : Byte, s.Admits o 0x0503 x → port.toNat < 64 → node.toNat < 32 → exec (.chpNode o port node) s
      = .next (s.answered o 0x0503 stOk (Tbl.get (List.replicate 32 0) (s.port port.toNat).idents node.toNat
        ++ be (Tbl.get 0 (s.port port.toNat).ntab node.toNat))))
    ∧ (∀ port : Byte, s.Admits o 0x0504 x → port.toNat < 64 → exec (.chpStatus o port) s = .next (s.answered o 0x0504 stOk
      (s.regBytes ([4, 8, 0xC, 0x10, 0x14, 0x18].map (· + 0x200000 + port.toNat * 0x1000)))))
    ∧ (s.Admits o 0x0601 x → exec (.fcuRead o) s = .next (s.answered o 0x0601 stOk s.stickyBytes))
    ∧ (∀ l, s.Admits o 0x0602 x → (∀ n ∈ l, n.toNat < 4096 ∧ ((srcInfo n.toNat).1 = 1 ∨ (srcInfo n.toNat).1 = 2)) →
      ∃ t, exec (.fcuClear o l) s = .next t ∧ (∀ n ∈ l, (t.src n.toNat).sticky = false)
        ∧ (∀ n, (∀ k ∈ l, k.toNat ≠ n) → t.src n = s.src n) ∧ t.fcu.last = s.fcu.last ∧ t.mem = s.mem)
    ∧ (∀ (n : BitVec 16) (m : Byte), s.Admits o 0x0603 x → checkMask n.toNat m.toNat = none →
      s.commit [.fcuReact n m] = (none, u) → ∃ t, exec (.fcuReact o n m) s = .next t ∧ t.maskOf n.toNat = BitVec.ofNat 5 m.toNat
        ∧ t.nvm.records = s.nvm.records ++ [.fcuReact n m])
    ∧ (∀ (n : BitVec 16) (m : Byte), s.Admits o 0x0603 x → n.toNat < 4096 → m.toNat < 32 → (srcInfo n.toNat).1 = 3 →
      exec (.fcuReact o n m) s = .next (s.answered o 0x0603 stBadState []))
    ∧ (∀ (first : Word) (count : Byte), s.Admits o 0x0604 x → 0 < count.toNat → count.toNat ≤ 32 →
      exec (.logRead o first count) s = .next (s.answered o 0x0604 stOk
        (((s.nvm.log ++ s.fcu.pendLog).filter fun r => decide (first.toNat ≤ r.num ∧ r.num < first.toNat + count.toNat)).flatMap
          LogRec.bytes)))
    ∧ (∀ kind i : Byte, s.Admits o 0x0605 x → i.toNat < statCount kind.toNat →
      exec (.statClear o kind i) s = .next (if s.statHeld kind.toNat i.toNat = true then s.answered o 0x0605 stBusy []
        else (s.clearStats kind.toNat i.toNat).answered o 0x0605 stOk []))
    ∧ (∀ (mem op : Byte) (word : Word) (data : BitVec 64) (check : Byte), s.Admits o 0x0606 x → word.toNat < memWords mem.toNat →
      64 ≤ mem.toNat → op = 1 ∨ op = 2 → s.eccMayAct mem.toNat = true → s.ecc.busy = false →
      exec (.eccTest o mem op word data check) s = .next (s.updEcc fun e => { e with
        tMem := mem.toNat, tWord := word.toNat, td := data, chk := check, op := op.toNat, busy := true, origin := some o }))
    ∧ (∀ (mem : Byte) (word : Word) (a b : Byte), s.Admits o 0x0607 x → word.toNat < memWords mem.toNat → 64 ≤ mem.toNat →
      mem ≠ 0x88 → a.toNat ≤ 71 → b.toNat ≤ 71 → exec (.eccInject o mem word 1 a 1 b) s
        = .next ((s.updEcc fun e => { e with
            injArm := true, injEna := true, injEnb := true, injMem := mem.toNat
            injWord := word.toNat, injA := a.toNat, injB := b.toNat }).answered o 0x0607 stOk []))
    ∧ (∀ n : BitVec 16, s.Admits o 0x0608 x → n.toNat < 4096 → (srcInfo n.toNat).2 = true → s.cairn.jobs = [] →
      s.cairn.fwSwap = false → ∃ t, exec (.checkerTest o n) s = .next t ∧ t.fcu.injArm = true ∧ t.fcu.injSrc = n.toNat
        ∧ t.fcu.injHit = false ∧ t.fcu.injMode = false ∧ t.cairn.jobs.length = 1)
    ∧ (∀ j a, s.cairn.jobs = [j] → j.isChecker = true → Tbl.get (0, none) s.fcu.injJobs j.num = (a, none) →
      a + 32000000 ≤ s.tick → ∃ t, exec .checkerTestTimeout s = .next t ∧ t.cairn.jobs = []
        ∧ (s.fcu.injAt = some j.num → t.fcu.injArm = false) ∧ (s.fcu.injAt ≠ some j.num → t.fcu.injArm = s.fcu.injArm)
        ∧ t.cairn.finished.head? = some { j with status := some stTimeout, pct := 100 })
    ∧ (∀ core : Byte, s.Admits o 0x0701 x → core.toNat < 64 → s.cairn.jobs = [] → s.cairn.fwSwap = false → s.pwr.st = .run →
      (s.core core.toNat).st = .spare ∨ (s.core core.toNat).st = .free → ∃ t, exec (.coreTest o core) s = .next t
        ∧ (t.core core.toNat).st = .test ∧ (t.core core.toNat).bStatus = 1 ∧ (t.core core.toNat).testFor = some .spare
        ∧ t.cairn.jobs.length = 1)
    ∧ (∀ (m en pairs : Byte) (step : BitVec 16), s.Admits o 0x0702 x → m.toNat < 4 → en.toNat ≤ 1 → pairs.toNat ≤ 1 →
      s.commit [.rotConfig m en pairs step] = (none, u) → exec (.rotConfig o m en pairs step) s
        = .next ((u.updMassif m.toNat fun x => { x with
            rotEn := en.toNat == 1, rotPairs := pairs.toNat == 1, rotStep := step.toNat }).answered o 0x0702 stOk []))
    ∧ (∀ m prio delay : Byte, s.Admits o 0x0703 x → m.toNat < 4 → prio.toNat ≤ 2 → s.commit [.colConfig m prio delay] = (none, u) →
      exec (.colConfig o m prio delay) s
        = .next ((u.updMassif m.toNat fun x => { x with prio := prio.toNat, prioDelay := delay.toNat }).answered o 0x0703 stOk []))
    ∧ (∀ m : Byte, s.Admits o 0x0704 x → m.toNat < 4 → let b := 0x40000 + m.toNat * 0x1000
      exec (.testStatus o m) s = .next (s.answered o 0x0704 stOk (s.regBytes ([0xE04, 0xE08, 0xE0C, 0xE10].map (· + b) ++
        (List.range 16).map (fun i => b + 0xE40 + 4 * i) ++ (List.range 16).map fun i => b + 0xF00 + 4 * i))))

/-- R331, R332, R346, R358, R359, R390, R397 to R401, R409: the firmware, credential, lifecycle, vault and ring commands of a session
that may run them, where the checks pass and the journal takes the record (u is the state after the commit); the swap and the
epoch that follow an activation. The credential table is held in the vault (held), or there is no power to it. SR_FORWARD names a
device that the ring is known to have, which is refused where it names none.
The model's own choices in it: log 7, log 11, log 18, log 20, log 26. -/
def Obligations.JikarSystemCommands : Prop :=
  ∀ (s u : State) (o : Origin) (x : Session), let held := s.pwr.st = .run → s.pwr.vaultId = true
    (∀ (len : Word) (dig : BitVec 384), s.Admits o 0x0801 x → len.toNat ≤ 196608 → s.cairn.jobs = [] →
      exec (.fwBegin o len dig) s
        = .next ((s.updCairn fun c => { c with fw := some (len.toNat, dig), fwBuf := [] }).answered o 0x0801 stOk []))
    ∧ (∀ (off : Word) (data : List Byte) len dig, s.Admits o 0x0802 x → s.cairn.fw = some (len, dig) → s.cairn.jobs = [] →
      off.toNat + data.length ≤ len → exec (.fwData o off data) s
        = .next ((s.updCairn fun c => { c with fwBuf := (off.toNat, data) :: c.fwBuf }).answered o 0x0802 stOk []))
    ∧ (s.Admits o 0x0803 x → s.cairn.fw ≠ none → s.cairn.jobs = [] → s.cairn.fwSwap = false →
      exec (.fwEnd o) s = .next (s.started o 0x0803 .fwEnd))
    ∧ (∀ f b, s.Admits o 0x0804 x → s.nvm.fwStandby = some f → s.fwGood f = true → s.nvm.board = some b → s.cairn.jobs = [] →
      s.cairn.fwSwap = false → (s.loadFirmware f).commit [.other 0x0804] (b.pHold * 5000) = (none, u) → ∃ t, exec (.fwActivate o) s = .next t
        ∧ t = ((u.updNvm fun v => { v with fwRole := !v.fwRole }).updCairn fun c => { c with fwSwap := true }).started o 0x0804 .fwActivate
        ∧ t.nvm.fwActive = some f ∧ t.nvm.fwStandby = s.nvm.fwActive
        ∧ t.nvm.fwActiveB = s.nvm.fwStandbyB ∧ t.nvm.fwStandbyB = s.nvm.fwActiveB)
    ∧ (∀ f j, s.nvm.fwActive = some f → s.cairn.jobs = [j] → j.work = .fwActivate → s.cairn.fwSwap = true →
      s.cairnRuns = true → s.cairn.recovery = false → ∃ t, exec .firmwareSwap s = .next t ∧ t.nvm = s.nvm
        ∧ t.pwr.fwVer = f.version ∧ t.cairn.fwSwap = false ∧ t.cairn.jobs = [] ∧ t.cairn.swapAt = some s.tick)
    ∧ (∀ a f, s.cairn.swapAt = some a → s.cairnServes = true → a + 60 * 320000000 ≤ s.tick → s.nvm.fwActive = some f →
      ∃ t, exec .epochRaise s = .next t ∧ t.cairn.swapAt = none
        ∧ t.nvm.fwEpoch = (if s.nvm.lc = 2 then max s.nvm.fwEpoch f.epoch else s.nvm.fwEpoch))
    ∧ (∀ f, s.Admits o 0x0805 x → s.nvm.jused < 3072 → s.nvm.fwStandby = some f →
      ∃ data, exec (.nvmStatus o) s = .next (s.answered o 0x0805 stOk data)
      ∧ data.take 36 = s.regBytes ((List.range 8).map fun i => 0x700000 + 4 * i) ++ bytesBE 4 f.version.toNat)
    ∧ (∀ (cred : Word) (role : Byte) (key : List Byte), s.Admits o 0x0901 x → cred ≠ 0 → cred ≠ 0xFFFFFFFF → role.toNat ≤ 3 →
      Config.pointOk key = true → (∀ e ∈ s.nvm.creds, e.1 ≠ cred) →
      (held → s.nvm.creds.length < 64 →
        s.commit [.other 0x0901] = (none, u) → exec (.credAdd o cred role key) s
          = .next ((u.updNvm fun v => { v with creds := v.creds ++ [(cred, role.toNat, key)], sealHalf := 1 - v.sealHalf }).answered
            o 0x0901 stOk []))
      ∧ (¬held → exec (.credAdd o cred role key) s = .next (s.answered o 0x0901 stBadState [])))
    ∧ (∀ cred : Word, s.Admits o 0x0902 x → (∃ e ∈ s.nvm.creds, e.1 = cred) → held → s.commit [.other 0x0902] = (none, u) →
      ∃ t, exec (.credRevoke o cred) s = .next t ∧ t.nvm.creds = s.nvm.creds.filter (fun e => e.1 != cred)
        ∧ ∀ y ∈ t.cairn.sessions, y.cred ≠ cred)
    ∧ (s.Admits o 0x0903 x → held → exec (.credList o) s = .next (s.answered o 0x0903 stOk
      (BitVec.ofNat 8 s.nvm.creds.length :: s.nvm.creds.flatMap fun e => be e.1 ++ [BitVec.ofNat 8 e.2.1])))
    ∧ (s.Admits o 0x0903 x → ¬held → exec (.credList o) s = .next (s.answered o 0x0903 stBadState []))
    ∧ (∀ target : Byte, s.Admits o 0x0904 x → s.lcAllowed target.toNat = true → s.cairn.jobs = [] → s.cairn.fwSwap = false →
      s.commit [.lcAdvance target s.nvm.serial] = (none, u) → exec (.lcAdvance o target s.nvm.serial) s
        = .next (u.started o 0x0904 (.lcAdvance target)))
    ∧ (∀ (slot : Byte) (c tag : List Byte), let k := wrapKey x.kc slot.toNat
      let nonce := List.replicate 8 0 ++ be o.seq
      s.Admits o 0x0905 x → slot.toNat < 16 → c.length = 32 → tag = gcmTagBytes k nonce [] c → s.nvm.tepoch < 64 →
      s.pwr.tamperPend = false → s.nvm.keySeal = some (s.nvm.lc, s.nvm.tepoch) → s.commit [.other 0x0905] = (none, u) →
      ∃ t, exec (.vaultKey o slot (c ++ tag ++ List.replicate 16 0)) s = .next t
        ∧ Tbl.get [] t.nvm.keys slot.toNat = gcmCrypt k nonce c ∧ t.nvm.keySeal = some (s.nvm.lc, s.nvm.tepoch)
        ∧ (s.pwr.st ≠ .run → t.mem = s.mem)
        ∧ (s.pwr.st = .run → s.pwr.wipeBusy = true → t.mem = s.mem
          ∧ Tbl.get [] t.pwr.lateKeys slot.toNat = gcmCrypt k nonce c)
        ∧ (s.pwr.st = .run → s.pwr.wipeBusy = false → s.Clean 0x88 → ∀ i, i < 32 →
          (gcmCrypt k nonce c)[i]? = some (t.memByte 0x88 (0x3FE00 + 32 * slot.toNat + i))))
    ∧ (s.Admits o 0x0906 x → s.cairn.jobs = [] → s.cairn.fwSwap = false → s.pwr.st = .run → ∃ t, exec (.vaultWipe o) s = .next t
      ∧ t.pwr.wipeBusy = true ∧ t.pwr.wiped = false ∧ (∀ i, i < 262144 → t.memByte 0x88 i = 0) ∧ t.cairn.jobs.length = 1)
    ∧ (s.Admits o 0x0907 x → s.nvm.lc = 0 ∨ s.nvm.lc = 3 → s.pwr.st = .run → ∃ t, exec (.scanEnable o) s = .next t
      ∧ t.pwr.wipeBusy = true ∧ bitOf t.pwr.wipeThen 0 = true ∧ t.pwr.scanen = s.pwr.scanen
      ∧ (∀ n, n < 64 → (t.port n).en = false) ∧ (∀ r, r < 64 → (t.ridge r).running = false))
    ∧ (s.Admits o 0x0A01 x → exec (.srStatus o) s = .next (s.answered o 0x0A01 stOk (s.regBytes [0x310000, 0x310004])))
    ∧ (∀ k src line en : Byte, s.Admits o 0x0A02 x → k.toNat < 16 → src.toNat < 64 → line.toNat < 16 → en.toNat ≤ 1 →
      s.commit [.srMirror k src line en] = (none, u) → exec (.srMirror o k src line en) s
        = .next ((u.updRing fun x => { x with min := Tbl.set x.min k.toNat (en.toNat == 1, src.toNat, line.toNat) }).answered o
          0x0A02 stOk []))
    ∧ (∀ mb owner peer peerMb page : Byte, s.Admits o 0x0A03 x → mb.toNat < 15 → owner.toNat < 64 → peer.toNat < 64 →
      peerMb.toNat < 16 → page.toNat < 128 → (s.ridge owner.toNat).st ≠ .free → (s.mbox mb.toNat).owner = none →
      Tbl.get none s.pages page.toNat = some owner.toNat → s.commit [.srMailbox mb owner peer peerMb page] = (none, u) →
      exec (.srMailbox o mb owner peer peerMb page) s
        = .next ((u.updMbox mb.toNat fun b => { b with
            en := true, owner := some owner.toNat, peer := peer.toNat
            peerMb := peerMb.toNat, page := page.toNat }).answered o 0x0A03 stOk []))
    ∧ (∀ (addr : Byte) (inner : List Byte), s.Admits o 0x0A04 x → let a := addr.toNat
      let known := a < s.ring.count ∨ (s.ring.addr = a ∧ a ≠ 0x3F) ∨ s.ring.peers.contains a = true
      (a < 64 → known → inner.length ≤ 1472 → s.cairn.fwds = [] → exec (.srForward o addr inner) s
        = .next ((s.ringPacket a inner).updCairn fun c => { c with fwds := [(a, o)] }))
      ∧ (64 ≤ a ∨ ¬known → exec (.srForward o addr inner) s = .next (s.answered o 0x0A04 stBadParam []))
      ∧ (a < 64 → known → 1472 < inner.length → exec (.srForward o addr inner) s = .next (s.answered o 0x0A04 stBadLen [])))
    ∧ (∀ addr : BitVec 6, s.cairn.fwds = [(addr.toNat, o)] → exec (.srForwardTimeout addr) s
      = .next (State.reply (s.updCairn fun c => { c with fwds := [] }) o.session o.seq.toNat o.via 0x80 0x0A04 stTimeout [] true))

/-- R268, R269, R377, R380 to R382, R389, R391, R399 to R404, R407: resets, start-up and power states. What POR and a chip reset leave
and keep; the loop source in place of a fourth chip reset within 60 s; recovery, STANDBY and RUN at start-up; brown-out, its end
and a wake; the hold-up registers; a tamper, a wipe's end and the loss of power.
The model's own choices in it: log 7, log 19, log 20, log 35. -/
def Obligations.PowerAndResets : Prop :=
  ∀ (s : State), let enough (b : Board) (tp code : Nat) : Prop :=
      (b.eRes tp + b.eCommit tp) * (b.eAvail code).2 ≤ (b.eAvail code).1
    (∀ bootsel srmaster sraddr, ∃ t, exec (.por bootsel srmaster sraddr) s = .next t ∧ t.pwr.st = .standby ∧ t.cairn.ready = false
      ∧ t.fcu.fatal = false ∧ t.fcu.srcs = [] ∧ t.cores = [] ∧ t.ridges = [] ∧ t.chans = []
      ∧ (∀ m off, isClassB m = false → t.memByte m off = 0 ∧ t.memSyn m off = 0) ∧ t.pwr.classB = false ∧ t.nvm.lc = s.nvm.lc
      ∧ t.nvm.journal = s.nvm.journal ∧ t.nvm.log = s.nvm.log ∧ t.ring.master = srmaster ∧ t.ring.strap = sraddr.toNat
      ∧ t.pwr.bootsel = bootsel.toNat)
    ∧ (∀ bootsel, (s.fcu.fatal = true → ∀ b, exec (.chipReset b bootsel) s = .next s)
      ∧ (s.fcu.fatal = false → s.pwr.st ≠ .off → ∃ t, exec (.chipReset .xres bootsel) s = .next t ∧ t.pwr.st = .standby
        ∧ t.cairn.ready = false ∧ t.cores = [] ∧ t.ridges = [] ∧ t.chans = [] ∧ t.fcu.srcs = s.fcu.srcs
        ∧ (∀ m off, m < 0x80 → off < 2 ^ 23 → t.memByte m off = 0)
        ∧ (∀ m off, 0x80 ≤ m → off < 2 ^ 23 → t.memByte m off = s.memByte m off) ∧ (∀ p, (t.gp p).safe = (s.gp p).safe)
        ∧ t.nvm.lc = s.nvm.lc ∧ t.nvm.journal = s.nvm.journal)
      ∧ (s.fcu.fatal = false → s.pwr.st ≠ .off → s.fcu.crstDue = true →
        (s.fcu.crstAt.length < 3 → ∃ t, exec (.chipReset .crst bootsel) s = .next t ∧ t.fcu.crstDue = false ∧ t.cores = []
          ∧ t.fcu.crstcnt = satInc 4 s.fcu.crstcnt ∧ t.fcu.crstAt = s.tick :: s.fcu.crstAt)
        ∧ (∀ a, s.fcu.crstAt[2]? = some a → s.tick < a + 60 * 320000000 → ∃ t, exec (.chipReset .crst bootsel) s = .next t
          ∧ t.fcu.fatal = true ∧ (t.src 0xFAC).sticky = true ∧ t.fcu.crstDue = false ∧ t.mem = s.mem)))
    ∧ (s.pwr.st = .standby → s.cairn.ready = false → s.pwr.pfail = false →
      (s.cairn.recovery = true → exec .startUp s = .next s)
      ∧ (s.pwr.bootsel = 2 → s.cairn.recovery = false →
        ∃ t, exec .startUp s = .next t ∧ t.cairn.recovery = true ∧ t.cairn.ready = false ∧ t.ridges = s.ridges)
      ∧ (∀ f, s.cairn.recovery = false → s.pwr.bootsel ≠ 2 →
        (s.pwr.bootsel ≠ 1 → s.nvm.sfdpA.isSome = true ∧ s.nvm.fwActive = some f) →
        (s.pwr.bootsel = 1 → s.nvm.sfdpB.isSome = true ∧ s.nvm.fwActiveB = some f) → s.fwGood f = true → s.fcu.fatal = false →
        (s.nvm.board = none → ∃ t, exec .startUp s = .next t ∧ t.cairn.ready = true ∧ t.cairn.recovery = false
          ∧ t.pwr.st = .standby ∧ t.pwr.vret = true ∧ t.pwr.fwVer = f.version ∧ t.pwr.classB = true ∧ t.pwr.brdok = false
          ∧ ∀ i, i < 262144 → t.memByte 0x88 i = 0)
        ∧ (∀ b tp, s.nvm.board = some b → b.bistEn = false → s.nvm.tpp = some tp → enough b tp s.pwr.sense → ∃ t, exec .startUp s = .next t
          ∧ t.cairn.ready = true ∧ t.pwr.st = .run ∧ t.pwr.vret = false ∧ t.pwr.fwVer = f.version ∧ t.pwr.brdok = true)))
    ∧ (s.netRuns = true → ∃ t, exec .brownoutEntry s = .next t ∧ t.pwr.st = .brownout ∧ t.pwr.pfail = true ∧ t.pwr.vret = true
      ∧ t.pwr.wipeBusy = false ∧ (∀ i, i < 262144 → t.memByte 0x88 i = 0) ∧ t.cairn.halted = true ∧ t.cairn.sessions = [] ∧ t.fcu.pendLog = [] ∧ (∀ r, t.ridge r = Ridge.reset)
      ∧ (∀ c, (t.core c).st = .free ∨ (t.core c).st = .quarantined ∨ (t.core c).st = .failed))
    ∧ (s.netRuns = false → exec .brownoutEntry s = .next s)
    ∧ (s.pwr.st = .brownout → s.pwr.flushed = true → ∃ t, exec .brownoutExit s = .next t ∧ t.pwr.st = .standby
      ∧ t.pwr.pfail = false ∧ t.cairn.halted = false ∧ t.mem = s.mem ∧ t.nvm = s.nvm)
    ∧ (s.pwr.st = .standby → s.cairn.ready = true → s.pwr.pfail = false → s.cairn.halted = false →
      (∀ a older, s.pwr.samples = (a + 32000000, true) :: older → older.contains (a, true) = true → ∃ t, exec .wake s = .next t
        ∧ t.pwr.st = .run ∧ t.pwr.vret = false ∧ t.pwr.samples = []
        ∧ (journalRidges s.nvm.records = [] → ∀ m off, m < 0x80 → off < memWords m * wordBytes m → t.memByte m off = 0)
        ∧ (journalRidges s.nvm.records = [] → s.nvm.keys = [] → ∀ i, i < 262144 → t.memByte 0x88 i = 0))
      ∧ (∀ a ok older, s.pwr.samples = (a, ok) :: older → older.contains (a - 32000000, true) = false → exec .wake s = .next s)
      ∧ (∀ a older, s.pwr.samples = (a, false) :: older → exec .wake s = .next s))
    ∧ (∀ code : BitVec 12, s.cairnRuns = true →
      (∀ b tp, s.tick % 320000 = 0 → (∀ ok, s.pwr.samples.head? ≠ some (s.tick, ok)) → s.nvm.board = some b → s.nvm.tpp = some tp →
        ∃ t ok, exec (.holdupSample code) s = .next t ∧ t.tick = s.tick
        ∧ t.pwr.code = code.toNat ∧ t.pwr.eavail = (b.eAvail code.toNat).1 / (b.eAvail code.toNat).2 / 1000 % 2 ^ 32
        ∧ t.pwr.eres = b.eRes tp / 1000 % 2 ^ 32 ∧ t.pwr.ecommit = b.eCommit tp / 1000 % 2 ^ 32
        ∧ t.pwr.samples = ((s.tick, ok) :: s.pwr.samples).take 101 ∧ (ok = true ↔ enough b tp code.toNat)
        ∧ ((b.eAvail code.toNat).1 < b.eRes tp * (b.eAvail code.toNat).2 → (t.src 0xF74).sticky = true)
        ∧ (b.eRes tp * (b.eAvail code.toNat).2 ≤ (b.eAvail code.toNat).1 → t.fcu = s.fcu))
      ∧ ((∀ e ∈ s.doms, e.2.st = .off ∧ e.2.commitReq = false) → s.BallsQuiet → s.fcu.injArm = false → s.tick % 320000 ≠ 0 → s.pwr.samples = [] →
        ∃ t, exec (.holdupSample code) s = .next t ∧ t.tick = s.tick + (320000 - s.tick % 320000) ∧ t.pwr.code = code.toNat))
    ∧ (∀ code : BitVec 12, s.cairnRuns = false → exec (.holdupSample code) s = .next (s.updPwr fun p => { p with sense := code.toNat }))
    ∧ (∀ w : Fin 2, s.pwr.st ≠ .off → ∃ t, exec (.tamper w) s = .next t ∧ t.pwr.tamperPend = true ∧ t.pwr.wiped = false
      ∧ (w = 0 → t.pwr.tamp0 = true) ∧ (w = 1 → t.pwr.tamp1 = true) ∧ (t.src (0xF7C + w)).sticky = true
      ∧ (s.pwr.st = .run → t.pwr.wipeBusy = true ∧ ∀ i, i < 262144 → t.memByte 0x88 i = 0)
      ∧ (s.pwr.st ≠ .run → t.pwr.wipeDue = true ∧ t.mem = s.mem))
    ∧ (s.pwr.wipeBusy = true → s.fcu.injArm = false →
      (s.pwr.wipeThen = 0 → s.vaultZero = true → s.pwr.lateKeys = [] →
        exec (.wipeComplete true) s = .next (s.updPwr fun p => { p with wipeBusy := false, wiped := true }))
      ∧ (∀ i, i < 262144 → s.memByte 0x88 i ≠ 0 → ∃ t, exec (.wipeComplete true) s = .next t ∧ t.pwr.wiped = false
        ∧ t.fcu.fatal = true ∧ (t.src 0xF7E).sticky = true)
      ∧ (∀ k key, s.pwr.wipeThen = 0 → s.vaultZero = true → s.pwr.lateKeys = [(k, key)] → k < 16 → key.length = 32 → s.MemWf →
        s.ecc.injArm = false → s.pwr.st = .run →
        ∃ t, exec (.wipeComplete true) s = .next t ∧ t.pwr.wiped = true ∧ t.pwr.lateKeys = []
          ∧ ∀ i, i < 32 → key[i]? = some (t.memByte 0x88 (0x3FE00 + 32 * k + i)))
      ∧ (s.pwr.wipeThen = 1 → s.vaultZero = true → ∃ t, exec (.wipeComplete true) s = .next t ∧ t.pwr.scanen = true ∧ t.pwr.wiped = true)
      ∧ (s.pwr.wipeThen = 0 → ∃ t, exec (.wipeComplete false) s = .next t ∧ t.pwr.wiped = false ∧ t.fcu.fatal = true
        ∧ (t.src 0xF7E).sticky = true))
    ∧ (s.pwr.wipeBusy = false → ∀ b, exec (.wipeComplete b) s = .next s)
    ∧ ∃ t, exec .powerOff s = .next t ∧ t.pwr.st = .off ∧ t.cores = [] ∧ t.mem = [] ∧ t.nvm.lc = s.nvm.lc
      ∧ t.nvm.journal = s.nvm.journal

/-- R169, R259, R361 to R366, R371, R377 to R379, R406, R426, Tables 16-1, 16-2 and 17-1: the ridge watchdog's samples and periods,
Cairn's watchdog, CRSTCNT, ALIVE, the fault log's batches, the monitors, the GP inputs and random hardware faults.
The model's own choices in it: log 22, log 23, log 34. -/
def Obligations.FaultsAndMonitors : Prop :=
  (∀ (s : State) (r : Fin 64), let w := (s.ridge r).wdt
    let req := if w.req = 0 then 1 else w.req
    s.wdtCounts r = true →
    (∀ k, (k ≤ w.n ∧ ¬(w.fresh = true ∧ k = 0)) ∨ w.p < k → exec (.checkInSample r k) s = .next s)
    ∧ (∀ k, (w.n < k ∨ (w.fresh = true ∧ k = 0)) → k ≤ w.p → (w.checkins = [] → exec (.checkInSample r k) s
        = .next (s.updWdt r fun w => { w with n := min k 0x3FFFFFF, fresh := false }))
      ∧ (∀ b, w.checkins = [b] → w.w ≤ k → ∃ t, exec (.checkInSample r k) s = .next t ∧ let v := (t.ridge r).wdt
        v.done = w.done ||| (b &&& req) ∧ v.checkins = [] ∧ v.failed = w.failed ∧ v.early = w.early ∧ v.req = w.req
        ∧ v.repeat_ = (w.repeat_ || b &&& req &&& w.done != 0) ∧ v.n = min k 0x3FFFFFF ∧ v.fresh = false ∧ t.fcu = s.fcu ∧ t.mem = s.mem)
      ∧ (∀ b, w.checkins = [b] → k < w.w → b &&& req ≠ 0 → w.failed = false → ∃ t, exec (.checkInSample r k) s = .next t
        ∧ let v := (t.ridge r).wdt
          v.done = w.done ∧ v.early = true ∧ v.failed = true ∧ v.warn = true ∧ (t.src (0x800 + 8 * r)).sticky = true))
    ∧ (w.failed = false → req &&& ~~~w.done = 0 → exec (.periodEnd r) s = .next (s.updWdt r fun v =>
        { v with lastGood := true, lastDone := w.done, done := 0, failed := false, n := 0, fresh := false, miss := false }))
    ∧ (w.failed = false → req &&& ~~~w.done ≠ 0 → w.miss = false → ∃ t, exec (.periodEnd r) s = .next t
      ∧ let v := (t.ridge r).wdt
        v.lastGood = false ∧ v.lastDone = w.done ∧ v.done = 0 ∧ v.miss = true ∧ v.warn = true ∧ v.n = 0
        ∧ (t.src (0x800 + 8 * r)).sticky = true)
    ∧ ((w.failed = true ∨ req &&& ~~~w.done ≠ 0) → w.miss = true → ∃ t, exec (.periodEnd r) s = .next t
      ∧ (t.ridge r).st = .halted ∧ (t.ridge r).haltcause = 5 ∧ (t.ridge r).wdt.rststg = true ∧ (t.ridge r).outen = false
      ∧ (t.src (0x800 + 8 * r + 1)).sticky = true ∧ t.mem = s.mem))
  ∧ (∀ (s : State),
    (s.cairnRuns = true → s.fcu.fatal = false → (s.maskOf 0xF72).getLsbD 3 = true → ∃ t, exec .cairnWatchdogExpiry s = .next t
      ∧ (t.src 0xF72).sticky = true ∧ t.fcu.crstDue = true ∧ t.fcu.crstCairn = true ∧ t.fcu.last = some 0xF72 ∧ t.mem = s.mem)
    ∧ (∀ a l, s.fcu.crstAt = a :: l → a + 60 * 320000000 ≤ s.tick →
      exec .crstcntExpiry s = .next (s.updFcu fun u => { u with crstcnt := 0, crstAt := [] }))
    ∧ (s.aliveOn = true → exec .aliveToggle s = .next (s.updFcu fun u => { u with alive := !u.alive }))
    ∧ (s.aliveOn = false → exec .aliveToggle s = .next s)
    ∧ (s.cairnRuns = true → exec .keepalive s = .next (s.updFcu fun u => { u with keep := true }))
    ∧ exec .keepaliveTimeout s = .next (s.updFcu fun u => { u with keep := false })
    ∧ (s.cairnRuns = true → 32 ≤ s.fcu.pendLog.length → (∀ a, s.pwr.logRetry = some a → a ≤ s.tick) →
      (∀ u, s.marker 0 = (none, u) → exec .faultLogBatch s
        = .next (((u.updNvm fun v => { v with log := addLog v.log (u.fcu.pendLog.take 64) }).updFcu fun x =>
          { x with pendLog := x.pendLog.drop 64 }).updPwr fun p => { p with logRetry := none }))
      ∧ (∀ u e, s.marker 0 = (some e, u) →
        exec .faultLogBatch s = .next (u.updPwr fun p => { p with logRetry := some (s.tick + 320000000) })))
    ∧ (s.pwr.st ≠ .off → s.fcu.injArm = false →
      (∀ temps volts, temps.length = 8 → volts.length = 6 → (∀ v ∈ temps, -640 ≤ v.toInt ∧ v.toInt ≤ 1920) →
        (∀ k v, volts[k]? = some v → 94 * s.supplyLevel k ≤ 100 * v.toNat ∧ 100 * v.toNat ≤ 106 * s.supplyLevel k) →
        exec (.monitorSample temps volts) s = .next { s with
          mon := { temps := (List.range 8).map (fun k => (k, temps[k]?)), volts := (List.range 6).map fun k => (k, volts[k]?) } })
      ∧ (∀ temps volts k v, k < 8 → temps[k]? = some v → 2080 < v.toInt → ∃ t, exec (.monitorSample temps volts) s = .next t
        ∧ t.fcu.fatal = true ∧ (t.src (0xF91 + 2 * k)).sticky = true ∧ (t.src (0xF90 + 2 * k)).sticky = true)
      ∧ ∃ t u v w, exec (.clockOrPinMonitorTrip .pllLost) s = .next t ∧ exec (.clockOrPinMonitorTrip .refclk) s = .next u
        ∧ exec (.clockOrPinMonitorTrip .wdosc) s = .next v ∧ exec (.clockOrPinMonitorTrip .pinReadback) s = .next w
        ∧ (t.src 0xF88).sticky = true ∧ (u.src 0xF89).sticky = true ∧ (v.src 0xF8A).sticky = true ∧ (w.src 0xF8B).sticky = true
        ∧ t.fcu.fatal = true ∧ u.fcu.fatal = true ∧ v.fcu.fatal = true ∧ w.fcu.fatal = true))
  ∧ (∀ (s : State) (p : Fin 96) (level : Bool), s.pwr.st ≠ .off → let g := s.gp p
    let u := s.updGp p fun g => { g with inp := level, edgeAt := none }
    (g.inp = level ∨ s.gpLevel p = some (!level) → exec (.gpInputEdge p level) s = .next s)
    ∧ (g.inp ≠ level → s.gpLevel p ≠ some (!level) → 0 < g.filt →
      exec (.gpInputEdge p level) s = .next (s.updGp p fun g => { g with inp := level, edgeAt := some (s.tick + g.filt) }))
    ∧ (g.inp ≠ level → s.gpLevel p ≠ some (!level) → g.filt = 0 → g.edge.getLsbD (if level then 0 else 1) = true →
      exec (.gpInputEdge p level) s = .next ((u.pulse (384 + p)).line (0x280 + p)))
    ∧ (g.inp ≠ level → s.gpLevel p ≠ some (!level) → g.filt = 0 → g.edge.getLsbD (if level then 0 else 1) = false →
      exec (.gpInputEdge p level) s = .next u))
  ∧ (∀ (s : State), s.pwr.st ≠ .off →
    (∀ (m : Byte) (w pos : Nat), s.MemWf → s.memSyn m.toNat w = 0 → w < memWords m.toNat → pos < wordBytes m.toNat * 8 + checkBits m.toNat →
      (isClassB m.toNat = true → s.pwr.classB = true) → ∃ t, exec (.randomHardwareFault (.memBit m w pos)) s = .next t
        ∧ t.eccRead m.toNat w = (s.wordData m.toNat w, false, 1) ∧ t.cores = s.cores ∧ t.fcu = s.fcu
        ∧ ∀ k v, k ≠ m.toNat → v < 2 ^ 20 → w < 2 ^ 20 → t.memSyn k v = s.memSyn k v)
    ∧ (∀ (c : Fin 64) (i : BitVec 5) (b : Fin 32), i ≠ 0 → let w := Tbl.get (TW.plain 0) (s.core c).gr i.toNat
      exec (.randomHardwareFault (.greg c i b)) s = .next (s.setCore c { s.core c with
        gr := Tbl.set (s.core c).gr i.toNat { w with v := w.v ^^^ (1#32 <<< b.val) } }))
    ∧ (∀ (c : Fin 64) (b : Fin 32), exec (.randomHardwareFault (.greg c 0 b)) s = .next (s.setCore c (s.core c)))
    ∧ (∀ (c : Fin 64) (i : BitVec 5) (b : Fin 32), let w := Tbl.get (TW.plain 0) (s.core c).pf i.toNat
      exec (.randomHardwareFault (.pfile c i b)) s = .next (s.setCore c { s.core c with
        pf := Tbl.set (s.core c).pf i.toNat { w with v := w.v ^^^ (1#32 <<< b.val) } }))
    ∧ (∀ (c : Fin 64) (k : BitVec 3) (b : Fin 40), let a := Tbl.get Acc.reset (s.core c).acc k.toNat
      exec (.randomHardwareFault (.accRe c k b)) s = .next (s.setCore c { s.core c with
        acc := Tbl.set (s.core c).acc k.toNat { a with re := a.re ^^^ (1#40 <<< b.val) } })
      ∧ exec (.randomHardwareFault (.accIm c k b)) s = .next (s.setCore c { s.core c with
        acc := Tbl.set (s.core c).acc k.toNat { a with im := a.im ^^^ (1#40 <<< b.val) } }))
    ∧ (∀ (c : Fin 64) (i : BitVec 5) (b : Fin 256), let a := Tbl.get VReg.reset (s.core c).vr i.toNat
      exec (.randomHardwareFault (.vreg c i b)) s = .next (s.setCore c { s.core c with
        vr := Tbl.set (s.core c).vr i.toNat { a with v := a.v ^^^ (1#256 <<< b.val) } }))
    ∧ (∀ (c : Fin 64) (b : Fin 32), b.val < 11 → exec (.randomHardwareFault (.creg c 0 b)) s
      = .next (s.setCore c { s.core c with psw := (s.core c).psw ^^^ (1#32 <<< b.val) }))
    ∧ (∀ (c : Fin 64) (b : Fin 32), exec (.randomHardwareFault (.creg c 1 b)) s
      = .next (s.setCore c { s.core c with epc := (s.core c).epc ^^^ (1#32 <<< b.val) }))
    ∧ (s.fcu.injArm = false → exec (.randomHardwareFault .cairnLane) s = .next (s.fcuEvent 0xF70)
      ∧ exec (.randomHardwareFault .cairnTwoLanes) s = .next (s.fcuEvent 0xF71)
      ∧ ∀ n : Fin 4096, (srcInfo n).2 = true → exec (.randomHardwareFault (.blockLogic n)) s = .next (s.fcuEvent n))
    ∧ ∀ n : Fin 4096, (srcInfo n).2 = false → exec (.randomHardwareFault (.blockLogic n)) s = .fault (.logicFlip n))

/-- A step takes the command at the front of the queue and runs it on everything but the queue, whose rest it leaves behind. On an
empty queue the block idles for one engine tick, which is this model's choice (log 2). -/
def Obligations.StepRunsFrontCommand : Prop :=
  ∀ (s : State) (c : Instr) (rest : List Instr),
    (s.pending = c :: rest → step s = exec c { s with pending := rest })
    ∧ (s.pending = [] → step s = .next (s.advance 1))

/-- R145, R268, R347, R382, R386, R402, Tables 3-3, 7-12, 14-8, 17-5 and 18-10: what reset leaves. The device is in STANDBY with nothing
started, no core has a duty, every ridge is FREE and outputs nothing, no source is set, every source's mask stands at the value
of R372, and the memories are in canonical form.
The model's own choices in it: log 8 (the canonical form of the memories), and of the values that it names those for which the spec
gives no reset value: log 6, log 7. -/
def Obligations.ResetState : Prop :=
  let s := State.reset
  s.pwr.st = .standby ∧ s.cairn.ready = false ∧ s.cairn.sessions = [] ∧ s.pending = [] ∧ s.fcu.fatal = false ∧ s.MemWf
  ∧ (∀ c, (s.core c).st = .free ∧ (s.core c).psw = 0 ∧ s.executes c = false)
  ∧ (∀ r, (s.ridge r).st = .free ∧ (s.ridge r).outen = false ∧ (s.ridge r).wdt.en = false ∧ s.outputsLive r = false)
  ∧ (∀ n, (s.src n).sticky = false ∧ s.maskOf n = maskReset n) ∧ (∀ d, (s.dom d).st = .off) ∧ (∀ c, (s.chan c).owner = none)
  ∧ (∀ n, (s.port n).en = false) ∧ s.ring.addr = 0x3F ∧ s.errLow = true ∧ s.aliveOn = false

/-- R243, R259: the lists that hold the bytes of the memories and the syndromes of their ECC words stay in canonical form (addresses
strictly rising, and no entry that an unlisted address would read as) over every step of every command.
The model's own choices in it: log 8. -/
def Obligations.StepKeepsMemoryCanonical : Prop :=
  ∀ (s t : State), s.MemWf → step s = .next t → t.MemWf

/-- R395, R397, Table 18-4: no step takes the lifecycle state back, and none but the end of an LC_ADVANCE job, or its completion at
start-up, changes it. -/
def Obligations.LifecycleOnlyAdvances : Prop :=
  ∀ (s t : State), step s = .next t →
    s.nvm.lc ≤ t.nvm.lc
    ∧ (s.nvm.lc ≠ t.nvm.lc → (∃ num rest, s.pending = .jobCompletion num :: rest
        ∧ ∃ j target, (s.cairn.jobs.find? fun j => j.num == num.toNat) = some j ∧ j.work = .lcAdvance target)
      ∨ ∃ rest, s.pending = .startUp :: rest)
end

