-- ==== Sys2Proof/Laws/Tables.lean ====
section
/-!
SUPPORT. Reading back what was written to a sparse table.
-/

namespace Sys2Proof.Machine

@[simp] theorem Tbl.get_set_same {α : Type} (d : α) (t : Tbl α) (n : Nat) (x : α) :
    Tbl.get d (Tbl.set t n x) n = x := by
  induction t with
  | nil => simp [Tbl.set, Tbl.get]
  | cons e t ih =>
    obtain ⟨k, y⟩ := e
    by_cases h : k = n
    · simp [Tbl.set, Tbl.get, h]
    · simp [Tbl.set, Tbl.get, h, ih]

theorem Tbl.get_set_other {α : Type} (d : α) (t : Tbl α) {n k : Nat} (x : α) (h : k ≠ n) :
    Tbl.get d (Tbl.set t n x) k = Tbl.get d t k := by
  have h' : n ≠ k := fun e => h e.symm
  induction t with
  | nil => simp [Tbl.set, Tbl.get, h']
  | cons e t ih =>
    obtain ⟨j, y⟩ := e
    by_cases hj : j = n
    · subst hj
      simp [Tbl.set, Tbl.get, h']
    · by_cases hk : j = k
      · subst hk
        simp [Tbl.set, Tbl.get, hj]
      · simp [Tbl.set, Tbl.get, hj, hk, ih]

@[simp] theorem Tbl.set_set {α : Type} (t : Tbl α) (n : Nat) (x y : α) :
    Tbl.set (Tbl.set t n x) n y = Tbl.set t n y := by
  induction t with
  | nil => simp [Tbl.set]
  | cons e t ih =>
    obtain ⟨k, z⟩ := e
    by_cases h : k = n
    · simp [Tbl.set, h]
    · simp [Tbl.set, h, ih]

theorem Tbl.get_set {α : Type} (d : α) (t : Tbl α) (n k : Nat) (x : α) :
    Tbl.get d (Tbl.set t n x) k = if k = n then x else Tbl.get d t k := by
  by_cases h : k = n
  · subst h; simp
  · simp [h, Tbl.get_set_other d t x h]

end Sys2Proof.Machine
end

