-- ==== Sys2Proof/Laws/State.lean ====
section
/-!
SUPPORT. What each update of State leaves alone, field by field, and what it writes: true by rfl, so that no proof unfolds a
record update.
-/

namespace Sys2Proof.Machine

@[simp] theorem State.updCore_pending (s : State) (c : Nat) (f : Core → Core) : (s.updCore c f).pending = s.pending := rfl
@[simp] theorem State.updCore_tick (s : State) (c : Nat) (f : Core → Core) : (s.updCore c f).tick = s.tick := rfl
@[simp] theorem State.updCore_winStart (s : State) (c : Nat) (f : Core → Core) : (s.updCore c f).winStart = s.winStart := rfl
@[simp] theorem State.updCore_free (s : State) (c : Nat) (f : Core → Core) : (s.updCore c f).free = s.free := rfl
@[simp] theorem State.updCore_mem (s : State) (c : Nat) (f : Core → Core) : (s.updCore c f).mem = s.mem := rfl
@[simp] theorem State.updCore_syn (s : State) (c : Nat) (f : Core → Core) : (s.updCore c f).syn = s.syn := rfl
@[simp] theorem State.updCore_ridges (s : State) (c : Nat) (f : Core → Core) : (s.updCore c f).ridges = s.ridges := rfl
@[simp] theorem State.updCore_massifs (s : State) (c : Nat) (f : Core → Core) : (s.updCore c f).massifs = s.massifs := rfl
@[simp] theorem State.updCore_doms (s : State) (c : Nat) (f : Core → Core) : (s.updCore c f).doms = s.doms := rfl
@[simp] theorem State.updCore_ast (s : State) (c : Nat) (f : Core → Core) : (s.updCore c f).ast = s.ast := rfl
@[simp] theorem State.updCore_caps (s : State) (c : Nat) (f : Core → Core) : (s.updCore c f).caps = s.caps := rfl
@[simp] theorem State.updCore_angIn (s : State) (c : Nat) (f : Core → Core) : (s.updCore c f).angIn = s.angIn := rfl
@[simp] theorem State.updCore_scrubs (s : State) (c : Nat) (f : Core → Core) : (s.updCore c f).scrubs = s.scrubs := rfl
@[simp] theorem State.updCore_ecc (s : State) (c : Nat) (f : Core → Core) : (s.updCore c f).ecc = s.ecc := rfl
@[simp] theorem State.updCore_chans (s : State) (c : Nat) (f : Core → Core) : (s.updCore c f).chans = s.chans := rfl
@[simp] theorem State.updCore_ports (s : State) (c : Nat) (f : Core → Core) : (s.updCore c f).ports = s.ports := rfl
@[simp] theorem State.updCore_nodes (s : State) (c : Nat) (f : Core → Core) : (s.updCore c f).nodes = s.nodes := rfl
@[simp] theorem State.updCore_eths (s : State) (c : Nat) (f : Core → Core) : (s.updCore c f).eths = s.eths := rfl
@[simp] theorem State.updCore_rules (s : State) (c : Nat) (f : Core → Core) : (s.updCore c f).rules = s.rules := rfl
@[simp] theorem State.updCore_pages (s : State) (c : Nat) (f : Core → Core) : (s.updCore c f).pages = s.pages := rfl
@[simp] theorem State.updCore_ptp (s : State) (c : Nat) (f : Core → Core) : (s.updCore c f).ptp = s.ptp := rfl
@[simp] theorem State.updCore_ring (s : State) (c : Nat) (f : Core → Core) : (s.updCore c f).ring = s.ring := rfl
@[simp] theorem State.updCore_host (s : State) (c : Nat) (f : Core → Core) : (s.updCore c f).host = s.host := rfl
@[simp] theorem State.updCore_fcu (s : State) (c : Nat) (f : Core → Core) : (s.updCore c f).fcu = s.fcu := rfl
@[simp] theorem State.updCore_gps (s : State) (c : Nat) (f : Core → Core) : (s.updCore c f).gps = s.gps := rfl
@[simp] theorem State.updCore_mon (s : State) (c : Nat) (f : Core → Core) : (s.updCore c f).mon = s.mon := rfl
@[simp] theorem State.updCore_pwr (s : State) (c : Nat) (f : Core → Core) : (s.updCore c f).pwr = s.pwr := rfl
@[simp] theorem State.updCore_nvm (s : State) (c : Nat) (f : Core → Core) : (s.updCore c f).nvm = s.nvm := rfl
@[simp] theorem State.updCore_cairn (s : State) (c : Nat) (f : Core → Core) : (s.updCore c f).cairn = s.cairn := rfl
@[simp] theorem State.updCore_core (s : State) (c k : Nat) (f : Core → Core) :
    (s.updCore c f).core k = if k = c then f (s.core c) else s.core k := Tbl.get_set _ _ _ _ _
@[simp] theorem State.updRidge_pending (s : State) (r : Nat) (f : Ridge → Ridge) : (s.updRidge r f).pending = s.pending := rfl
@[simp] theorem State.updRidge_tick (s : State) (r : Nat) (f : Ridge → Ridge) : (s.updRidge r f).tick = s.tick := rfl
@[simp] theorem State.updRidge_winStart (s : State) (r : Nat) (f : Ridge → Ridge) : (s.updRidge r f).winStart = s.winStart := rfl
@[simp] theorem State.updRidge_free (s : State) (r : Nat) (f : Ridge → Ridge) : (s.updRidge r f).free = s.free := rfl
@[simp] theorem State.updRidge_mem (s : State) (r : Nat) (f : Ridge → Ridge) : (s.updRidge r f).mem = s.mem := rfl
@[simp] theorem State.updRidge_syn (s : State) (r : Nat) (f : Ridge → Ridge) : (s.updRidge r f).syn = s.syn := rfl
@[simp] theorem State.updRidge_cores (s : State) (r : Nat) (f : Ridge → Ridge) : (s.updRidge r f).cores = s.cores := rfl
@[simp] theorem State.updRidge_massifs (s : State) (r : Nat) (f : Ridge → Ridge) : (s.updRidge r f).massifs = s.massifs := rfl
@[simp] theorem State.updRidge_doms (s : State) (r : Nat) (f : Ridge → Ridge) : (s.updRidge r f).doms = s.doms := rfl
@[simp] theorem State.updRidge_ast (s : State) (r : Nat) (f : Ridge → Ridge) : (s.updRidge r f).ast = s.ast := rfl
@[simp] theorem State.updRidge_caps (s : State) (r : Nat) (f : Ridge → Ridge) : (s.updRidge r f).caps = s.caps := rfl
@[simp] theorem State.updRidge_angIn (s : State) (r : Nat) (f : Ridge → Ridge) : (s.updRidge r f).angIn = s.angIn := rfl
@[simp] theorem State.updRidge_scrubs (s : State) (r : Nat) (f : Ridge → Ridge) : (s.updRidge r f).scrubs = s.scrubs := rfl
@[simp] theorem State.updRidge_ecc (s : State) (r : Nat) (f : Ridge → Ridge) : (s.updRidge r f).ecc = s.ecc := rfl
@[simp] theorem State.updRidge_chans (s : State) (r : Nat) (f : Ridge → Ridge) : (s.updRidge r f).chans = s.chans := rfl
@[simp] theorem State.updRidge_ports (s : State) (r : Nat) (f : Ridge → Ridge) : (s.updRidge r f).ports = s.ports := rfl
@[simp] theorem State.updRidge_nodes (s : State) (r : Nat) (f : Ridge → Ridge) : (s.updRidge r f).nodes = s.nodes := rfl
@[simp] theorem State.updRidge_eths (s : State) (r : Nat) (f : Ridge → Ridge) : (s.updRidge r f).eths = s.eths := rfl
@[simp] theorem State.updRidge_rules (s : State) (r : Nat) (f : Ridge → Ridge) : (s.updRidge r f).rules = s.rules := rfl
@[simp] theorem State.updRidge_pages (s : State) (r : Nat) (f : Ridge → Ridge) : (s.updRidge r f).pages = s.pages := rfl
@[simp] theorem State.updRidge_ptp (s : State) (r : Nat) (f : Ridge → Ridge) : (s.updRidge r f).ptp = s.ptp := rfl
@[simp] theorem State.updRidge_ring (s : State) (r : Nat) (f : Ridge → Ridge) : (s.updRidge r f).ring = s.ring := rfl
@[simp] theorem State.updRidge_host (s : State) (r : Nat) (f : Ridge → Ridge) : (s.updRidge r f).host = s.host := rfl
@[simp] theorem State.updRidge_fcu (s : State) (r : Nat) (f : Ridge → Ridge) : (s.updRidge r f).fcu = s.fcu := rfl
@[simp] theorem State.updRidge_gps (s : State) (r : Nat) (f : Ridge → Ridge) : (s.updRidge r f).gps = s.gps := rfl
@[simp] theorem State.updRidge_mon (s : State) (r : Nat) (f : Ridge → Ridge) : (s.updRidge r f).mon = s.mon := rfl
@[simp] theorem State.updRidge_pwr (s : State) (r : Nat) (f : Ridge → Ridge) : (s.updRidge r f).pwr = s.pwr := rfl
@[simp] theorem State.updRidge_nvm (s : State) (r : Nat) (f : Ridge → Ridge) : (s.updRidge r f).nvm = s.nvm := rfl
@[simp] theorem State.updRidge_cairn (s : State) (r : Nat) (f : Ridge → Ridge) : (s.updRidge r f).cairn = s.cairn := rfl
@[simp] theorem State.updRidge_ridge (s : State) (r k : Nat) (f : Ridge → Ridge) :
    (s.updRidge r f).ridge k = if k = r then f (s.ridge r) else s.ridge k := Tbl.get_set _ _ _ _ _
@[simp] theorem State.updWdt_pending (s : State) (r : Nat) (f : Wdt → Wdt) : (s.updWdt r f).pending = s.pending := rfl
@[simp] theorem State.updWdt_tick (s : State) (r : Nat) (f : Wdt → Wdt) : (s.updWdt r f).tick = s.tick := rfl
@[simp] theorem State.updWdt_winStart (s : State) (r : Nat) (f : Wdt → Wdt) : (s.updWdt r f).winStart = s.winStart := rfl
@[simp] theorem State.updWdt_free (s : State) (r : Nat) (f : Wdt → Wdt) : (s.updWdt r f).free = s.free := rfl
@[simp] theorem State.updWdt_mem (s : State) (r : Nat) (f : Wdt → Wdt) : (s.updWdt r f).mem = s.mem := rfl
@[simp] theorem State.updWdt_syn (s : State) (r : Nat) (f : Wdt → Wdt) : (s.updWdt r f).syn = s.syn := rfl
@[simp] theorem State.updWdt_cores (s : State) (r : Nat) (f : Wdt → Wdt) : (s.updWdt r f).cores = s.cores := rfl
@[simp] theorem State.updWdt_massifs (s : State) (r : Nat) (f : Wdt → Wdt) : (s.updWdt r f).massifs = s.massifs := rfl
@[simp] theorem State.updWdt_doms (s : State) (r : Nat) (f : Wdt → Wdt) : (s.updWdt r f).doms = s.doms := rfl
@[simp] theorem State.updWdt_ast (s : State) (r : Nat) (f : Wdt → Wdt) : (s.updWdt r f).ast = s.ast := rfl
@[simp] theorem State.updWdt_caps (s : State) (r : Nat) (f : Wdt → Wdt) : (s.updWdt r f).caps = s.caps := rfl
@[simp] theorem State.updWdt_angIn (s : State) (r : Nat) (f : Wdt → Wdt) : (s.updWdt r f).angIn = s.angIn := rfl
@[simp] theorem State.updWdt_scrubs (s : State) (r : Nat) (f : Wdt → Wdt) : (s.updWdt r f).scrubs = s.scrubs := rfl
@[simp] theorem State.updWdt_ecc (s : State) (r : Nat) (f : Wdt → Wdt) : (s.updWdt r f).ecc = s.ecc := rfl
@[simp] theorem State.updWdt_chans (s : State) (r : Nat) (f : Wdt → Wdt) : (s.updWdt r f).chans = s.chans := rfl
@[simp] theorem State.updWdt_ports (s : State) (r : Nat) (f : Wdt → Wdt) : (s.updWdt r f).ports = s.ports := rfl
@[simp] theorem State.updWdt_nodes (s : State) (r : Nat) (f : Wdt → Wdt) : (s.updWdt r f).nodes = s.nodes := rfl
@[simp] theorem State.updWdt_eths (s : State) (r : Nat) (f : Wdt → Wdt) : (s.updWdt r f).eths = s.eths := rfl
@[simp] theorem State.updWdt_rules (s : State) (r : Nat) (f : Wdt → Wdt) : (s.updWdt r f).rules = s.rules := rfl
@[simp] theorem State.updWdt_pages (s : State) (r : Nat) (f : Wdt → Wdt) : (s.updWdt r f).pages = s.pages := rfl
@[simp] theorem State.updWdt_ptp (s : State) (r : Nat) (f : Wdt → Wdt) : (s.updWdt r f).ptp = s.ptp := rfl
@[simp] theorem State.updWdt_ring (s : State) (r : Nat) (f : Wdt → Wdt) : (s.updWdt r f).ring = s.ring := rfl
@[simp] theorem State.updWdt_host (s : State) (r : Nat) (f : Wdt → Wdt) : (s.updWdt r f).host = s.host := rfl
@[simp] theorem State.updWdt_fcu (s : State) (r : Nat) (f : Wdt → Wdt) : (s.updWdt r f).fcu = s.fcu := rfl
@[simp] theorem State.updWdt_gps (s : State) (r : Nat) (f : Wdt → Wdt) : (s.updWdt r f).gps = s.gps := rfl
@[simp] theorem State.updWdt_mon (s : State) (r : Nat) (f : Wdt → Wdt) : (s.updWdt r f).mon = s.mon := rfl
@[simp] theorem State.updWdt_pwr (s : State) (r : Nat) (f : Wdt → Wdt) : (s.updWdt r f).pwr = s.pwr := rfl
@[simp] theorem State.updWdt_nvm (s : State) (r : Nat) (f : Wdt → Wdt) : (s.updWdt r f).nvm = s.nvm := rfl
@[simp] theorem State.updWdt_cairn (s : State) (r : Nat) (f : Wdt → Wdt) : (s.updWdt r f).cairn = s.cairn := rfl
@[simp] theorem State.updMassif_pending (s : State) (m : Nat) (f : Massif → Massif) : (s.updMassif m f).pending = s.pending := rfl
@[simp] theorem State.updMassif_tick (s : State) (m : Nat) (f : Massif → Massif) : (s.updMassif m f).tick = s.tick := rfl
@[simp] theorem State.updMassif_winStart (s : State) (m : Nat) (f : Massif → Massif) : (s.updMassif m f).winStart = s.winStart := rfl
@[simp] theorem State.updMassif_free (s : State) (m : Nat) (f : Massif → Massif) : (s.updMassif m f).free = s.free := rfl
@[simp] theorem State.updMassif_mem (s : State) (m : Nat) (f : Massif → Massif) : (s.updMassif m f).mem = s.mem := rfl
@[simp] theorem State.updMassif_syn (s : State) (m : Nat) (f : Massif → Massif) : (s.updMassif m f).syn = s.syn := rfl
@[simp] theorem State.updMassif_cores (s : State) (m : Nat) (f : Massif → Massif) : (s.updMassif m f).cores = s.cores := rfl
@[simp] theorem State.updMassif_ridges (s : State) (m : Nat) (f : Massif → Massif) : (s.updMassif m f).ridges = s.ridges := rfl
@[simp] theorem State.updMassif_doms (s : State) (m : Nat) (f : Massif → Massif) : (s.updMassif m f).doms = s.doms := rfl
@[simp] theorem State.updMassif_ast (s : State) (m : Nat) (f : Massif → Massif) : (s.updMassif m f).ast = s.ast := rfl
@[simp] theorem State.updMassif_caps (s : State) (m : Nat) (f : Massif → Massif) : (s.updMassif m f).caps = s.caps := rfl
@[simp] theorem State.updMassif_angIn (s : State) (m : Nat) (f : Massif → Massif) : (s.updMassif m f).angIn = s.angIn := rfl
@[simp] theorem State.updMassif_scrubs (s : State) (m : Nat) (f : Massif → Massif) : (s.updMassif m f).scrubs = s.scrubs := rfl
@[simp] theorem State.updMassif_ecc (s : State) (m : Nat) (f : Massif → Massif) : (s.updMassif m f).ecc = s.ecc := rfl
@[simp] theorem State.updMassif_chans (s : State) (m : Nat) (f : Massif → Massif) : (s.updMassif m f).chans = s.chans := rfl
@[simp] theorem State.updMassif_ports (s : State) (m : Nat) (f : Massif → Massif) : (s.updMassif m f).ports = s.ports := rfl
@[simp] theorem State.updMassif_nodes (s : State) (m : Nat) (f : Massif → Massif) : (s.updMassif m f).nodes = s.nodes := rfl
@[simp] theorem State.updMassif_eths (s : State) (m : Nat) (f : Massif → Massif) : (s.updMassif m f).eths = s.eths := rfl
@[simp] theorem State.updMassif_rules (s : State) (m : Nat) (f : Massif → Massif) : (s.updMassif m f).rules = s.rules := rfl
@[simp] theorem State.updMassif_pages (s : State) (m : Nat) (f : Massif → Massif) : (s.updMassif m f).pages = s.pages := rfl
@[simp] theorem State.updMassif_ptp (s : State) (m : Nat) (f : Massif → Massif) : (s.updMassif m f).ptp = s.ptp := rfl
@[simp] theorem State.updMassif_ring (s : State) (m : Nat) (f : Massif → Massif) : (s.updMassif m f).ring = s.ring := rfl
@[simp] theorem State.updMassif_host (s : State) (m : Nat) (f : Massif → Massif) : (s.updMassif m f).host = s.host := rfl
@[simp] theorem State.updMassif_fcu (s : State) (m : Nat) (f : Massif → Massif) : (s.updMassif m f).fcu = s.fcu := rfl
@[simp] theorem State.updMassif_gps (s : State) (m : Nat) (f : Massif → Massif) : (s.updMassif m f).gps = s.gps := rfl
@[simp] theorem State.updMassif_mon (s : State) (m : Nat) (f : Massif → Massif) : (s.updMassif m f).mon = s.mon := rfl
@[simp] theorem State.updMassif_pwr (s : State) (m : Nat) (f : Massif → Massif) : (s.updMassif m f).pwr = s.pwr := rfl
@[simp] theorem State.updMassif_nvm (s : State) (m : Nat) (f : Massif → Massif) : (s.updMassif m f).nvm = s.nvm := rfl
@[simp] theorem State.updMassif_cairn (s : State) (m : Nat) (f : Massif → Massif) : (s.updMassif m f).cairn = s.cairn := rfl
@[simp] theorem State.updMassif_massif (s : State) (m k : Nat) (f : Massif → Massif) :
    (s.updMassif m f).massif k = if k = m then f (s.massif m) else s.massif k := Tbl.get_set _ _ _ _ _
@[simp] theorem State.updDma_pending (s : State) (ch : Nat) (f : Dma → Dma) : (s.updDma ch f).pending = s.pending := rfl
@[simp] theorem State.updDma_tick (s : State) (ch : Nat) (f : Dma → Dma) : (s.updDma ch f).tick = s.tick := rfl
@[simp] theorem State.updDma_winStart (s : State) (ch : Nat) (f : Dma → Dma) : (s.updDma ch f).winStart = s.winStart := rfl
@[simp] theorem State.updDma_free (s : State) (ch : Nat) (f : Dma → Dma) : (s.updDma ch f).free = s.free := rfl
@[simp] theorem State.updDma_mem (s : State) (ch : Nat) (f : Dma → Dma) : (s.updDma ch f).mem = s.mem := rfl
@[simp] theorem State.updDma_syn (s : State) (ch : Nat) (f : Dma → Dma) : (s.updDma ch f).syn = s.syn := rfl
@[simp] theorem State.updDma_cores (s : State) (ch : Nat) (f : Dma → Dma) : (s.updDma ch f).cores = s.cores := rfl
@[simp] theorem State.updDma_ridges (s : State) (ch : Nat) (f : Dma → Dma) : (s.updDma ch f).ridges = s.ridges := rfl
@[simp] theorem State.updDma_doms (s : State) (ch : Nat) (f : Dma → Dma) : (s.updDma ch f).doms = s.doms := rfl
@[simp] theorem State.updDma_ast (s : State) (ch : Nat) (f : Dma → Dma) : (s.updDma ch f).ast = s.ast := rfl
@[simp] theorem State.updDma_caps (s : State) (ch : Nat) (f : Dma → Dma) : (s.updDma ch f).caps = s.caps := rfl
@[simp] theorem State.updDma_angIn (s : State) (ch : Nat) (f : Dma → Dma) : (s.updDma ch f).angIn = s.angIn := rfl
@[simp] theorem State.updDma_scrubs (s : State) (ch : Nat) (f : Dma → Dma) : (s.updDma ch f).scrubs = s.scrubs := rfl
@[simp] theorem State.updDma_ecc (s : State) (ch : Nat) (f : Dma → Dma) : (s.updDma ch f).ecc = s.ecc := rfl
@[simp] theorem State.updDma_chans (s : State) (ch : Nat) (f : Dma → Dma) : (s.updDma ch f).chans = s.chans := rfl
@[simp] theorem State.updDma_ports (s : State) (ch : Nat) (f : Dma → Dma) : (s.updDma ch f).ports = s.ports := rfl
@[simp] theorem State.updDma_nodes (s : State) (ch : Nat) (f : Dma → Dma) : (s.updDma ch f).nodes = s.nodes := rfl
@[simp] theorem State.updDma_eths (s : State) (ch : Nat) (f : Dma → Dma) : (s.updDma ch f).eths = s.eths := rfl
@[simp] theorem State.updDma_rules (s : State) (ch : Nat) (f : Dma → Dma) : (s.updDma ch f).rules = s.rules := rfl
@[simp] theorem State.updDma_pages (s : State) (ch : Nat) (f : Dma → Dma) : (s.updDma ch f).pages = s.pages := rfl
@[simp] theorem State.updDma_ptp (s : State) (ch : Nat) (f : Dma → Dma) : (s.updDma ch f).ptp = s.ptp := rfl
@[simp] theorem State.updDma_ring (s : State) (ch : Nat) (f : Dma → Dma) : (s.updDma ch f).ring = s.ring := rfl
@[simp] theorem State.updDma_host (s : State) (ch : Nat) (f : Dma → Dma) : (s.updDma ch f).host = s.host := rfl
@[simp] theorem State.updDma_fcu (s : State) (ch : Nat) (f : Dma → Dma) : (s.updDma ch f).fcu = s.fcu := rfl
@[simp] theorem State.updDma_gps (s : State) (ch : Nat) (f : Dma → Dma) : (s.updDma ch f).gps = s.gps := rfl
@[simp] theorem State.updDma_mon (s : State) (ch : Nat) (f : Dma → Dma) : (s.updDma ch f).mon = s.mon := rfl
@[simp] theorem State.updDma_pwr (s : State) (ch : Nat) (f : Dma → Dma) : (s.updDma ch f).pwr = s.pwr := rfl
@[simp] theorem State.updDma_nvm (s : State) (ch : Nat) (f : Dma → Dma) : (s.updDma ch f).nvm = s.nvm := rfl
@[simp] theorem State.updDma_cairn (s : State) (ch : Nat) (f : Dma → Dma) : (s.updDma ch f).cairn = s.cairn := rfl
@[simp] theorem State.updDom_pending (s : State) (d : Nat) (f : Domain → Domain) : (s.updDom d f).pending = s.pending := rfl
@[simp] theorem State.updDom_tick (s : State) (d : Nat) (f : Domain → Domain) : (s.updDom d f).tick = s.tick := rfl
@[simp] theorem State.updDom_winStart (s : State) (d : Nat) (f : Domain → Domain) : (s.updDom d f).winStart = s.winStart := rfl
@[simp] theorem State.updDom_free (s : State) (d : Nat) (f : Domain → Domain) : (s.updDom d f).free = s.free := rfl
@[simp] theorem State.updDom_mem (s : State) (d : Nat) (f : Domain → Domain) : (s.updDom d f).mem = s.mem := rfl
@[simp] theorem State.updDom_syn (s : State) (d : Nat) (f : Domain → Domain) : (s.updDom d f).syn = s.syn := rfl
@[simp] theorem State.updDom_cores (s : State) (d : Nat) (f : Domain → Domain) : (s.updDom d f).cores = s.cores := rfl
@[simp] theorem State.updDom_ridges (s : State) (d : Nat) (f : Domain → Domain) : (s.updDom d f).ridges = s.ridges := rfl
@[simp] theorem State.updDom_massifs (s : State) (d : Nat) (f : Domain → Domain) : (s.updDom d f).massifs = s.massifs := rfl
@[simp] theorem State.updDom_ast (s : State) (d : Nat) (f : Domain → Domain) : (s.updDom d f).ast = s.ast := rfl
@[simp] theorem State.updDom_caps (s : State) (d : Nat) (f : Domain → Domain) : (s.updDom d f).caps = s.caps := rfl
@[simp] theorem State.updDom_angIn (s : State) (d : Nat) (f : Domain → Domain) : (s.updDom d f).angIn = s.angIn := rfl
@[simp] theorem State.updDom_scrubs (s : State) (d : Nat) (f : Domain → Domain) : (s.updDom d f).scrubs = s.scrubs := rfl
@[simp] theorem State.updDom_ecc (s : State) (d : Nat) (f : Domain → Domain) : (s.updDom d f).ecc = s.ecc := rfl
@[simp] theorem State.updDom_chans (s : State) (d : Nat) (f : Domain → Domain) : (s.updDom d f).chans = s.chans := rfl
@[simp] theorem State.updDom_ports (s : State) (d : Nat) (f : Domain → Domain) : (s.updDom d f).ports = s.ports := rfl
@[simp] theorem State.updDom_nodes (s : State) (d : Nat) (f : Domain → Domain) : (s.updDom d f).nodes = s.nodes := rfl
@[simp] theorem State.updDom_eths (s : State) (d : Nat) (f : Domain → Domain) : (s.updDom d f).eths = s.eths := rfl
@[simp] theorem State.updDom_rules (s : State) (d : Nat) (f : Domain → Domain) : (s.updDom d f).rules = s.rules := rfl
@[simp] theorem State.updDom_pages (s : State) (d : Nat) (f : Domain → Domain) : (s.updDom d f).pages = s.pages := rfl
@[simp] theorem State.updDom_ptp (s : State) (d : Nat) (f : Domain → Domain) : (s.updDom d f).ptp = s.ptp := rfl
@[simp] theorem State.updDom_ring (s : State) (d : Nat) (f : Domain → Domain) : (s.updDom d f).ring = s.ring := rfl
@[simp] theorem State.updDom_host (s : State) (d : Nat) (f : Domain → Domain) : (s.updDom d f).host = s.host := rfl
@[simp] theorem State.updDom_fcu (s : State) (d : Nat) (f : Domain → Domain) : (s.updDom d f).fcu = s.fcu := rfl
@[simp] theorem State.updDom_gps (s : State) (d : Nat) (f : Domain → Domain) : (s.updDom d f).gps = s.gps := rfl
@[simp] theorem State.updDom_mon (s : State) (d : Nat) (f : Domain → Domain) : (s.updDom d f).mon = s.mon := rfl
@[simp] theorem State.updDom_pwr (s : State) (d : Nat) (f : Domain → Domain) : (s.updDom d f).pwr = s.pwr := rfl
@[simp] theorem State.updDom_nvm (s : State) (d : Nat) (f : Domain → Domain) : (s.updDom d f).nvm = s.nvm := rfl
@[simp] theorem State.updDom_cairn (s : State) (d : Nat) (f : Domain → Domain) : (s.updDom d f).cairn = s.cairn := rfl
@[simp] theorem State.updDom_dom (s : State) (d k : Nat) (f : Domain → Domain) :
    (s.updDom d f).dom k = if k = d then f (s.dom d) else s.dom k := Tbl.get_set _ _ _ _ _
@[simp] theorem State.updCap_pending (s : State) (u : Nat) (f : CapUnit → CapUnit) : (s.updCap u f).pending = s.pending := rfl
@[simp] theorem State.updCap_tick (s : State) (u : Nat) (f : CapUnit → CapUnit) : (s.updCap u f).tick = s.tick := rfl
@[simp] theorem State.updCap_winStart (s : State) (u : Nat) (f : CapUnit → CapUnit) : (s.updCap u f).winStart = s.winStart := rfl
@[simp] theorem State.updCap_free (s : State) (u : Nat) (f : CapUnit → CapUnit) : (s.updCap u f).free = s.free := rfl
@[simp] theorem State.updCap_mem (s : State) (u : Nat) (f : CapUnit → CapUnit) : (s.updCap u f).mem = s.mem := rfl
@[simp] theorem State.updCap_syn (s : State) (u : Nat) (f : CapUnit → CapUnit) : (s.updCap u f).syn = s.syn := rfl
@[simp] theorem State.updCap_cores (s : State) (u : Nat) (f : CapUnit → CapUnit) : (s.updCap u f).cores = s.cores := rfl
@[simp] theorem State.updCap_ridges (s : State) (u : Nat) (f : CapUnit → CapUnit) : (s.updCap u f).ridges = s.ridges := rfl
@[simp] theorem State.updCap_massifs (s : State) (u : Nat) (f : CapUnit → CapUnit) : (s.updCap u f).massifs = s.massifs := rfl
@[simp] theorem State.updCap_doms (s : State) (u : Nat) (f : CapUnit → CapUnit) : (s.updCap u f).doms = s.doms := rfl
@[simp] theorem State.updCap_ast (s : State) (u : Nat) (f : CapUnit → CapUnit) : (s.updCap u f).ast = s.ast := rfl
@[simp] theorem State.updCap_angIn (s : State) (u : Nat) (f : CapUnit → CapUnit) : (s.updCap u f).angIn = s.angIn := rfl
@[simp] theorem State.updCap_scrubs (s : State) (u : Nat) (f : CapUnit → CapUnit) : (s.updCap u f).scrubs = s.scrubs := rfl
@[simp] theorem State.updCap_ecc (s : State) (u : Nat) (f : CapUnit → CapUnit) : (s.updCap u f).ecc = s.ecc := rfl
@[simp] theorem State.updCap_chans (s : State) (u : Nat) (f : CapUnit → CapUnit) : (s.updCap u f).chans = s.chans := rfl
@[simp] theorem State.updCap_ports (s : State) (u : Nat) (f : CapUnit → CapUnit) : (s.updCap u f).ports = s.ports := rfl
@[simp] theorem State.updCap_nodes (s : State) (u : Nat) (f : CapUnit → CapUnit) : (s.updCap u f).nodes = s.nodes := rfl
@[simp] theorem State.updCap_eths (s : State) (u : Nat) (f : CapUnit → CapUnit) : (s.updCap u f).eths = s.eths := rfl
@[simp] theorem State.updCap_rules (s : State) (u : Nat) (f : CapUnit → CapUnit) : (s.updCap u f).rules = s.rules := rfl
@[simp] theorem State.updCap_pages (s : State) (u : Nat) (f : CapUnit → CapUnit) : (s.updCap u f).pages = s.pages := rfl
@[simp] theorem State.updCap_ptp (s : State) (u : Nat) (f : CapUnit → CapUnit) : (s.updCap u f).ptp = s.ptp := rfl
@[simp] theorem State.updCap_ring (s : State) (u : Nat) (f : CapUnit → CapUnit) : (s.updCap u f).ring = s.ring := rfl
@[simp] theorem State.updCap_host (s : State) (u : Nat) (f : CapUnit → CapUnit) : (s.updCap u f).host = s.host := rfl
@[simp] theorem State.updCap_fcu (s : State) (u : Nat) (f : CapUnit → CapUnit) : (s.updCap u f).fcu = s.fcu := rfl
@[simp] theorem State.updCap_gps (s : State) (u : Nat) (f : CapUnit → CapUnit) : (s.updCap u f).gps = s.gps := rfl
@[simp] theorem State.updCap_mon (s : State) (u : Nat) (f : CapUnit → CapUnit) : (s.updCap u f).mon = s.mon := rfl
@[simp] theorem State.updCap_pwr (s : State) (u : Nat) (f : CapUnit → CapUnit) : (s.updCap u f).pwr = s.pwr := rfl
@[simp] theorem State.updCap_nvm (s : State) (u : Nat) (f : CapUnit → CapUnit) : (s.updCap u f).nvm = s.nvm := rfl
@[simp] theorem State.updCap_cairn (s : State) (u : Nat) (f : CapUnit → CapUnit) : (s.updCap u f).cairn = s.cairn := rfl
@[simp] theorem State.updCap_cap (s : State) (u k : Nat) (f : CapUnit → CapUnit) :
    (s.updCap u f).cap k = if k = u then f (s.cap u) else s.cap k := Tbl.get_set _ _ _ _ _
@[simp] theorem State.updScrub_pending (s : State) (u : Nat) (f : Scrub → Scrub) : (s.updScrub u f).pending = s.pending := rfl
@[simp] theorem State.updScrub_tick (s : State) (u : Nat) (f : Scrub → Scrub) : (s.updScrub u f).tick = s.tick := rfl
@[simp] theorem State.updScrub_winStart (s : State) (u : Nat) (f : Scrub → Scrub) : (s.updScrub u f).winStart = s.winStart := rfl
@[simp] theorem State.updScrub_free (s : State) (u : Nat) (f : Scrub → Scrub) : (s.updScrub u f).free = s.free := rfl
@[simp] theorem State.updScrub_mem (s : State) (u : Nat) (f : Scrub → Scrub) : (s.updScrub u f).mem = s.mem := rfl
@[simp] theorem State.updScrub_syn (s : State) (u : Nat) (f : Scrub → Scrub) : (s.updScrub u f).syn = s.syn := rfl
@[simp] theorem State.updScrub_cores (s : State) (u : Nat) (f : Scrub → Scrub) : (s.updScrub u f).cores = s.cores := rfl
@[simp] theorem State.updScrub_ridges (s : State) (u : Nat) (f : Scrub → Scrub) : (s.updScrub u f).ridges = s.ridges := rfl
@[simp] theorem State.updScrub_massifs (s : State) (u : Nat) (f : Scrub → Scrub) : (s.updScrub u f).massifs = s.massifs := rfl
@[simp] theorem State.updScrub_doms (s : State) (u : Nat) (f : Scrub → Scrub) : (s.updScrub u f).doms = s.doms := rfl
@[simp] theorem State.updScrub_ast (s : State) (u : Nat) (f : Scrub → Scrub) : (s.updScrub u f).ast = s.ast := rfl
@[simp] theorem State.updScrub_caps (s : State) (u : Nat) (f : Scrub → Scrub) : (s.updScrub u f).caps = s.caps := rfl
@[simp] theorem State.updScrub_angIn (s : State) (u : Nat) (f : Scrub → Scrub) : (s.updScrub u f).angIn = s.angIn := rfl
@[simp] theorem State.updScrub_ecc (s : State) (u : Nat) (f : Scrub → Scrub) : (s.updScrub u f).ecc = s.ecc := rfl
@[simp] theorem State.updScrub_chans (s : State) (u : Nat) (f : Scrub → Scrub) : (s.updScrub u f).chans = s.chans := rfl
@[simp] theorem State.updScrub_ports (s : State) (u : Nat) (f : Scrub → Scrub) : (s.updScrub u f).ports = s.ports := rfl
@[simp] theorem State.updScrub_nodes (s : State) (u : Nat) (f : Scrub → Scrub) : (s.updScrub u f).nodes = s.nodes := rfl
@[simp] theorem State.updScrub_eths (s : State) (u : Nat) (f : Scrub → Scrub) : (s.updScrub u f).eths = s.eths := rfl
@[simp] theorem State.updScrub_rules (s : State) (u : Nat) (f : Scrub → Scrub) : (s.updScrub u f).rules = s.rules := rfl
@[simp] theorem State.updScrub_pages (s : State) (u : Nat) (f : Scrub → Scrub) : (s.updScrub u f).pages = s.pages := rfl
@[simp] theorem State.updScrub_ptp (s : State) (u : Nat) (f : Scrub → Scrub) : (s.updScrub u f).ptp = s.ptp := rfl
@[simp] theorem State.updScrub_ring (s : State) (u : Nat) (f : Scrub → Scrub) : (s.updScrub u f).ring = s.ring := rfl
@[simp] theorem State.updScrub_host (s : State) (u : Nat) (f : Scrub → Scrub) : (s.updScrub u f).host = s.host := rfl
@[simp] theorem State.updScrub_fcu (s : State) (u : Nat) (f : Scrub → Scrub) : (s.updScrub u f).fcu = s.fcu := rfl
@[simp] theorem State.updScrub_gps (s : State) (u : Nat) (f : Scrub → Scrub) : (s.updScrub u f).gps = s.gps := rfl
@[simp] theorem State.updScrub_mon (s : State) (u : Nat) (f : Scrub → Scrub) : (s.updScrub u f).mon = s.mon := rfl
@[simp] theorem State.updScrub_pwr (s : State) (u : Nat) (f : Scrub → Scrub) : (s.updScrub u f).pwr = s.pwr := rfl
@[simp] theorem State.updScrub_nvm (s : State) (u : Nat) (f : Scrub → Scrub) : (s.updScrub u f).nvm = s.nvm := rfl
@[simp] theorem State.updScrub_cairn (s : State) (u : Nat) (f : Scrub → Scrub) : (s.updScrub u f).cairn = s.cairn := rfl
@[simp] theorem State.updScrub_scrub (s : State) (u k : Nat) (f : Scrub → Scrub) :
    (s.updScrub u f).scrub k = if k = u then f (s.scrub u) else s.scrub k := Tbl.get_set _ _ _ _ _
@[simp] theorem State.updChan_pending (s : State) (n : Nat) (f : Channel → Channel) : (s.updChan n f).pending = s.pending := rfl
@[simp] theorem State.updChan_tick (s : State) (n : Nat) (f : Channel → Channel) : (s.updChan n f).tick = s.tick := rfl
@[simp] theorem State.updChan_winStart (s : State) (n : Nat) (f : Channel → Channel) : (s.updChan n f).winStart = s.winStart := rfl
@[simp] theorem State.updChan_free (s : State) (n : Nat) (f : Channel → Channel) : (s.updChan n f).free = s.free := rfl
@[simp] theorem State.updChan_mem (s : State) (n : Nat) (f : Channel → Channel) : (s.updChan n f).mem = s.mem := rfl
@[simp] theorem State.updChan_syn (s : State) (n : Nat) (f : Channel → Channel) : (s.updChan n f).syn = s.syn := rfl
@[simp] theorem State.updChan_cores (s : State) (n : Nat) (f : Channel → Channel) : (s.updChan n f).cores = s.cores := rfl
@[simp] theorem State.updChan_ridges (s : State) (n : Nat) (f : Channel → Channel) : (s.updChan n f).ridges = s.ridges := rfl
@[simp] theorem State.updChan_massifs (s : State) (n : Nat) (f : Channel → Channel) : (s.updChan n f).massifs = s.massifs := rfl
@[simp] theorem State.updChan_doms (s : State) (n : Nat) (f : Channel → Channel) : (s.updChan n f).doms = s.doms := rfl
@[simp] theorem State.updChan_ast (s : State) (n : Nat) (f : Channel → Channel) : (s.updChan n f).ast = s.ast := rfl
@[simp] theorem State.updChan_caps (s : State) (n : Nat) (f : Channel → Channel) : (s.updChan n f).caps = s.caps := rfl
@[simp] theorem State.updChan_angIn (s : State) (n : Nat) (f : Channel → Channel) : (s.updChan n f).angIn = s.angIn := rfl
@[simp] theorem State.updChan_scrubs (s : State) (n : Nat) (f : Channel → Channel) : (s.updChan n f).scrubs = s.scrubs := rfl
@[simp] theorem State.updChan_ecc (s : State) (n : Nat) (f : Channel → Channel) : (s.updChan n f).ecc = s.ecc := rfl
@[simp] theorem State.updChan_ports (s : State) (n : Nat) (f : Channel → Channel) : (s.updChan n f).ports = s.ports := rfl
@[simp] theorem State.updChan_nodes (s : State) (n : Nat) (f : Channel → Channel) : (s.updChan n f).nodes = s.nodes := rfl
@[simp] theorem State.updChan_eths (s : State) (n : Nat) (f : Channel → Channel) : (s.updChan n f).eths = s.eths := rfl
@[simp] theorem State.updChan_rules (s : State) (n : Nat) (f : Channel → Channel) : (s.updChan n f).rules = s.rules := rfl
@[simp] theorem State.updChan_pages (s : State) (n : Nat) (f : Channel → Channel) : (s.updChan n f).pages = s.pages := rfl
@[simp] theorem State.updChan_ptp (s : State) (n : Nat) (f : Channel → Channel) : (s.updChan n f).ptp = s.ptp := rfl
@[simp] theorem State.updChan_ring (s : State) (n : Nat) (f : Channel → Channel) : (s.updChan n f).ring = s.ring := rfl
@[simp] theorem State.updChan_host (s : State) (n : Nat) (f : Channel → Channel) : (s.updChan n f).host = s.host := rfl
@[simp] theorem State.updChan_fcu (s : State) (n : Nat) (f : Channel → Channel) : (s.updChan n f).fcu = s.fcu := rfl
@[simp] theorem State.updChan_gps (s : State) (n : Nat) (f : Channel → Channel) : (s.updChan n f).gps = s.gps := rfl
@[simp] theorem State.updChan_mon (s : State) (n : Nat) (f : Channel → Channel) : (s.updChan n f).mon = s.mon := rfl
@[simp] theorem State.updChan_pwr (s : State) (n : Nat) (f : Channel → Channel) : (s.updChan n f).pwr = s.pwr := rfl
@[simp] theorem State.updChan_nvm (s : State) (n : Nat) (f : Channel → Channel) : (s.updChan n f).nvm = s.nvm := rfl
@[simp] theorem State.updChan_cairn (s : State) (n : Nat) (f : Channel → Channel) : (s.updChan n f).cairn = s.cairn := rfl
@[simp] theorem State.updChan_chan (s : State) (n k : Nat) (f : Channel → Channel) :
    (s.updChan n f).chan k = if k = n then f (s.chan n) else s.chan k := Tbl.get_set _ _ _ _ _
@[simp] theorem State.updPort_pending (s : State) (n : Nat) (f : ChPort → ChPort) : (s.updPort n f).pending = s.pending := rfl
@[simp] theorem State.updPort_tick (s : State) (n : Nat) (f : ChPort → ChPort) : (s.updPort n f).tick = s.tick := rfl
@[simp] theorem State.updPort_winStart (s : State) (n : Nat) (f : ChPort → ChPort) : (s.updPort n f).winStart = s.winStart := rfl
@[simp] theorem State.updPort_free (s : State) (n : Nat) (f : ChPort → ChPort) : (s.updPort n f).free = s.free := rfl
@[simp] theorem State.updPort_mem (s : State) (n : Nat) (f : ChPort → ChPort) : (s.updPort n f).mem = s.mem := rfl
@[simp] theorem State.updPort_syn (s : State) (n : Nat) (f : ChPort → ChPort) : (s.updPort n f).syn = s.syn := rfl
@[simp] theorem State.updPort_cores (s : State) (n : Nat) (f : ChPort → ChPort) : (s.updPort n f).cores = s.cores := rfl
@[simp] theorem State.updPort_ridges (s : State) (n : Nat) (f : ChPort → ChPort) : (s.updPort n f).ridges = s.ridges := rfl
@[simp] theorem State.updPort_massifs (s : State) (n : Nat) (f : ChPort → ChPort) : (s.updPort n f).massifs = s.massifs := rfl
@[simp] theorem State.updPort_doms (s : State) (n : Nat) (f : ChPort → ChPort) : (s.updPort n f).doms = s.doms := rfl
@[simp] theorem State.updPort_ast (s : State) (n : Nat) (f : ChPort → ChPort) : (s.updPort n f).ast = s.ast := rfl
@[simp] theorem State.updPort_caps (s : State) (n : Nat) (f : ChPort → ChPort) : (s.updPort n f).caps = s.caps := rfl
@[simp] theorem State.updPort_angIn (s : State) (n : Nat) (f : ChPort → ChPort) : (s.updPort n f).angIn = s.angIn := rfl
@[simp] theorem State.updPort_scrubs (s : State) (n : Nat) (f : ChPort → ChPort) : (s.updPort n f).scrubs = s.scrubs := rfl
@[simp] theorem State.updPort_ecc (s : State) (n : Nat) (f : ChPort → ChPort) : (s.updPort n f).ecc = s.ecc := rfl
@[simp] theorem State.updPort_chans (s : State) (n : Nat) (f : ChPort → ChPort) : (s.updPort n f).chans = s.chans := rfl
@[simp] theorem State.updPort_nodes (s : State) (n : Nat) (f : ChPort → ChPort) : (s.updPort n f).nodes = s.nodes := rfl
@[simp] theorem State.updPort_eths (s : State) (n : Nat) (f : ChPort → ChPort) : (s.updPort n f).eths = s.eths := rfl
@[simp] theorem State.updPort_rules (s : State) (n : Nat) (f : ChPort → ChPort) : (s.updPort n f).rules = s.rules := rfl
@[simp] theorem State.updPort_pages (s : State) (n : Nat) (f : ChPort → ChPort) : (s.updPort n f).pages = s.pages := rfl
@[simp] theorem State.updPort_ptp (s : State) (n : Nat) (f : ChPort → ChPort) : (s.updPort n f).ptp = s.ptp := rfl
@[simp] theorem State.updPort_ring (s : State) (n : Nat) (f : ChPort → ChPort) : (s.updPort n f).ring = s.ring := rfl
@[simp] theorem State.updPort_host (s : State) (n : Nat) (f : ChPort → ChPort) : (s.updPort n f).host = s.host := rfl
@[simp] theorem State.updPort_fcu (s : State) (n : Nat) (f : ChPort → ChPort) : (s.updPort n f).fcu = s.fcu := rfl
@[simp] theorem State.updPort_gps (s : State) (n : Nat) (f : ChPort → ChPort) : (s.updPort n f).gps = s.gps := rfl
@[simp] theorem State.updPort_mon (s : State) (n : Nat) (f : ChPort → ChPort) : (s.updPort n f).mon = s.mon := rfl
@[simp] theorem State.updPort_pwr (s : State) (n : Nat) (f : ChPort → ChPort) : (s.updPort n f).pwr = s.pwr := rfl
@[simp] theorem State.updPort_nvm (s : State) (n : Nat) (f : ChPort → ChPort) : (s.updPort n f).nvm = s.nvm := rfl
@[simp] theorem State.updPort_cairn (s : State) (n : Nat) (f : ChPort → ChPort) : (s.updPort n f).cairn = s.cairn := rfl
@[simp] theorem State.updPort_port (s : State) (n k : Nat) (f : ChPort → ChPort) :
    (s.updPort n f).port k = if k = n then f (s.port n) else s.port k := Tbl.get_set _ _ _ _ _
@[simp] theorem State.updEth_pending (s : State) (p : Nat) (f : Eth → Eth) : (s.updEth p f).pending = s.pending := rfl
@[simp] theorem State.updEth_tick (s : State) (p : Nat) (f : Eth → Eth) : (s.updEth p f).tick = s.tick := rfl
@[simp] theorem State.updEth_winStart (s : State) (p : Nat) (f : Eth → Eth) : (s.updEth p f).winStart = s.winStart := rfl
@[simp] theorem State.updEth_free (s : State) (p : Nat) (f : Eth → Eth) : (s.updEth p f).free = s.free := rfl
@[simp] theorem State.updEth_mem (s : State) (p : Nat) (f : Eth → Eth) : (s.updEth p f).mem = s.mem := rfl
@[simp] theorem State.updEth_syn (s : State) (p : Nat) (f : Eth → Eth) : (s.updEth p f).syn = s.syn := rfl
@[simp] theorem State.updEth_cores (s : State) (p : Nat) (f : Eth → Eth) : (s.updEth p f).cores = s.cores := rfl
@[simp] theorem State.updEth_ridges (s : State) (p : Nat) (f : Eth → Eth) : (s.updEth p f).ridges = s.ridges := rfl
@[simp] theorem State.updEth_massifs (s : State) (p : Nat) (f : Eth → Eth) : (s.updEth p f).massifs = s.massifs := rfl
@[simp] theorem State.updEth_doms (s : State) (p : Nat) (f : Eth → Eth) : (s.updEth p f).doms = s.doms := rfl
@[simp] theorem State.updEth_ast (s : State) (p : Nat) (f : Eth → Eth) : (s.updEth p f).ast = s.ast := rfl
@[simp] theorem State.updEth_caps (s : State) (p : Nat) (f : Eth → Eth) : (s.updEth p f).caps = s.caps := rfl
@[simp] theorem State.updEth_angIn (s : State) (p : Nat) (f : Eth → Eth) : (s.updEth p f).angIn = s.angIn := rfl
@[simp] theorem State.updEth_scrubs (s : State) (p : Nat) (f : Eth → Eth) : (s.updEth p f).scrubs = s.scrubs := rfl
@[simp] theorem State.updEth_ecc (s : State) (p : Nat) (f : Eth → Eth) : (s.updEth p f).ecc = s.ecc := rfl
@[simp] theorem State.updEth_chans (s : State) (p : Nat) (f : Eth → Eth) : (s.updEth p f).chans = s.chans := rfl
@[simp] theorem State.updEth_ports (s : State) (p : Nat) (f : Eth → Eth) : (s.updEth p f).ports = s.ports := rfl
@[simp] theorem State.updEth_nodes (s : State) (p : Nat) (f : Eth → Eth) : (s.updEth p f).nodes = s.nodes := rfl
@[simp] theorem State.updEth_rules (s : State) (p : Nat) (f : Eth → Eth) : (s.updEth p f).rules = s.rules := rfl
@[simp] theorem State.updEth_pages (s : State) (p : Nat) (f : Eth → Eth) : (s.updEth p f).pages = s.pages := rfl
@[simp] theorem State.updEth_ptp (s : State) (p : Nat) (f : Eth → Eth) : (s.updEth p f).ptp = s.ptp := rfl
@[simp] theorem State.updEth_ring (s : State) (p : Nat) (f : Eth → Eth) : (s.updEth p f).ring = s.ring := rfl
@[simp] theorem State.updEth_host (s : State) (p : Nat) (f : Eth → Eth) : (s.updEth p f).host = s.host := rfl
@[simp] theorem State.updEth_fcu (s : State) (p : Nat) (f : Eth → Eth) : (s.updEth p f).fcu = s.fcu := rfl
@[simp] theorem State.updEth_gps (s : State) (p : Nat) (f : Eth → Eth) : (s.updEth p f).gps = s.gps := rfl
@[simp] theorem State.updEth_mon (s : State) (p : Nat) (f : Eth → Eth) : (s.updEth p f).mon = s.mon := rfl
@[simp] theorem State.updEth_pwr (s : State) (p : Nat) (f : Eth → Eth) : (s.updEth p f).pwr = s.pwr := rfl
@[simp] theorem State.updEth_nvm (s : State) (p : Nat) (f : Eth → Eth) : (s.updEth p f).nvm = s.nvm := rfl
@[simp] theorem State.updEth_cairn (s : State) (p : Nat) (f : Eth → Eth) : (s.updEth p f).cairn = s.cairn := rfl
@[simp] theorem State.updEth_eth (s : State) (p k : Nat) (f : Eth → Eth) :
    (s.updEth p f).eth k = if k = p then f (s.eth p) else s.eth k := Tbl.get_set _ _ _ _ _
@[simp] theorem State.updMbox_pending (s : State) (n : Nat) (f : Mbox → Mbox) : (s.updMbox n f).pending = s.pending := rfl
@[simp] theorem State.updMbox_tick (s : State) (n : Nat) (f : Mbox → Mbox) : (s.updMbox n f).tick = s.tick := rfl
@[simp] theorem State.updMbox_winStart (s : State) (n : Nat) (f : Mbox → Mbox) : (s.updMbox n f).winStart = s.winStart := rfl
@[simp] theorem State.updMbox_free (s : State) (n : Nat) (f : Mbox → Mbox) : (s.updMbox n f).free = s.free := rfl
@[simp] theorem State.updMbox_mem (s : State) (n : Nat) (f : Mbox → Mbox) : (s.updMbox n f).mem = s.mem := rfl
@[simp] theorem State.updMbox_syn (s : State) (n : Nat) (f : Mbox → Mbox) : (s.updMbox n f).syn = s.syn := rfl
@[simp] theorem State.updMbox_cores (s : State) (n : Nat) (f : Mbox → Mbox) : (s.updMbox n f).cores = s.cores := rfl
@[simp] theorem State.updMbox_ridges (s : State) (n : Nat) (f : Mbox → Mbox) : (s.updMbox n f).ridges = s.ridges := rfl
@[simp] theorem State.updMbox_massifs (s : State) (n : Nat) (f : Mbox → Mbox) : (s.updMbox n f).massifs = s.massifs := rfl
@[simp] theorem State.updMbox_doms (s : State) (n : Nat) (f : Mbox → Mbox) : (s.updMbox n f).doms = s.doms := rfl
@[simp] theorem State.updMbox_ast (s : State) (n : Nat) (f : Mbox → Mbox) : (s.updMbox n f).ast = s.ast := rfl
@[simp] theorem State.updMbox_caps (s : State) (n : Nat) (f : Mbox → Mbox) : (s.updMbox n f).caps = s.caps := rfl
@[simp] theorem State.updMbox_angIn (s : State) (n : Nat) (f : Mbox → Mbox) : (s.updMbox n f).angIn = s.angIn := rfl
@[simp] theorem State.updMbox_scrubs (s : State) (n : Nat) (f : Mbox → Mbox) : (s.updMbox n f).scrubs = s.scrubs := rfl
@[simp] theorem State.updMbox_ecc (s : State) (n : Nat) (f : Mbox → Mbox) : (s.updMbox n f).ecc = s.ecc := rfl
@[simp] theorem State.updMbox_chans (s : State) (n : Nat) (f : Mbox → Mbox) : (s.updMbox n f).chans = s.chans := rfl
@[simp] theorem State.updMbox_ports (s : State) (n : Nat) (f : Mbox → Mbox) : (s.updMbox n f).ports = s.ports := rfl
@[simp] theorem State.updMbox_nodes (s : State) (n : Nat) (f : Mbox → Mbox) : (s.updMbox n f).nodes = s.nodes := rfl
@[simp] theorem State.updMbox_eths (s : State) (n : Nat) (f : Mbox → Mbox) : (s.updMbox n f).eths = s.eths := rfl
@[simp] theorem State.updMbox_rules (s : State) (n : Nat) (f : Mbox → Mbox) : (s.updMbox n f).rules = s.rules := rfl
@[simp] theorem State.updMbox_pages (s : State) (n : Nat) (f : Mbox → Mbox) : (s.updMbox n f).pages = s.pages := rfl
@[simp] theorem State.updMbox_ptp (s : State) (n : Nat) (f : Mbox → Mbox) : (s.updMbox n f).ptp = s.ptp := rfl
@[simp] theorem State.updMbox_host (s : State) (n : Nat) (f : Mbox → Mbox) : (s.updMbox n f).host = s.host := rfl
@[simp] theorem State.updMbox_fcu (s : State) (n : Nat) (f : Mbox → Mbox) : (s.updMbox n f).fcu = s.fcu := rfl
@[simp] theorem State.updMbox_gps (s : State) (n : Nat) (f : Mbox → Mbox) : (s.updMbox n f).gps = s.gps := rfl
@[simp] theorem State.updMbox_mon (s : State) (n : Nat) (f : Mbox → Mbox) : (s.updMbox n f).mon = s.mon := rfl
@[simp] theorem State.updMbox_pwr (s : State) (n : Nat) (f : Mbox → Mbox) : (s.updMbox n f).pwr = s.pwr := rfl
@[simp] theorem State.updMbox_nvm (s : State) (n : Nat) (f : Mbox → Mbox) : (s.updMbox n f).nvm = s.nvm := rfl
@[simp] theorem State.updMbox_cairn (s : State) (n : Nat) (f : Mbox → Mbox) : (s.updMbox n f).cairn = s.cairn := rfl
@[simp] theorem State.updGp_pending (s : State) (p : Nat) (f : GpPin → GpPin) : (s.updGp p f).pending = s.pending := rfl
@[simp] theorem State.updGp_tick (s : State) (p : Nat) (f : GpPin → GpPin) : (s.updGp p f).tick = s.tick := rfl
@[simp] theorem State.updGp_winStart (s : State) (p : Nat) (f : GpPin → GpPin) : (s.updGp p f).winStart = s.winStart := rfl
@[simp] theorem State.updGp_free (s : State) (p : Nat) (f : GpPin → GpPin) : (s.updGp p f).free = s.free := rfl
@[simp] theorem State.updGp_mem (s : State) (p : Nat) (f : GpPin → GpPin) : (s.updGp p f).mem = s.mem := rfl
@[simp] theorem State.updGp_syn (s : State) (p : Nat) (f : GpPin → GpPin) : (s.updGp p f).syn = s.syn := rfl
@[simp] theorem State.updGp_cores (s : State) (p : Nat) (f : GpPin → GpPin) : (s.updGp p f).cores = s.cores := rfl
@[simp] theorem State.updGp_ridges (s : State) (p : Nat) (f : GpPin → GpPin) : (s.updGp p f).ridges = s.ridges := rfl
@[simp] theorem State.updGp_massifs (s : State) (p : Nat) (f : GpPin → GpPin) : (s.updGp p f).massifs = s.massifs := rfl
@[simp] theorem State.updGp_doms (s : State) (p : Nat) (f : GpPin → GpPin) : (s.updGp p f).doms = s.doms := rfl
@[simp] theorem State.updGp_ast (s : State) (p : Nat) (f : GpPin → GpPin) : (s.updGp p f).ast = s.ast := rfl
@[simp] theorem State.updGp_caps (s : State) (p : Nat) (f : GpPin → GpPin) : (s.updGp p f).caps = s.caps := rfl
@[simp] theorem State.updGp_angIn (s : State) (p : Nat) (f : GpPin → GpPin) : (s.updGp p f).angIn = s.angIn := rfl
@[simp] theorem State.updGp_scrubs (s : State) (p : Nat) (f : GpPin → GpPin) : (s.updGp p f).scrubs = s.scrubs := rfl
@[simp] theorem State.updGp_ecc (s : State) (p : Nat) (f : GpPin → GpPin) : (s.updGp p f).ecc = s.ecc := rfl
@[simp] theorem State.updGp_chans (s : State) (p : Nat) (f : GpPin → GpPin) : (s.updGp p f).chans = s.chans := rfl
@[simp] theorem State.updGp_ports (s : State) (p : Nat) (f : GpPin → GpPin) : (s.updGp p f).ports = s.ports := rfl
@[simp] theorem State.updGp_nodes (s : State) (p : Nat) (f : GpPin → GpPin) : (s.updGp p f).nodes = s.nodes := rfl
@[simp] theorem State.updGp_eths (s : State) (p : Nat) (f : GpPin → GpPin) : (s.updGp p f).eths = s.eths := rfl
@[simp] theorem State.updGp_rules (s : State) (p : Nat) (f : GpPin → GpPin) : (s.updGp p f).rules = s.rules := rfl
@[simp] theorem State.updGp_pages (s : State) (p : Nat) (f : GpPin → GpPin) : (s.updGp p f).pages = s.pages := rfl
@[simp] theorem State.updGp_ptp (s : State) (p : Nat) (f : GpPin → GpPin) : (s.updGp p f).ptp = s.ptp := rfl
@[simp] theorem State.updGp_ring (s : State) (p : Nat) (f : GpPin → GpPin) : (s.updGp p f).ring = s.ring := rfl
@[simp] theorem State.updGp_host (s : State) (p : Nat) (f : GpPin → GpPin) : (s.updGp p f).host = s.host := rfl
@[simp] theorem State.updGp_fcu (s : State) (p : Nat) (f : GpPin → GpPin) : (s.updGp p f).fcu = s.fcu := rfl
@[simp] theorem State.updGp_mon (s : State) (p : Nat) (f : GpPin → GpPin) : (s.updGp p f).mon = s.mon := rfl
@[simp] theorem State.updGp_pwr (s : State) (p : Nat) (f : GpPin → GpPin) : (s.updGp p f).pwr = s.pwr := rfl
@[simp] theorem State.updGp_nvm (s : State) (p : Nat) (f : GpPin → GpPin) : (s.updGp p f).nvm = s.nvm := rfl
@[simp] theorem State.updGp_cairn (s : State) (p : Nat) (f : GpPin → GpPin) : (s.updGp p f).cairn = s.cairn := rfl
@[simp] theorem State.updGp_gp (s : State) (p k : Nat) (f : GpPin → GpPin) :
    (s.updGp p f).gp k = if k = p then f (s.gp p) else s.gp k := Tbl.get_set _ _ _ _ _
@[simp] theorem State.updSrc_pending (s : State) (n : Nat) (f : FcuSrc → FcuSrc) : (s.updSrc n f).pending = s.pending := rfl
@[simp] theorem State.updSrc_tick (s : State) (n : Nat) (f : FcuSrc → FcuSrc) : (s.updSrc n f).tick = s.tick := rfl
@[simp] theorem State.updSrc_winStart (s : State) (n : Nat) (f : FcuSrc → FcuSrc) : (s.updSrc n f).winStart = s.winStart := rfl
@[simp] theorem State.updSrc_free (s : State) (n : Nat) (f : FcuSrc → FcuSrc) : (s.updSrc n f).free = s.free := rfl
@[simp] theorem State.updSrc_mem (s : State) (n : Nat) (f : FcuSrc → FcuSrc) : (s.updSrc n f).mem = s.mem := rfl
@[simp] theorem State.updSrc_syn (s : State) (n : Nat) (f : FcuSrc → FcuSrc) : (s.updSrc n f).syn = s.syn := rfl
@[simp] theorem State.updSrc_cores (s : State) (n : Nat) (f : FcuSrc → FcuSrc) : (s.updSrc n f).cores = s.cores := rfl
@[simp] theorem State.updSrc_ridges (s : State) (n : Nat) (f : FcuSrc → FcuSrc) : (s.updSrc n f).ridges = s.ridges := rfl
@[simp] theorem State.updSrc_massifs (s : State) (n : Nat) (f : FcuSrc → FcuSrc) : (s.updSrc n f).massifs = s.massifs := rfl
@[simp] theorem State.updSrc_doms (s : State) (n : Nat) (f : FcuSrc → FcuSrc) : (s.updSrc n f).doms = s.doms := rfl
@[simp] theorem State.updSrc_ast (s : State) (n : Nat) (f : FcuSrc → FcuSrc) : (s.updSrc n f).ast = s.ast := rfl
@[simp] theorem State.updSrc_caps (s : State) (n : Nat) (f : FcuSrc → FcuSrc) : (s.updSrc n f).caps = s.caps := rfl
@[simp] theorem State.updSrc_angIn (s : State) (n : Nat) (f : FcuSrc → FcuSrc) : (s.updSrc n f).angIn = s.angIn := rfl
@[simp] theorem State.updSrc_scrubs (s : State) (n : Nat) (f : FcuSrc → FcuSrc) : (s.updSrc n f).scrubs = s.scrubs := rfl
@[simp] theorem State.updSrc_ecc (s : State) (n : Nat) (f : FcuSrc → FcuSrc) : (s.updSrc n f).ecc = s.ecc := rfl
@[simp] theorem State.updSrc_chans (s : State) (n : Nat) (f : FcuSrc → FcuSrc) : (s.updSrc n f).chans = s.chans := rfl
@[simp] theorem State.updSrc_ports (s : State) (n : Nat) (f : FcuSrc → FcuSrc) : (s.updSrc n f).ports = s.ports := rfl
@[simp] theorem State.updSrc_nodes (s : State) (n : Nat) (f : FcuSrc → FcuSrc) : (s.updSrc n f).nodes = s.nodes := rfl
@[simp] theorem State.updSrc_eths (s : State) (n : Nat) (f : FcuSrc → FcuSrc) : (s.updSrc n f).eths = s.eths := rfl
@[simp] theorem State.updSrc_rules (s : State) (n : Nat) (f : FcuSrc → FcuSrc) : (s.updSrc n f).rules = s.rules := rfl
@[simp] theorem State.updSrc_pages (s : State) (n : Nat) (f : FcuSrc → FcuSrc) : (s.updSrc n f).pages = s.pages := rfl
@[simp] theorem State.updSrc_ptp (s : State) (n : Nat) (f : FcuSrc → FcuSrc) : (s.updSrc n f).ptp = s.ptp := rfl
@[simp] theorem State.updSrc_ring (s : State) (n : Nat) (f : FcuSrc → FcuSrc) : (s.updSrc n f).ring = s.ring := rfl
@[simp] theorem State.updSrc_host (s : State) (n : Nat) (f : FcuSrc → FcuSrc) : (s.updSrc n f).host = s.host := rfl
@[simp] theorem State.updSrc_gps (s : State) (n : Nat) (f : FcuSrc → FcuSrc) : (s.updSrc n f).gps = s.gps := rfl
@[simp] theorem State.updSrc_mon (s : State) (n : Nat) (f : FcuSrc → FcuSrc) : (s.updSrc n f).mon = s.mon := rfl
@[simp] theorem State.updSrc_pwr (s : State) (n : Nat) (f : FcuSrc → FcuSrc) : (s.updSrc n f).pwr = s.pwr := rfl
@[simp] theorem State.updSrc_nvm (s : State) (n : Nat) (f : FcuSrc → FcuSrc) : (s.updSrc n f).nvm = s.nvm := rfl
@[simp] theorem State.updSrc_cairn (s : State) (n : Nat) (f : FcuSrc → FcuSrc) : (s.updSrc n f).cairn = s.cairn := rfl
@[simp] theorem State.updFcu_pending (s : State) (f : Fcu → Fcu) : (s.updFcu f).pending = s.pending := rfl
@[simp] theorem State.updFcu_tick (s : State) (f : Fcu → Fcu) : (s.updFcu f).tick = s.tick := rfl
@[simp] theorem State.updFcu_winStart (s : State) (f : Fcu → Fcu) : (s.updFcu f).winStart = s.winStart := rfl
@[simp] theorem State.updFcu_free (s : State) (f : Fcu → Fcu) : (s.updFcu f).free = s.free := rfl
@[simp] theorem State.updFcu_mem (s : State) (f : Fcu → Fcu) : (s.updFcu f).mem = s.mem := rfl
@[simp] theorem State.updFcu_syn (s : State) (f : Fcu → Fcu) : (s.updFcu f).syn = s.syn := rfl
@[simp] theorem State.updFcu_cores (s : State) (f : Fcu → Fcu) : (s.updFcu f).cores = s.cores := rfl
@[simp] theorem State.updFcu_ridges (s : State) (f : Fcu → Fcu) : (s.updFcu f).ridges = s.ridges := rfl
@[simp] theorem State.updFcu_massifs (s : State) (f : Fcu → Fcu) : (s.updFcu f).massifs = s.massifs := rfl
@[simp] theorem State.updFcu_doms (s : State) (f : Fcu → Fcu) : (s.updFcu f).doms = s.doms := rfl
@[simp] theorem State.updFcu_ast (s : State) (f : Fcu → Fcu) : (s.updFcu f).ast = s.ast := rfl
@[simp] theorem State.updFcu_caps (s : State) (f : Fcu → Fcu) : (s.updFcu f).caps = s.caps := rfl
@[simp] theorem State.updFcu_angIn (s : State) (f : Fcu → Fcu) : (s.updFcu f).angIn = s.angIn := rfl
@[simp] theorem State.updFcu_scrubs (s : State) (f : Fcu → Fcu) : (s.updFcu f).scrubs = s.scrubs := rfl
@[simp] theorem State.updFcu_ecc (s : State) (f : Fcu → Fcu) : (s.updFcu f).ecc = s.ecc := rfl
@[simp] theorem State.updFcu_chans (s : State) (f : Fcu → Fcu) : (s.updFcu f).chans = s.chans := rfl
@[simp] theorem State.updFcu_ports (s : State) (f : Fcu → Fcu) : (s.updFcu f).ports = s.ports := rfl
@[simp] theorem State.updFcu_nodes (s : State) (f : Fcu → Fcu) : (s.updFcu f).nodes = s.nodes := rfl
@[simp] theorem State.updFcu_eths (s : State) (f : Fcu → Fcu) : (s.updFcu f).eths = s.eths := rfl
@[simp] theorem State.updFcu_rules (s : State) (f : Fcu → Fcu) : (s.updFcu f).rules = s.rules := rfl
@[simp] theorem State.updFcu_pages (s : State) (f : Fcu → Fcu) : (s.updFcu f).pages = s.pages := rfl
@[simp] theorem State.updFcu_ptp (s : State) (f : Fcu → Fcu) : (s.updFcu f).ptp = s.ptp := rfl
@[simp] theorem State.updFcu_ring (s : State) (f : Fcu → Fcu) : (s.updFcu f).ring = s.ring := rfl
@[simp] theorem State.updFcu_host (s : State) (f : Fcu → Fcu) : (s.updFcu f).host = s.host := rfl
@[simp] theorem State.updFcu_gps (s : State) (f : Fcu → Fcu) : (s.updFcu f).gps = s.gps := rfl
@[simp] theorem State.updFcu_mon (s : State) (f : Fcu → Fcu) : (s.updFcu f).mon = s.mon := rfl
@[simp] theorem State.updFcu_pwr (s : State) (f : Fcu → Fcu) : (s.updFcu f).pwr = s.pwr := rfl
@[simp] theorem State.updFcu_nvm (s : State) (f : Fcu → Fcu) : (s.updFcu f).nvm = s.nvm := rfl
@[simp] theorem State.updFcu_cairn (s : State) (f : Fcu → Fcu) : (s.updFcu f).cairn = s.cairn := rfl
@[simp] theorem State.updFcu_fcu (s : State) (f : Fcu → Fcu) : (s.updFcu f).fcu = f s.fcu := rfl
@[simp] theorem State.updPwr_pending (s : State) (f : Pwr → Pwr) : (s.updPwr f).pending = s.pending := rfl
@[simp] theorem State.updPwr_tick (s : State) (f : Pwr → Pwr) : (s.updPwr f).tick = s.tick := rfl
@[simp] theorem State.updPwr_winStart (s : State) (f : Pwr → Pwr) : (s.updPwr f).winStart = s.winStart := rfl
@[simp] theorem State.updPwr_free (s : State) (f : Pwr → Pwr) : (s.updPwr f).free = s.free := rfl
@[simp] theorem State.updPwr_mem (s : State) (f : Pwr → Pwr) : (s.updPwr f).mem = s.mem := rfl
@[simp] theorem State.updPwr_syn (s : State) (f : Pwr → Pwr) : (s.updPwr f).syn = s.syn := rfl
@[simp] theorem State.updPwr_cores (s : State) (f : Pwr → Pwr) : (s.updPwr f).cores = s.cores := rfl
@[simp] theorem State.updPwr_ridges (s : State) (f : Pwr → Pwr) : (s.updPwr f).ridges = s.ridges := rfl
@[simp] theorem State.updPwr_massifs (s : State) (f : Pwr → Pwr) : (s.updPwr f).massifs = s.massifs := rfl
@[simp] theorem State.updPwr_doms (s : State) (f : Pwr → Pwr) : (s.updPwr f).doms = s.doms := rfl
@[simp] theorem State.updPwr_ast (s : State) (f : Pwr → Pwr) : (s.updPwr f).ast = s.ast := rfl
@[simp] theorem State.updPwr_caps (s : State) (f : Pwr → Pwr) : (s.updPwr f).caps = s.caps := rfl
@[simp] theorem State.updPwr_angIn (s : State) (f : Pwr → Pwr) : (s.updPwr f).angIn = s.angIn := rfl
@[simp] theorem State.updPwr_scrubs (s : State) (f : Pwr → Pwr) : (s.updPwr f).scrubs = s.scrubs := rfl
@[simp] theorem State.updPwr_ecc (s : State) (f : Pwr → Pwr) : (s.updPwr f).ecc = s.ecc := rfl
@[simp] theorem State.updPwr_chans (s : State) (f : Pwr → Pwr) : (s.updPwr f).chans = s.chans := rfl
@[simp] theorem State.updPwr_ports (s : State) (f : Pwr → Pwr) : (s.updPwr f).ports = s.ports := rfl
@[simp] theorem State.updPwr_nodes (s : State) (f : Pwr → Pwr) : (s.updPwr f).nodes = s.nodes := rfl
@[simp] theorem State.updPwr_eths (s : State) (f : Pwr → Pwr) : (s.updPwr f).eths = s.eths := rfl
@[simp] theorem State.updPwr_rules (s : State) (f : Pwr → Pwr) : (s.updPwr f).rules = s.rules := rfl
@[simp] theorem State.updPwr_pages (s : State) (f : Pwr → Pwr) : (s.updPwr f).pages = s.pages := rfl
@[simp] theorem State.updPwr_ptp (s : State) (f : Pwr → Pwr) : (s.updPwr f).ptp = s.ptp := rfl
@[simp] theorem State.updPwr_ring (s : State) (f : Pwr → Pwr) : (s.updPwr f).ring = s.ring := rfl
@[simp] theorem State.updPwr_host (s : State) (f : Pwr → Pwr) : (s.updPwr f).host = s.host := rfl
@[simp] theorem State.updPwr_fcu (s : State) (f : Pwr → Pwr) : (s.updPwr f).fcu = s.fcu := rfl
@[simp] theorem State.updPwr_gps (s : State) (f : Pwr → Pwr) : (s.updPwr f).gps = s.gps := rfl
@[simp] theorem State.updPwr_mon (s : State) (f : Pwr → Pwr) : (s.updPwr f).mon = s.mon := rfl
@[simp] theorem State.updPwr_nvm (s : State) (f : Pwr → Pwr) : (s.updPwr f).nvm = s.nvm := rfl
@[simp] theorem State.updPwr_cairn (s : State) (f : Pwr → Pwr) : (s.updPwr f).cairn = s.cairn := rfl
@[simp] theorem State.updPwr_pwr (s : State) (f : Pwr → Pwr) : (s.updPwr f).pwr = f s.pwr := rfl
@[simp] theorem State.updEcc_pending (s : State) (f : Ecc → Ecc) : (s.updEcc f).pending = s.pending := rfl
@[simp] theorem State.updEcc_tick (s : State) (f : Ecc → Ecc) : (s.updEcc f).tick = s.tick := rfl
@[simp] theorem State.updEcc_winStart (s : State) (f : Ecc → Ecc) : (s.updEcc f).winStart = s.winStart := rfl
@[simp] theorem State.updEcc_free (s : State) (f : Ecc → Ecc) : (s.updEcc f).free = s.free := rfl
@[simp] theorem State.updEcc_mem (s : State) (f : Ecc → Ecc) : (s.updEcc f).mem = s.mem := rfl
@[simp] theorem State.updEcc_syn (s : State) (f : Ecc → Ecc) : (s.updEcc f).syn = s.syn := rfl
@[simp] theorem State.updEcc_cores (s : State) (f : Ecc → Ecc) : (s.updEcc f).cores = s.cores := rfl
@[simp] theorem State.updEcc_ridges (s : State) (f : Ecc → Ecc) : (s.updEcc f).ridges = s.ridges := rfl
@[simp] theorem State.updEcc_massifs (s : State) (f : Ecc → Ecc) : (s.updEcc f).massifs = s.massifs := rfl
@[simp] theorem State.updEcc_doms (s : State) (f : Ecc → Ecc) : (s.updEcc f).doms = s.doms := rfl
@[simp] theorem State.updEcc_ast (s : State) (f : Ecc → Ecc) : (s.updEcc f).ast = s.ast := rfl
@[simp] theorem State.updEcc_caps (s : State) (f : Ecc → Ecc) : (s.updEcc f).caps = s.caps := rfl
@[simp] theorem State.updEcc_angIn (s : State) (f : Ecc → Ecc) : (s.updEcc f).angIn = s.angIn := rfl
@[simp] theorem State.updEcc_scrubs (s : State) (f : Ecc → Ecc) : (s.updEcc f).scrubs = s.scrubs := rfl
@[simp] theorem State.updEcc_chans (s : State) (f : Ecc → Ecc) : (s.updEcc f).chans = s.chans := rfl
@[simp] theorem State.updEcc_ports (s : State) (f : Ecc → Ecc) : (s.updEcc f).ports = s.ports := rfl
@[simp] theorem State.updEcc_nodes (s : State) (f : Ecc → Ecc) : (s.updEcc f).nodes = s.nodes := rfl
@[simp] theorem State.updEcc_eths (s : State) (f : Ecc → Ecc) : (s.updEcc f).eths = s.eths := rfl
@[simp] theorem State.updEcc_rules (s : State) (f : Ecc → Ecc) : (s.updEcc f).rules = s.rules := rfl
@[simp] theorem State.updEcc_pages (s : State) (f : Ecc → Ecc) : (s.updEcc f).pages = s.pages := rfl
@[simp] theorem State.updEcc_ptp (s : State) (f : Ecc → Ecc) : (s.updEcc f).ptp = s.ptp := rfl
@[simp] theorem State.updEcc_ring (s : State) (f : Ecc → Ecc) : (s.updEcc f).ring = s.ring := rfl
@[simp] theorem State.updEcc_host (s : State) (f : Ecc → Ecc) : (s.updEcc f).host = s.host := rfl
@[simp] theorem State.updEcc_fcu (s : State) (f : Ecc → Ecc) : (s.updEcc f).fcu = s.fcu := rfl
@[simp] theorem State.updEcc_gps (s : State) (f : Ecc → Ecc) : (s.updEcc f).gps = s.gps := rfl
@[simp] theorem State.updEcc_mon (s : State) (f : Ecc → Ecc) : (s.updEcc f).mon = s.mon := rfl
@[simp] theorem State.updEcc_pwr (s : State) (f : Ecc → Ecc) : (s.updEcc f).pwr = s.pwr := rfl
@[simp] theorem State.updEcc_nvm (s : State) (f : Ecc → Ecc) : (s.updEcc f).nvm = s.nvm := rfl
@[simp] theorem State.updEcc_cairn (s : State) (f : Ecc → Ecc) : (s.updEcc f).cairn = s.cairn := rfl
@[simp] theorem State.updEcc_ecc (s : State) (f : Ecc → Ecc) : (s.updEcc f).ecc = f s.ecc := rfl
@[simp] theorem State.updCairn_pending (s : State) (f : Cairn → Cairn) : (s.updCairn f).pending = s.pending := rfl
@[simp] theorem State.updCairn_tick (s : State) (f : Cairn → Cairn) : (s.updCairn f).tick = s.tick := rfl
@[simp] theorem State.updCairn_winStart (s : State) (f : Cairn → Cairn) : (s.updCairn f).winStart = s.winStart := rfl
@[simp] theorem State.updCairn_free (s : State) (f : Cairn → Cairn) : (s.updCairn f).free = s.free := rfl
@[simp] theorem State.updCairn_mem (s : State) (f : Cairn → Cairn) : (s.updCairn f).mem = s.mem := rfl
@[simp] theorem State.updCairn_syn (s : State) (f : Cairn → Cairn) : (s.updCairn f).syn = s.syn := rfl
@[simp] theorem State.updCairn_cores (s : State) (f : Cairn → Cairn) : (s.updCairn f).cores = s.cores := rfl
@[simp] theorem State.updCairn_ridges (s : State) (f : Cairn → Cairn) : (s.updCairn f).ridges = s.ridges := rfl
@[simp] theorem State.updCairn_massifs (s : State) (f : Cairn → Cairn) : (s.updCairn f).massifs = s.massifs := rfl
@[simp] theorem State.updCairn_doms (s : State) (f : Cairn → Cairn) : (s.updCairn f).doms = s.doms := rfl
@[simp] theorem State.updCairn_ast (s : State) (f : Cairn → Cairn) : (s.updCairn f).ast = s.ast := rfl
@[simp] theorem State.updCairn_caps (s : State) (f : Cairn → Cairn) : (s.updCairn f).caps = s.caps := rfl
@[simp] theorem State.updCairn_angIn (s : State) (f : Cairn → Cairn) : (s.updCairn f).angIn = s.angIn := rfl
@[simp] theorem State.updCairn_scrubs (s : State) (f : Cairn → Cairn) : (s.updCairn f).scrubs = s.scrubs := rfl
@[simp] theorem State.updCairn_ecc (s : State) (f : Cairn → Cairn) : (s.updCairn f).ecc = s.ecc := rfl
@[simp] theorem State.updCairn_chans (s : State) (f : Cairn → Cairn) : (s.updCairn f).chans = s.chans := rfl
@[simp] theorem State.updCairn_ports (s : State) (f : Cairn → Cairn) : (s.updCairn f).ports = s.ports := rfl
@[simp] theorem State.updCairn_nodes (s : State) (f : Cairn → Cairn) : (s.updCairn f).nodes = s.nodes := rfl
@[simp] theorem State.updCairn_eths (s : State) (f : Cairn → Cairn) : (s.updCairn f).eths = s.eths := rfl
@[simp] theorem State.updCairn_rules (s : State) (f : Cairn → Cairn) : (s.updCairn f).rules = s.rules := rfl
@[simp] theorem State.updCairn_pages (s : State) (f : Cairn → Cairn) : (s.updCairn f).pages = s.pages := rfl
@[simp] theorem State.updCairn_ptp (s : State) (f : Cairn → Cairn) : (s.updCairn f).ptp = s.ptp := rfl
@[simp] theorem State.updCairn_ring (s : State) (f : Cairn → Cairn) : (s.updCairn f).ring = s.ring := rfl
@[simp] theorem State.updCairn_host (s : State) (f : Cairn → Cairn) : (s.updCairn f).host = s.host := rfl
@[simp] theorem State.updCairn_fcu (s : State) (f : Cairn → Cairn) : (s.updCairn f).fcu = s.fcu := rfl
@[simp] theorem State.updCairn_gps (s : State) (f : Cairn → Cairn) : (s.updCairn f).gps = s.gps := rfl
@[simp] theorem State.updCairn_mon (s : State) (f : Cairn → Cairn) : (s.updCairn f).mon = s.mon := rfl
@[simp] theorem State.updCairn_pwr (s : State) (f : Cairn → Cairn) : (s.updCairn f).pwr = s.pwr := rfl
@[simp] theorem State.updCairn_nvm (s : State) (f : Cairn → Cairn) : (s.updCairn f).nvm = s.nvm := rfl
@[simp] theorem State.updCairn_cairn (s : State) (f : Cairn → Cairn) : (s.updCairn f).cairn = f s.cairn := rfl
@[simp] theorem State.updRing_pending (s : State) (f : SRing → SRing) : (s.updRing f).pending = s.pending := rfl
@[simp] theorem State.updRing_tick (s : State) (f : SRing → SRing) : (s.updRing f).tick = s.tick := rfl
@[simp] theorem State.updRing_winStart (s : State) (f : SRing → SRing) : (s.updRing f).winStart = s.winStart := rfl
@[simp] theorem State.updRing_free (s : State) (f : SRing → SRing) : (s.updRing f).free = s.free := rfl
@[simp] theorem State.updRing_mem (s : State) (f : SRing → SRing) : (s.updRing f).mem = s.mem := rfl
@[simp] theorem State.updRing_syn (s : State) (f : SRing → SRing) : (s.updRing f).syn = s.syn := rfl
@[simp] theorem State.updRing_cores (s : State) (f : SRing → SRing) : (s.updRing f).cores = s.cores := rfl
@[simp] theorem State.updRing_ridges (s : State) (f : SRing → SRing) : (s.updRing f).ridges = s.ridges := rfl
@[simp] theorem State.updRing_massifs (s : State) (f : SRing → SRing) : (s.updRing f).massifs = s.massifs := rfl
@[simp] theorem State.updRing_doms (s : State) (f : SRing → SRing) : (s.updRing f).doms = s.doms := rfl
@[simp] theorem State.updRing_ast (s : State) (f : SRing → SRing) : (s.updRing f).ast = s.ast := rfl
@[simp] theorem State.updRing_caps (s : State) (f : SRing → SRing) : (s.updRing f).caps = s.caps := rfl
@[simp] theorem State.updRing_angIn (s : State) (f : SRing → SRing) : (s.updRing f).angIn = s.angIn := rfl
@[simp] theorem State.updRing_scrubs (s : State) (f : SRing → SRing) : (s.updRing f).scrubs = s.scrubs := rfl
@[simp] theorem State.updRing_ecc (s : State) (f : SRing → SRing) : (s.updRing f).ecc = s.ecc := rfl
@[simp] theorem State.updRing_chans (s : State) (f : SRing → SRing) : (s.updRing f).chans = s.chans := rfl
@[simp] theorem State.updRing_ports (s : State) (f : SRing → SRing) : (s.updRing f).ports = s.ports := rfl
@[simp] theorem State.updRing_nodes (s : State) (f : SRing → SRing) : (s.updRing f).nodes = s.nodes := rfl
@[simp] theorem State.updRing_eths (s : State) (f : SRing → SRing) : (s.updRing f).eths = s.eths := rfl
@[simp] theorem State.updRing_rules (s : State) (f : SRing → SRing) : (s.updRing f).rules = s.rules := rfl
@[simp] theorem State.updRing_pages (s : State) (f : SRing → SRing) : (s.updRing f).pages = s.pages := rfl
@[simp] theorem State.updRing_ptp (s : State) (f : SRing → SRing) : (s.updRing f).ptp = s.ptp := rfl
@[simp] theorem State.updRing_host (s : State) (f : SRing → SRing) : (s.updRing f).host = s.host := rfl
@[simp] theorem State.updRing_fcu (s : State) (f : SRing → SRing) : (s.updRing f).fcu = s.fcu := rfl
@[simp] theorem State.updRing_gps (s : State) (f : SRing → SRing) : (s.updRing f).gps = s.gps := rfl
@[simp] theorem State.updRing_mon (s : State) (f : SRing → SRing) : (s.updRing f).mon = s.mon := rfl
@[simp] theorem State.updRing_pwr (s : State) (f : SRing → SRing) : (s.updRing f).pwr = s.pwr := rfl
@[simp] theorem State.updRing_nvm (s : State) (f : SRing → SRing) : (s.updRing f).nvm = s.nvm := rfl
@[simp] theorem State.updRing_cairn (s : State) (f : SRing → SRing) : (s.updRing f).cairn = s.cairn := rfl
@[simp] theorem State.updRing_ring (s : State) (f : SRing → SRing) : (s.updRing f).ring = f s.ring := rfl
@[simp] theorem State.updNvm_pending (s : State) (f : Nvm → Nvm) : (s.updNvm f).pending = s.pending := rfl
@[simp] theorem State.updNvm_tick (s : State) (f : Nvm → Nvm) : (s.updNvm f).tick = s.tick := rfl
@[simp] theorem State.updNvm_winStart (s : State) (f : Nvm → Nvm) : (s.updNvm f).winStart = s.winStart := rfl
@[simp] theorem State.updNvm_free (s : State) (f : Nvm → Nvm) : (s.updNvm f).free = s.free := rfl
@[simp] theorem State.updNvm_mem (s : State) (f : Nvm → Nvm) : (s.updNvm f).mem = s.mem := rfl
@[simp] theorem State.updNvm_syn (s : State) (f : Nvm → Nvm) : (s.updNvm f).syn = s.syn := rfl
@[simp] theorem State.updNvm_cores (s : State) (f : Nvm → Nvm) : (s.updNvm f).cores = s.cores := rfl
@[simp] theorem State.updNvm_ridges (s : State) (f : Nvm → Nvm) : (s.updNvm f).ridges = s.ridges := rfl
@[simp] theorem State.updNvm_massifs (s : State) (f : Nvm → Nvm) : (s.updNvm f).massifs = s.massifs := rfl
@[simp] theorem State.updNvm_doms (s : State) (f : Nvm → Nvm) : (s.updNvm f).doms = s.doms := rfl
@[simp] theorem State.updNvm_ast (s : State) (f : Nvm → Nvm) : (s.updNvm f).ast = s.ast := rfl
@[simp] theorem State.updNvm_caps (s : State) (f : Nvm → Nvm) : (s.updNvm f).caps = s.caps := rfl
@[simp] theorem State.updNvm_angIn (s : State) (f : Nvm → Nvm) : (s.updNvm f).angIn = s.angIn := rfl
@[simp] theorem State.updNvm_scrubs (s : State) (f : Nvm → Nvm) : (s.updNvm f).scrubs = s.scrubs := rfl
@[simp] theorem State.updNvm_ecc (s : State) (f : Nvm → Nvm) : (s.updNvm f).ecc = s.ecc := rfl
@[simp] theorem State.updNvm_chans (s : State) (f : Nvm → Nvm) : (s.updNvm f).chans = s.chans := rfl
@[simp] theorem State.updNvm_ports (s : State) (f : Nvm → Nvm) : (s.updNvm f).ports = s.ports := rfl
@[simp] theorem State.updNvm_nodes (s : State) (f : Nvm → Nvm) : (s.updNvm f).nodes = s.nodes := rfl
@[simp] theorem State.updNvm_eths (s : State) (f : Nvm → Nvm) : (s.updNvm f).eths = s.eths := rfl
@[simp] theorem State.updNvm_rules (s : State) (f : Nvm → Nvm) : (s.updNvm f).rules = s.rules := rfl
@[simp] theorem State.updNvm_pages (s : State) (f : Nvm → Nvm) : (s.updNvm f).pages = s.pages := rfl
@[simp] theorem State.updNvm_ptp (s : State) (f : Nvm → Nvm) : (s.updNvm f).ptp = s.ptp := rfl
@[simp] theorem State.updNvm_ring (s : State) (f : Nvm → Nvm) : (s.updNvm f).ring = s.ring := rfl
@[simp] theorem State.updNvm_host (s : State) (f : Nvm → Nvm) : (s.updNvm f).host = s.host := rfl
@[simp] theorem State.updNvm_fcu (s : State) (f : Nvm → Nvm) : (s.updNvm f).fcu = s.fcu := rfl
@[simp] theorem State.updNvm_gps (s : State) (f : Nvm → Nvm) : (s.updNvm f).gps = s.gps := rfl
@[simp] theorem State.updNvm_mon (s : State) (f : Nvm → Nvm) : (s.updNvm f).mon = s.mon := rfl
@[simp] theorem State.updNvm_pwr (s : State) (f : Nvm → Nvm) : (s.updNvm f).pwr = s.pwr := rfl
@[simp] theorem State.updNvm_cairn (s : State) (f : Nvm → Nvm) : (s.updNvm f).cairn = s.cairn := rfl
@[simp] theorem State.updNvm_nvm (s : State) (f : Nvm → Nvm) : (s.updNvm f).nvm = f s.nvm := rfl
@[simp] theorem State.setCore_pending (s : State) (c : Nat) (x : Core) : (s.setCore c x).pending = s.pending := rfl
@[simp] theorem State.setCore_tick (s : State) (c : Nat) (x : Core) : (s.setCore c x).tick = s.tick := rfl
@[simp] theorem State.setCore_winStart (s : State) (c : Nat) (x : Core) : (s.setCore c x).winStart = s.winStart := rfl
@[simp] theorem State.setCore_free (s : State) (c : Nat) (x : Core) : (s.setCore c x).free = s.free := rfl
@[simp] theorem State.setCore_mem (s : State) (c : Nat) (x : Core) : (s.setCore c x).mem = s.mem := rfl
@[simp] theorem State.setCore_syn (s : State) (c : Nat) (x : Core) : (s.setCore c x).syn = s.syn := rfl
@[simp] theorem State.setCore_ridges (s : State) (c : Nat) (x : Core) : (s.setCore c x).ridges = s.ridges := rfl
@[simp] theorem State.setCore_massifs (s : State) (c : Nat) (x : Core) : (s.setCore c x).massifs = s.massifs := rfl
@[simp] theorem State.setCore_doms (s : State) (c : Nat) (x : Core) : (s.setCore c x).doms = s.doms := rfl
@[simp] theorem State.setCore_ast (s : State) (c : Nat) (x : Core) : (s.setCore c x).ast = s.ast := rfl
@[simp] theorem State.setCore_caps (s : State) (c : Nat) (x : Core) : (s.setCore c x).caps = s.caps := rfl
@[simp] theorem State.setCore_angIn (s : State) (c : Nat) (x : Core) : (s.setCore c x).angIn = s.angIn := rfl
@[simp] theorem State.setCore_scrubs (s : State) (c : Nat) (x : Core) : (s.setCore c x).scrubs = s.scrubs := rfl
@[simp] theorem State.setCore_ecc (s : State) (c : Nat) (x : Core) : (s.setCore c x).ecc = s.ecc := rfl
@[simp] theorem State.setCore_chans (s : State) (c : Nat) (x : Core) : (s.setCore c x).chans = s.chans := rfl
@[simp] theorem State.setCore_ports (s : State) (c : Nat) (x : Core) : (s.setCore c x).ports = s.ports := rfl
@[simp] theorem State.setCore_nodes (s : State) (c : Nat) (x : Core) : (s.setCore c x).nodes = s.nodes := rfl
@[simp] theorem State.setCore_eths (s : State) (c : Nat) (x : Core) : (s.setCore c x).eths = s.eths := rfl
@[simp] theorem State.setCore_rules (s : State) (c : Nat) (x : Core) : (s.setCore c x).rules = s.rules := rfl
@[simp] theorem State.setCore_pages (s : State) (c : Nat) (x : Core) : (s.setCore c x).pages = s.pages := rfl
@[simp] theorem State.setCore_ptp (s : State) (c : Nat) (x : Core) : (s.setCore c x).ptp = s.ptp := rfl
@[simp] theorem State.setCore_ring (s : State) (c : Nat) (x : Core) : (s.setCore c x).ring = s.ring := rfl
@[simp] theorem State.setCore_host (s : State) (c : Nat) (x : Core) : (s.setCore c x).host = s.host := rfl
@[simp] theorem State.setCore_fcu (s : State) (c : Nat) (x : Core) : (s.setCore c x).fcu = s.fcu := rfl
@[simp] theorem State.setCore_gps (s : State) (c : Nat) (x : Core) : (s.setCore c x).gps = s.gps := rfl
@[simp] theorem State.setCore_mon (s : State) (c : Nat) (x : Core) : (s.setCore c x).mon = s.mon := rfl
@[simp] theorem State.setCore_pwr (s : State) (c : Nat) (x : Core) : (s.setCore c x).pwr = s.pwr := rfl
@[simp] theorem State.setCore_nvm (s : State) (c : Nat) (x : Core) : (s.setCore c x).nvm = s.nvm := rfl
@[simp] theorem State.setCore_cairn (s : State) (c : Nat) (x : Core) : (s.setCore c x).cairn = s.cairn := rfl
@[simp] theorem State.setCore_core (s : State) (c k : Nat) (x : Core) :
    (s.setCore c x).core k = if k = c then x else s.core k := Tbl.get_set _ _ _ _ _
@[simp] theorem State.setCore_setCore (s : State) (c : Nat) (x y : Core) : (s.setCore c x).setCore c y = s.setCore c y := by
  simp [State.setCore]
@[simp] theorem State.setCore_ridge (s : State) (c k : Nat) (x : Core) : (s.setCore c x).ridge k = s.ridge k := rfl
@[simp] theorem State.updCore_ridge (s : State) (c k : Nat) (f : Core → Core) : (s.updCore c f).ridge k = s.ridge k := rfl
@[simp] theorem State.updFcu_ridge (s : State) (k : Nat) (f : Fcu → Fcu) : (s.updFcu f).ridge k = s.ridge k := rfl
@[simp] theorem State.updPwr_ridge (s : State) (k : Nat) (f : Pwr → Pwr) : (s.updPwr f).ridge k = s.ridge k := rfl
@[simp] theorem State.updEcc_ridge (s : State) (k : Nat) (f : Ecc → Ecc) : (s.updEcc f).ridge k = s.ridge k := rfl
@[simp] theorem State.updCairn_ridge (s : State) (k : Nat) (f : Cairn → Cairn) : (s.updCairn f).ridge k = s.ridge k := rfl
@[simp] theorem State.updRing_ridge (s : State) (k : Nat) (f : SRing → SRing) : (s.updRing f).ridge k = s.ridge k := rfl
@[simp] theorem State.updNvm_ridge (s : State) (k : Nat) (f : Nvm → Nvm) : (s.updNvm f).ridge k = s.ridge k := rfl
@[simp] theorem State.setCore_massif (s : State) (c k : Nat) (x : Core) : (s.setCore c x).massif k = s.massif k := rfl
@[simp] theorem State.updCore_massif (s : State) (c k : Nat) (f : Core → Core) : (s.updCore c f).massif k = s.massif k := rfl
@[simp] theorem State.updRidge_massif (s : State) (r k : Nat) (f : Ridge → Ridge) : (s.updRidge r f).massif k = s.massif k := rfl
@[simp] theorem State.updFcu_massif (s : State) (k : Nat) (f : Fcu → Fcu) : (s.updFcu f).massif k = s.massif k := rfl
@[simp] theorem State.updPwr_massif (s : State) (k : Nat) (f : Pwr → Pwr) : (s.updPwr f).massif k = s.massif k := rfl
@[simp] theorem State.updEcc_massif (s : State) (k : Nat) (f : Ecc → Ecc) : (s.updEcc f).massif k = s.massif k := rfl
@[simp] theorem State.updCairn_massif (s : State) (k : Nat) (f : Cairn → Cairn) : (s.updCairn f).massif k = s.massif k := rfl
@[simp] theorem State.updRing_massif (s : State) (k : Nat) (f : SRing → SRing) : (s.updRing f).massif k = s.massif k := rfl
@[simp] theorem State.updNvm_massif (s : State) (k : Nat) (f : Nvm → Nvm) : (s.updNvm f).massif k = s.massif k := rfl
@[simp] theorem State.setCore_dom (s : State) (c k : Nat) (x : Core) : (s.setCore c x).dom k = s.dom k := rfl
@[simp] theorem State.updCore_dom (s : State) (c k : Nat) (f : Core → Core) : (s.updCore c f).dom k = s.dom k := rfl
@[simp] theorem State.updRidge_dom (s : State) (r k : Nat) (f : Ridge → Ridge) : (s.updRidge r f).dom k = s.dom k := rfl
@[simp] theorem State.updFcu_dom (s : State) (k : Nat) (f : Fcu → Fcu) : (s.updFcu f).dom k = s.dom k := rfl
@[simp] theorem State.updPwr_dom (s : State) (k : Nat) (f : Pwr → Pwr) : (s.updPwr f).dom k = s.dom k := rfl
@[simp] theorem State.updEcc_dom (s : State) (k : Nat) (f : Ecc → Ecc) : (s.updEcc f).dom k = s.dom k := rfl
@[simp] theorem State.updCairn_dom (s : State) (k : Nat) (f : Cairn → Cairn) : (s.updCairn f).dom k = s.dom k := rfl
@[simp] theorem State.updRing_dom (s : State) (k : Nat) (f : SRing → SRing) : (s.updRing f).dom k = s.dom k := rfl
@[simp] theorem State.updNvm_dom (s : State) (k : Nat) (f : Nvm → Nvm) : (s.updNvm f).dom k = s.dom k := rfl
@[simp] theorem State.setCore_cap (s : State) (c k : Nat) (x : Core) : (s.setCore c x).cap k = s.cap k := rfl
@[simp] theorem State.updCore_cap (s : State) (c k : Nat) (f : Core → Core) : (s.updCore c f).cap k = s.cap k := rfl
@[simp] theorem State.updRidge_cap (s : State) (r k : Nat) (f : Ridge → Ridge) : (s.updRidge r f).cap k = s.cap k := rfl
@[simp] theorem State.updFcu_cap (s : State) (k : Nat) (f : Fcu → Fcu) : (s.updFcu f).cap k = s.cap k := rfl
@[simp] theorem State.updPwr_cap (s : State) (k : Nat) (f : Pwr → Pwr) : (s.updPwr f).cap k = s.cap k := rfl
@[simp] theorem State.updEcc_cap (s : State) (k : Nat) (f : Ecc → Ecc) : (s.updEcc f).cap k = s.cap k := rfl
@[simp] theorem State.updCairn_cap (s : State) (k : Nat) (f : Cairn → Cairn) : (s.updCairn f).cap k = s.cap k := rfl
@[simp] theorem State.updRing_cap (s : State) (k : Nat) (f : SRing → SRing) : (s.updRing f).cap k = s.cap k := rfl
@[simp] theorem State.updNvm_cap (s : State) (k : Nat) (f : Nvm → Nvm) : (s.updNvm f).cap k = s.cap k := rfl
@[simp] theorem State.setCore_scrub (s : State) (c k : Nat) (x : Core) : (s.setCore c x).scrub k = s.scrub k := rfl
@[simp] theorem State.updCore_scrub (s : State) (c k : Nat) (f : Core → Core) : (s.updCore c f).scrub k = s.scrub k := rfl
@[simp] theorem State.updRidge_scrub (s : State) (r k : Nat) (f : Ridge → Ridge) : (s.updRidge r f).scrub k = s.scrub k := rfl
@[simp] theorem State.updFcu_scrub (s : State) (k : Nat) (f : Fcu → Fcu) : (s.updFcu f).scrub k = s.scrub k := rfl
@[simp] theorem State.updPwr_scrub (s : State) (k : Nat) (f : Pwr → Pwr) : (s.updPwr f).scrub k = s.scrub k := rfl
@[simp] theorem State.updEcc_scrub (s : State) (k : Nat) (f : Ecc → Ecc) : (s.updEcc f).scrub k = s.scrub k := rfl
@[simp] theorem State.updCairn_scrub (s : State) (k : Nat) (f : Cairn → Cairn) : (s.updCairn f).scrub k = s.scrub k := rfl
@[simp] theorem State.updRing_scrub (s : State) (k : Nat) (f : SRing → SRing) : (s.updRing f).scrub k = s.scrub k := rfl
@[simp] theorem State.updNvm_scrub (s : State) (k : Nat) (f : Nvm → Nvm) : (s.updNvm f).scrub k = s.scrub k := rfl
@[simp] theorem State.setCore_chan (s : State) (c k : Nat) (x : Core) : (s.setCore c x).chan k = s.chan k := rfl
@[simp] theorem State.updCore_chan (s : State) (c k : Nat) (f : Core → Core) : (s.updCore c f).chan k = s.chan k := rfl
@[simp] theorem State.updRidge_chan (s : State) (r k : Nat) (f : Ridge → Ridge) : (s.updRidge r f).chan k = s.chan k := rfl
@[simp] theorem State.updFcu_chan (s : State) (k : Nat) (f : Fcu → Fcu) : (s.updFcu f).chan k = s.chan k := rfl
@[simp] theorem State.updPwr_chan (s : State) (k : Nat) (f : Pwr → Pwr) : (s.updPwr f).chan k = s.chan k := rfl
@[simp] theorem State.updEcc_chan (s : State) (k : Nat) (f : Ecc → Ecc) : (s.updEcc f).chan k = s.chan k := rfl
@[simp] theorem State.updCairn_chan (s : State) (k : Nat) (f : Cairn → Cairn) : (s.updCairn f).chan k = s.chan k := rfl
@[simp] theorem State.updRing_chan (s : State) (k : Nat) (f : SRing → SRing) : (s.updRing f).chan k = s.chan k := rfl
@[simp] theorem State.updNvm_chan (s : State) (k : Nat) (f : Nvm → Nvm) : (s.updNvm f).chan k = s.chan k := rfl
@[simp] theorem State.setCore_port (s : State) (c k : Nat) (x : Core) : (s.setCore c x).port k = s.port k := rfl
@[simp] theorem State.updCore_port (s : State) (c k : Nat) (f : Core → Core) : (s.updCore c f).port k = s.port k := rfl
@[simp] theorem State.updRidge_port (s : State) (r k : Nat) (f : Ridge → Ridge) : (s.updRidge r f).port k = s.port k := rfl
@[simp] theorem State.updFcu_port (s : State) (k : Nat) (f : Fcu → Fcu) : (s.updFcu f).port k = s.port k := rfl
@[simp] theorem State.updPwr_port (s : State) (k : Nat) (f : Pwr → Pwr) : (s.updPwr f).port k = s.port k := rfl
@[simp] theorem State.updEcc_port (s : State) (k : Nat) (f : Ecc → Ecc) : (s.updEcc f).port k = s.port k := rfl
@[simp] theorem State.updCairn_port (s : State) (k : Nat) (f : Cairn → Cairn) : (s.updCairn f).port k = s.port k := rfl
@[simp] theorem State.updRing_port (s : State) (k : Nat) (f : SRing → SRing) : (s.updRing f).port k = s.port k := rfl
@[simp] theorem State.updNvm_port (s : State) (k : Nat) (f : Nvm → Nvm) : (s.updNvm f).port k = s.port k := rfl
@[simp] theorem State.setCore_eth (s : State) (c k : Nat) (x : Core) : (s.setCore c x).eth k = s.eth k := rfl
@[simp] theorem State.updCore_eth (s : State) (c k : Nat) (f : Core → Core) : (s.updCore c f).eth k = s.eth k := rfl
@[simp] theorem State.updRidge_eth (s : State) (r k : Nat) (f : Ridge → Ridge) : (s.updRidge r f).eth k = s.eth k := rfl
@[simp] theorem State.updFcu_eth (s : State) (k : Nat) (f : Fcu → Fcu) : (s.updFcu f).eth k = s.eth k := rfl
@[simp] theorem State.updPwr_eth (s : State) (k : Nat) (f : Pwr → Pwr) : (s.updPwr f).eth k = s.eth k := rfl
@[simp] theorem State.updEcc_eth (s : State) (k : Nat) (f : Ecc → Ecc) : (s.updEcc f).eth k = s.eth k := rfl
@[simp] theorem State.updCairn_eth (s : State) (k : Nat) (f : Cairn → Cairn) : (s.updCairn f).eth k = s.eth k := rfl
@[simp] theorem State.updRing_eth (s : State) (k : Nat) (f : SRing → SRing) : (s.updRing f).eth k = s.eth k := rfl
@[simp] theorem State.updNvm_eth (s : State) (k : Nat) (f : Nvm → Nvm) : (s.updNvm f).eth k = s.eth k := rfl
@[simp] theorem State.setCore_gp (s : State) (c k : Nat) (x : Core) : (s.setCore c x).gp k = s.gp k := rfl
@[simp] theorem State.updCore_gp (s : State) (c k : Nat) (f : Core → Core) : (s.updCore c f).gp k = s.gp k := rfl
@[simp] theorem State.updRidge_gp (s : State) (r k : Nat) (f : Ridge → Ridge) : (s.updRidge r f).gp k = s.gp k := rfl
@[simp] theorem State.updFcu_gp (s : State) (k : Nat) (f : Fcu → Fcu) : (s.updFcu f).gp k = s.gp k := rfl
@[simp] theorem State.updPwr_gp (s : State) (k : Nat) (f : Pwr → Pwr) : (s.updPwr f).gp k = s.gp k := rfl
@[simp] theorem State.updEcc_gp (s : State) (k : Nat) (f : Ecc → Ecc) : (s.updEcc f).gp k = s.gp k := rfl
@[simp] theorem State.updCairn_gp (s : State) (k : Nat) (f : Cairn → Cairn) : (s.updCairn f).gp k = s.gp k := rfl
@[simp] theorem State.updRing_gp (s : State) (k : Nat) (f : SRing → SRing) : (s.updRing f).gp k = s.gp k := rfl
@[simp] theorem State.updNvm_gp (s : State) (k : Nat) (f : Nvm → Nvm) : (s.updNvm f).gp k = s.gp k := rfl
@[simp] theorem State.updFcu_core (s : State) (k : Nat) (f : Fcu → Fcu) : (s.updFcu f).core k = s.core k := rfl
@[simp] theorem State.updPwr_core (s : State) (k : Nat) (f : Pwr → Pwr) : (s.updPwr f).core k = s.core k := rfl
@[simp] theorem State.updEcc_core (s : State) (k : Nat) (f : Ecc → Ecc) : (s.updEcc f).core k = s.core k := rfl
@[simp] theorem State.updCairn_core (s : State) (k : Nat) (f : Cairn → Cairn) : (s.updCairn f).core k = s.core k := rfl
@[simp] theorem State.updRing_core (s : State) (k : Nat) (f : SRing → SRing) : (s.updRing f).core k = s.core k := rfl
@[simp] theorem State.updNvm_core (s : State) (k : Nat) (f : Nvm → Nvm) : (s.updNvm f).core k = s.core k := rfl
@[simp] theorem State.updRidge_core (s : State) (r k : Nat) (f : Ridge → Ridge) : (s.updRidge r f).core k = s.core k := rfl
@[simp] theorem State.setRidge_core (s : State) (r k : Nat) (x : Ridge) : (s.setRidge r x).core k = s.core k := rfl

end Sys2Proof.Machine
end

