-- ==== Sys2Proof/Laws/Landing.lean ====
section
/-!
SUPPORT. What landing a result leaves alone (R51 to R53): everything of a core but its registers.
-/

namespace Sys2Proof.Machine

@[simp] theorem Core.setCreg_st (x : Core) (n : Nat) (w : Word) : (x.setCreg n w).st = x.st := by
  simp only [Core.setCreg, apply_ite Core.st, ite_self]
@[simp] theorem Core.land_st (x : Core) (w : Wb) : (x.land w).st = x.st := by
  cases w <;> simp only [Core.land, apply_ite Core.st, ite_self, Core.setCreg_st]
@[simp] theorem Core.landAll_st (x : Core) (l : List Wb) : (x.landAll l).st = x.st := by
  induction l generalizing x with
  | nil => rfl
  | cons w t ih => exact (ih _).trans (Core.land_st x w)

@[simp] theorem Core.setCreg_ridge (x : Core) (n : Nat) (w : Word) : (x.setCreg n w).ridge = x.ridge := by
  simp only [Core.setCreg, apply_ite Core.ridge, ite_self]
@[simp] theorem Core.land_ridge (x : Core) (w : Wb) : (x.land w).ridge = x.ridge := by
  cases w <;> simp only [Core.land, apply_ite Core.ridge, ite_self, Core.setCreg_ridge]
@[simp] theorem Core.landAll_ridge (x : Core) (l : List Wb) : (x.landAll l).ridge = x.ridge := by
  induction l generalizing x with
  | nil => rfl
  | cons w t ih => exact (ih _).trans (Core.land_ridge x w)

@[simp] theorem Core.setCreg_slot (x : Core) (n : Nat) (w : Word) : (x.setCreg n w).slot = x.slot := by
  simp only [Core.setCreg, apply_ite Core.slot, ite_self]
@[simp] theorem Core.land_slot (x : Core) (w : Wb) : (x.land w).slot = x.slot := by
  cases w <;> simp only [Core.land, apply_ite Core.slot, ite_self, Core.setCreg_slot]
@[simp] theorem Core.landAll_slot (x : Core) (l : List Wb) : (x.landAll l).slot = x.slot := by
  induction l generalizing x with
  | nil => rfl
  | cons w t ih => exact (ih _).trans (Core.land_slot x w)

@[simp] theorem Core.setCreg_pc (x : Core) (n : Nat) (w : Word) : (x.setCreg n w).pc = x.pc := by
  simp only [Core.setCreg, apply_ite Core.pc, ite_self]
@[simp] theorem Core.land_pc (x : Core) (w : Wb) : (x.land w).pc = x.pc := by
  cases w <;> simp only [Core.land, apply_ite Core.pc, ite_self, Core.setCreg_pc]
@[simp] theorem Core.landAll_pc (x : Core) (l : List Wb) : (x.landAll l).pc = x.pc := by
  induction l generalizing x with
  | nil => rfl
  | cons w t ih => exact (ih _).trans (Core.land_pc x w)

@[simp] theorem Core.setCreg_pend (x : Core) (n : Nat) (w : Word) : (x.setCreg n w).pend = x.pend := by
  simp only [Core.setCreg, apply_ite Core.pend, ite_self]
@[simp] theorem Core.land_pend (x : Core) (w : Wb) : (x.land w).pend = x.pend := by
  cases w <;> simp only [Core.land, apply_ite Core.pend, ite_self, Core.setCreg_pend]
@[simp] theorem Core.landAll_pend (x : Core) (l : List Wb) : (x.landAll l).pend = x.pend := by
  induction l generalizing x with
  | nil => rfl
  | cons w t ih => exact (ih _).trans (Core.land_pend x w)

@[simp] theorem Core.setCreg_retiPend (x : Core) (n : Nat) (w : Word) : (x.setCreg n w).retiPend = x.retiPend := by
  simp only [Core.setCreg, apply_ite Core.retiPend, ite_self]
@[simp] theorem Core.land_retiPend (x : Core) (w : Wb) : (x.land w).retiPend = x.retiPend := by
  cases w <;> simp only [Core.land, apply_ite Core.retiPend, ite_self, Core.setCreg_retiPend]
@[simp] theorem Core.landAll_retiPend (x : Core) (l : List Wb) : (x.landAll l).retiPend = x.retiPend := by
  induction l generalizing x with
  | nil => rfl
  | cons w t ih => exact (ih _).trans (Core.land_retiPend x w)

@[simp] theorem Core.setCreg_late (x : Core) (n : Nat) (w : Word) : (x.setCreg n w).late = x.late := by
  simp only [Core.setCreg, apply_ite Core.late, ite_self]
@[simp] theorem Core.land_late (x : Core) (w : Wb) : (x.land w).late = x.late := by
  cases w <;> simp only [Core.land, apply_ite Core.late, ite_self, Core.setCreg_late]
@[simp] theorem Core.landAll_late (x : Core) (l : List Wb) : (x.landAll l).late = x.late := by
  induction l generalizing x with
  | nil => rfl
  | cons w t ih => exact (ih _).trans (Core.land_late x w)

@[simp] theorem Core.setCreg_open_ (x : Core) (n : Nat) (w : Word) : (x.setCreg n w).open_ = x.open_ := by
  simp only [Core.setCreg, apply_ite Core.open_, ite_self]
@[simp] theorem Core.land_open_ (x : Core) (w : Wb) : (x.land w).open_ = x.open_ := by
  cases w <;> simp only [Core.land, apply_ite Core.open_, ite_self, Core.setCreg_open_]
@[simp] theorem Core.landAll_open_ (x : Core) (l : List Wb) : (x.landAll l).open_ = x.open_ := by
  induction l generalizing x with
  | nil => rfl
  | cons w t ih => exact (ih _).trans (Core.land_open_ x w)

@[simp] theorem Core.setCreg_held (x : Core) (n : Nat) (w : Word) : (x.setCreg n w).held = x.held := by
  simp only [Core.setCreg, apply_ite Core.held, ite_self]
@[simp] theorem Core.land_held (x : Core) (w : Wb) : (x.land w).held = x.held := by
  cases w <;> simp only [Core.land, apply_ite Core.held, ite_self, Core.setCreg_held]
@[simp] theorem Core.landAll_held (x : Core) (l : List Wb) : (x.landAll l).held = x.held := by
  induction l generalizing x with
  | nil => rfl
  | cons w t ih => exact (ih _).trans (Core.land_held x w)

@[simp] theorem Core.setCreg_wait (x : Core) (n : Nat) (w : Word) : (x.setCreg n w).wait = x.wait := by
  simp only [Core.setCreg, apply_ite Core.wait, ite_self]
@[simp] theorem Core.land_wait (x : Core) (w : Wb) : (x.land w).wait = x.wait := by
  cases w <;> simp only [Core.land, apply_ite Core.wait, ite_self, Core.setCreg_wait]
@[simp] theorem Core.landAll_wait (x : Core) (l : List Wb) : (x.landAll l).wait = x.wait := by
  induction l generalizing x with
  | nil => rfl
  | cons w t ih => exact (ih _).trans (Core.land_wait x w)

@[simp] theorem Core.setCreg_aerr (x : Core) (n : Nat) (w : Word) : (x.setCreg n w).aerr = x.aerr := by
  simp only [Core.setCreg, apply_ite Core.aerr, ite_self]
@[simp] theorem Core.land_aerr (x : Core) (w : Wb) : (x.land w).aerr = x.aerr := by
  cases w <;> simp only [Core.land, apply_ite Core.aerr, ite_self, Core.setCreg_aerr]
@[simp] theorem Core.landAll_aerr (x : Core) (l : List Wb) : (x.landAll l).aerr = x.aerr := by
  induction l generalizing x with
  | nil => rfl
  | cons w t ih => exact (ih _).trans (Core.land_aerr x w)

@[simp] theorem Core.setCreg_testLoops (x : Core) (n : Nat) (w : Word) : (x.setCreg n w).testLoops = x.testLoops := by
  simp only [Core.setCreg, apply_ite Core.testLoops, ite_self]
@[simp] theorem Core.land_testLoops (x : Core) (w : Wb) : (x.land w).testLoops = x.testLoops := by
  cases w <;> simp only [Core.land, apply_ite Core.testLoops, ite_self, Core.setCreg_testLoops]
@[simp] theorem Core.landAll_testLoops (x : Core) (l : List Wb) : (x.landAll l).testLoops = x.testLoops := by
  induction l generalizing x with
  | nil => rfl
  | cons w t ih => exact (ih _).trans (Core.land_testLoops x w)

@[simp] theorem Core.setCreg_endSel (x : Core) (n : Nat) (w : Word) : (x.setCreg n w).endSel = x.endSel := by
  simp only [Core.setCreg, apply_ite Core.endSel, ite_self]
@[simp] theorem Core.land_endSel (x : Core) (w : Wb) : (x.land w).endSel = x.endSel := by
  cases w <;> simp only [Core.land, apply_ite Core.endSel, ite_self, Core.setCreg_endSel]
@[simp] theorem Core.landAll_endSel (x : Core) (l : List Wb) : (x.landAll l).endSel = x.endSel := by
  induction l generalizing x with
  | nil => rfl
  | cons w t ih => exact (ih _).trans (Core.land_endSel x w)

@[simp] theorem Core.setCreg_fetched (x : Core) (n : Nat) (w : Word) : (x.setCreg n w).fetched = x.fetched := by
  simp only [Core.setCreg, apply_ite Core.fetched, ite_self]
@[simp] theorem Core.land_fetched (x : Core) (w : Wb) : (x.land w).fetched = x.fetched := by
  cases w <;> simp only [Core.land, apply_ite Core.fetched, ite_self, Core.setCreg_fetched]
@[simp] theorem Core.landAll_fetched (x : Core) (l : List Wb) : (x.landAll l).fetched = x.fetched := by
  induction l generalizing x with
  | nil => rfl
  | cons w t ih => exact (ih _).trans (Core.land_fetched x w)

@[simp] theorem Core.setCreg_refusals (x : Core) (n : Nat) (w : Word) : (x.setCreg n w).refusals = x.refusals := by
  simp only [Core.setCreg, apply_ite Core.refusals, ite_self]
@[simp] theorem Core.land_refusals (x : Core) (w : Wb) : (x.land w).refusals = x.refusals := by
  cases w <;> simp only [Core.land, apply_ite Core.refusals, ite_self, Core.setCreg_refusals]
@[simp] theorem Core.landAll_refusals (x : Core) (l : List Wb) : (x.landAll l).refusals = x.refusals := by
  induction l generalizing x with
  | nil => rfl
  | cons w t ih => exact (ih _).trans (Core.land_refusals x w)

@[simp] theorem Core.setCreg_merge (x : Core) (n : Nat) (w : Word) : (x.setCreg n w).merge = x.merge := by
  simp only [Core.setCreg, apply_ite Core.merge, ite_self]
@[simp] theorem Core.land_merge (x : Core) (w : Wb) : (x.land w).merge = x.merge := by
  cases w <;> simp only [Core.land, apply_ite Core.merge, ite_self, Core.setCreg_merge]
@[simp] theorem Core.landAll_merge (x : Core) (l : List Wb) : (x.landAll l).merge = x.merge := by
  induction l generalizing x with
  | nil => rfl
  | cons w t ih => exact (ih _).trans (Core.land_merge x w)

@[simp] theorem Core.setCreg_evicted (x : Core) (n : Nat) (w : Word) : (x.setCreg n w).evicted = x.evicted := by
  simp only [Core.setCreg, apply_ite Core.evicted, ite_self]
@[simp] theorem Core.land_evicted (x : Core) (w : Wb) : (x.land w).evicted = x.evicted := by
  cases w <;> simp only [Core.land, apply_ite Core.evicted, ite_self, Core.setCreg_evicted]
@[simp] theorem Core.landAll_evicted (x : Core) (l : List Wb) : (x.landAll l).evicted = x.evicted := by
  induction l generalizing x with
  | nil => rfl
  | cons w t ih => exact (ih _).trans (Core.land_evicted x w)

@[simp] theorem Core.setCreg_lbLoop (x : Core) (n : Nat) (w : Word) : (x.setCreg n w).lbLoop = x.lbLoop := by
  simp only [Core.setCreg, apply_ite Core.lbLoop, ite_self]
@[simp] theorem Core.land_lbLoop (x : Core) (w : Wb) : (x.land w).lbLoop = x.lbLoop := by
  cases w <;> simp only [Core.land, apply_ite Core.lbLoop, ite_self, Core.setCreg_lbLoop]
@[simp] theorem Core.landAll_lbLoop (x : Core) (l : List Wb) : (x.landAll l).lbLoop = x.lbLoop := by
  induction l generalizing x with
  | nil => rfl
  | cons w t ih => exact (ih _).trans (Core.land_lbLoop x w)

@[simp] theorem Core.setCreg_lbuf (x : Core) (n : Nat) (w : Word) : (x.setCreg n w).lbuf = x.lbuf := by
  simp only [Core.setCreg, apply_ite Core.lbuf, ite_self]
@[simp] theorem Core.land_lbuf (x : Core) (w : Wb) : (x.land w).lbuf = x.lbuf := by
  cases w <;> simp only [Core.land, apply_ite Core.lbuf, ite_self, Core.setCreg_lbuf]
@[simp] theorem Core.landAll_lbuf (x : Core) (l : List Wb) : (x.landAll l).lbuf = x.lbuf := by
  induction l generalizing x with
  | nil => rfl
  | cons w t ih => exact (ih _).trans (Core.land_lbuf x w)

@[simp] theorem Core.setCreg_recs (x : Core) (n : Nat) (w : Word) : (x.setCreg n w).recs = x.recs := by
  simp only [Core.setCreg, apply_ite Core.recs, ite_self]
@[simp] theorem Core.land_recs (x : Core) (w : Wb) : (x.land w).recs = x.recs := by
  cases w <;> simp only [Core.land, apply_ite Core.recs, ite_self, Core.setCreg_recs]
@[simp] theorem Core.landAll_recs (x : Core) (l : List Wb) : (x.landAll l).recs = x.recs := by
  induction l generalizing x with
  | nil => rfl
  | cons w t ih => exact (ih _).trans (Core.land_recs x w)

@[simp] theorem Core.setCreg_landed (x : Core) (n : Nat) (w : Word) : (x.setCreg n w).landed = x.landed := by
  simp only [Core.setCreg, apply_ite Core.landed, ite_self]
@[simp] theorem Core.land_landed (x : Core) (w : Wb) : (x.land w).landed = x.landed := by
  cases w <;> simp only [Core.land, apply_ite Core.landed, ite_self, Core.setCreg_landed]
@[simp] theorem Core.landAll_landed (x : Core) (l : List Wb) : (x.landAll l).landed = x.landed := by
  induction l generalizing x with
  | nil => rfl
  | cons w t ih => exact (ih _).trans (Core.land_landed x w)

@[simp] theorem Core.setCreg_cycles (x : Core) (n : Nat) (w : Word) : (x.setCreg n w).cycles = x.cycles := by
  simp only [Core.setCreg, apply_ite Core.cycles, ite_self]
@[simp] theorem Core.land_cycles (x : Core) (w : Wb) : (x.land w).cycles = x.cycles := by
  cases w <;> simp only [Core.land, apply_ite Core.cycles, ite_self, Core.setCreg_cycles]
@[simp] theorem Core.landAll_cycles (x : Core) (l : List Wb) : (x.landAll l).cycles = x.cycles := by
  induction l generalizing x with
  | nil => rfl
  | cons w t ih => exact (ih _).trans (Core.land_cycles x w)

@[simp] theorem Core.setCreg_bStatus (x : Core) (n : Nat) (w : Word) : (x.setCreg n w).bStatus = x.bStatus := by
  simp only [Core.setCreg, apply_ite Core.bStatus, ite_self]
@[simp] theorem Core.land_bStatus (x : Core) (w : Wb) : (x.land w).bStatus = x.bStatus := by
  cases w <;> simp only [Core.land, apply_ite Core.bStatus, ite_self, Core.setCreg_bStatus]
@[simp] theorem Core.landAll_bStatus (x : Core) (l : List Wb) : (x.landAll l).bStatus = x.bStatus := by
  induction l generalizing x with
  | nil => rfl
  | cons w t ih => exact (ih _).trans (Core.land_bStatus x w)

@[simp] theorem Core.setCreg_bMfail (x : Core) (n : Nat) (w : Word) : (x.setCreg n w).bMfail = x.bMfail := by
  simp only [Core.setCreg, apply_ite Core.bMfail, ite_self]
@[simp] theorem Core.land_bMfail (x : Core) (w : Wb) : (x.land w).bMfail = x.bMfail := by
  cases w <;> simp only [Core.land, apply_ite Core.bMfail, ite_self, Core.setCreg_bMfail]
@[simp] theorem Core.landAll_bMfail (x : Core) (l : List Wb) : (x.landAll l).bMfail = x.bMfail := by
  induction l generalizing x with
  | nil => rfl
  | cons w t ih => exact (ih _).trans (Core.land_bMfail x w)

@[simp] theorem Core.setCreg_bSlices (x : Core) (n : Nat) (w : Word) : (x.setCreg n w).bSlices = x.bSlices := by
  simp only [Core.setCreg, apply_ite Core.bSlices, ite_self]
@[simp] theorem Core.land_bSlices (x : Core) (w : Wb) : (x.land w).bSlices = x.bSlices := by
  cases w <;> simp only [Core.land, apply_ite Core.bSlices, ite_self, Core.setCreg_bSlices]
@[simp] theorem Core.landAll_bSlices (x : Core) (l : List Wb) : (x.landAll l).bSlices = x.bSlices := by
  induction l generalizing x with
  | nil => rfl
  | cons w t ih => exact (ih _).trans (Core.land_bSlices x w)

@[simp] theorem Core.setCreg_bQcount (x : Core) (n : Nat) (w : Word) : (x.setCreg n w).bQcount = x.bQcount := by
  simp only [Core.setCreg, apply_ite Core.bQcount, ite_self]
@[simp] theorem Core.land_bQcount (x : Core) (w : Wb) : (x.land w).bQcount = x.bQcount := by
  cases w <;> simp only [Core.land, apply_ite Core.bQcount, ite_self, Core.setCreg_bQcount]
@[simp] theorem Core.landAll_bQcount (x : Core) (l : List Wb) : (x.landAll l).bQcount = x.bQcount := by
  induction l generalizing x with
  | nil => rfl
  | cons w t ih => exact (ih _).trans (Core.land_bQcount x w)

@[simp] theorem Core.setCreg_bPatcnt (x : Core) (n : Nat) (w : Word) : (x.setCreg n w).bPatcnt = x.bPatcnt := by
  simp only [Core.setCreg, apply_ite Core.bPatcnt, ite_self]
@[simp] theorem Core.land_bPatcnt (x : Core) (w : Wb) : (x.land w).bPatcnt = x.bPatcnt := by
  cases w <;> simp only [Core.land, apply_ite Core.bPatcnt, ite_self, Core.setCreg_bPatcnt]
@[simp] theorem Core.landAll_bPatcnt (x : Core) (l : List Wb) : (x.landAll l).bPatcnt = x.bPatcnt := by
  induction l generalizing x with
  | nil => rfl
  | cons w t ih => exact (ih _).trans (Core.land_bPatcnt x w)

@[simp] theorem Core.setCreg_quars (x : Core) (n : Nat) (w : Word) : (x.setCreg n w).quars = x.quars := by
  simp only [Core.setCreg, apply_ite Core.quars, ite_self]
@[simp] theorem Core.land_quars (x : Core) (w : Wb) : (x.land w).quars = x.quars := by
  cases w <;> simp only [Core.land, apply_ite Core.quars, ite_self, Core.setCreg_quars]
@[simp] theorem Core.landAll_quars (x : Core) (l : List Wb) : (x.landAll l).quars = x.quars := by
  induction l generalizing x with
  | nil => rfl
  | cons w t ih => exact (ih _).trans (Core.land_quars x w)

@[simp] theorem Core.setCreg_testFor (x : Core) (n : Nat) (w : Word) : (x.setCreg n w).testFor = x.testFor := by
  simp only [Core.setCreg, apply_ite Core.testFor, ite_self]
@[simp] theorem Core.land_testFor (x : Core) (w : Wb) : (x.land w).testFor = x.testFor := by
  cases w <;> simp only [Core.land, apply_ite Core.testFor, ite_self, Core.setCreg_testFor]
@[simp] theorem Core.landAll_testFor (x : Core) (l : List Wb) : (x.landAll l).testFor = x.testFor := by
  induction l generalizing x with
  | nil => rfl
  | cons w t ih => exact (ih _).trans (Core.land_testFor x w)

@[simp] theorem Core.setCreg_reserve (x : Core) (n : Nat) (w : Word) : (x.setCreg n w).reserve = x.reserve := by
  simp only [Core.setCreg, apply_ite Core.reserve, ite_self]
@[simp] theorem Core.land_reserve (x : Core) (w : Wb) : (x.land w).reserve = x.reserve := by
  cases w <;> simp only [Core.land, apply_ite Core.reserve, ite_self, Core.setCreg_reserve]
@[simp] theorem Core.landAll_reserve (x : Core) (l : List Wb) : (x.landAll l).reserve = x.reserve := by
  induction l generalizing x with
  | nil => rfl
  | cons w t ih => exact (ih _).trans (Core.land_reserve x w)

@[simp] theorem Core.setCreg_removeDue (x : Core) (n : Nat) (w : Word) : (x.setCreg n w).removeDue = x.removeDue := by
  simp only [Core.setCreg, apply_ite Core.removeDue, ite_self]
@[simp] theorem Core.land_removeDue (x : Core) (w : Wb) : (x.land w).removeDue = x.removeDue := by
  cases w <;> simp only [Core.land, apply_ite Core.removeDue, ite_self, Core.setCreg_removeDue]
@[simp] theorem Core.landAll_removeDue (x : Core) (l : List Wb) : (x.landAll l).removeDue = x.removeDue := by
  induction l generalizing x with
  | nil => rfl
  | cons w t ih => exact (ih _).trans (Core.land_removeDue x w)

/-- Nothing that lands reads or writes the open bundle. -/
theorem Core.land_withOpen (x : Core) (l : List OpEff) (w : Wb) :
    (x.withOpen l).land w = (x.land w).withOpen l := by
  cases w with
  | g i t => simp only [Core.land, Core.withOpen]; split <;> rfl
  | creg n v =>
    simp only [Core.land, Core.setCreg, apply_ite (fun y => Core.withOpen y l)]
    rfl
  | _ => rfl

theorem Core.landAll_withOpen (x : Core) (l : List OpEff) (ws : List Wb) :
    (x.withOpen l).landAll ws = (x.landAll ws).withOpen l := by
  induction ws generalizing x with
  | nil => rfl
  | cons w t ih => simp only [Core.landAll, List.foldl_cons, Core.land_withOpen] at ih ⊢; exact ih _

end Sys2Proof.Machine
end

