-- ==== Sys2Proof/Laws/Issue.lean ====
section
/-!
SUPPORT. Giving an operation to a core that is ready: the one lemma from which the statements about core operations follow.
-/

namespace Sys2Proof.Machine

/-- What a single operation must be so that its bundle simply runs: a defined word of a class with a slot, no trap, loop,
refusal or fence of its own, no element outside PM and DM, and no more stores than the posted-store queue holds. -/
structure OpEff.Plain (o : OpEff) (k : Nat) (w : Word) : Prop where
  defined : undefWord w = false
  slot : nextSlot none (wordClass w) = k
  known : k ≠ 6 ∧ k ≠ 1
  trap : o.trap = none
  loop : o.loop = none
  refused : o.refused = none
  fence : o.fence = false
  near : ∀ e ∈ o.elems, e.reqs = []
  few : ((o.flat o.elems).reqs.filter (·.write)).length ≤ 8

/-- Its stores fit the empty posted-store queue, so it is not held. -/
theorem State.bundleHeld_plain {s : State} {c : Nat} (h : s.Ready c) {o : OpEff} {k : Nat} {w : Word} (ho : o.Plain k w) :
    (s.setCore c ((s.core c).withOpen [o.at_ k w])).bundleHeld c = false := by
  have hp := h.noPosted
  have hq := h.noQueue
  have hw := h.wait
  have hf : (((o.at_ k w).flat (o.at_ k w).elems).reqs.filter (·.write)).length ≤ 8 := ho.few
  have hfence : (o.at_ k w).fence = false := ho.fence
  simp [State.bundleHeld, Core.withOpen, Core.posted] at hp ⊢
  simp [hp, hq, hw, hfence]
  omega

/-- None of its elements waits for an access outside PM and DM. -/
theorem State.serve_plain {s : State} {c : Nat} {o : OpEff} {k : Nat} {w : Word} (ho : o.Plain k w) (n : Nat) :
    (s.setCore c ((s.core c).withOpen [o.at_ k w])).serveElems c n
      = (s.setCore c ((s.core c).withOpen [o.at_ k w]), true) := by
  have h : ((s.core c).withOpen [o.at_ k w]).remote = none := by
    simp only [Core.remote, Core.withOpen, List.flatMap_cons, List.flatMap_nil, List.append_nil, List.find?_eq_none]
    intro e he
    simp [ho.near e he]
  cases n <;> simp [State.serveElems, h]

/-- No load has to issue before the stores of its elements. -/
theorem State.issueLoads_plain {s : State} {c : Nat} {o : OpEff} {k : Nat} {w : Word} (ho : o.Plain k w) :
    (s.setCore c ((s.core c).withOpen [o.at_ k w])).issueLoads c = s.setCore c ((s.core c).withOpen [o.at_ k w]) := by
  have h : ((o.at_ k w).elems.any fun e => !e.reqs.isEmpty && e.parts.isEmpty) = false := by
    simp only [List.any_eq_false]
    intro e he
    simp [ho.near e he]
  simp [State.issueLoads, firstLoads, Core.withOpen, h]

theorem Core.traps_plain {x : Core} {o : OpEff} {k : Nat} {w : Word} (ho : o.Plain k w)
    (hpc : x.pc.toNat + 4 < 0x18000) (hpend : x.pend = none)
    (hend : Loops.endTest x.pc 4 x.testLoops = (none, x.testLoops)) (he : w.getLsbD 31 = true) :
    (x.withOpen [o.at_ k w]).traps = [] := by
  obtain ⟨hk, _⟩ := ho.known
  simp [Core.traps, Core.withOpen, OpEff.at_, ho.trap, ho.loop, hk, hpend, hend, he]
  omega

/-- Where fetch goes after a bundle of one plain operation. -/
def plainFlow (x : Core) (o : OpEff) : Flow :=
  { next := x.pc + 4, pend := x.pendAfter o, after := { x.loops with ld := x.depthAfter o }
    test := { x.loops with ld := x.depthAfter o }, newLoop := none, again := none, skip := none }

theorem State.flow_plain {s : State} {c : Nat} (h : s.Ready c) {o : OpEff} {k : Nat} {w : Word} (ho : o.Plain k w) :
    (s.setCore c ((s.core c).withOpen [o.at_ k w])).flow c = plainFlow (s.core c) o := by
  have hpend := h.pend
  have hend := h.noEnd
  have hreti := h.retiPend
  have hl := ho.loop
  cases hb : o.branch <;>
    simp [State.flow, plainFlow, Core.depthAfter, Core.pendAfter, Core.withOpen, OpEff.at_, Core.loops, hpend, hend, hreti, hl, hb]

theorem State.bufferFor_plain (s : State) (c : Nat) (x y : Core) (o : OpEff) : s.bufferFor c x (plainFlow y o) = x := by
  simp [State.bufferFor, plainFlow]

/-- The core after a bundle of one plain operation. -/
theorem Core.advanced_plain {x : Core} {o : OpEff} {k : Nat} (hk : k ≠ 1) (w : Word) (f : Fetched)
    (hreti : x.retiPend = false) (ha : x.aerr = none) (hr : x.refusals = []) :
    { ((x.withOpen [o.at_ k w]).advanced [(o.at_ k w).flat o.elems] (plainFlow x o) f).withRefusals [] false with landed := [] }
      = x.ran ((o.at_ k w).flat o.elems) f := by
  have hk' : (k == 1) = false := by simpa using hk
  have e1 : ∀ d, (x.withOpen [o.at_ k w]).withLoops { x.loops with ld := d } = x.withOpen [o.at_ k w] := fun _ => rfl
  have e2 : ∀ ops next words, (x.withOpen [o.at_ k w]).landing ops next words = x.landing ops next words := fun _ _ _ => rfl
  have e3 : (x.withOpen [o.at_ k w]).retiPend = false := hreti
  have e4 : bundleCycles [(o.at_ k w).flat o.elems] = 1 + ((o.at_ k w).flat o.elems).cycles false := by
    simp [bundleCycles, OpEff.flat, OpEff.at_, hk']
  have e5 : x.depthAfter ((o.at_ k w).flat o.elems) = x.depthAfter o := rfl
  have e6 : x.pendAfter ((o.at_ k w).flat o.elems) = x.pendAfter o := rfl
  simp only [Core.advanced, plainFlow, e1, e2, e3, e4, Core.landAll_withOpen]
  simp [Core.withRefusals, Core.ran, Core.withOpen, ha, hr, e5, e6]
  exact ⟨rfl, rfl, rfl⟩

/-- The updates that such a bundle's record holds (R154). -/
theorem Core.hwUpdates_plain {x : Core} {o : OpEff} (l : List OpEff) (y : Core) (hpend : x.pend = none) (hreti : x.retiPend = false) :
    (x.withOpen l).hwUpdates y (plainFlow x o)
      = if x.depthAfter o != x.loops.ld || (x.pendAfter o).isSome then [(0, y.psw)] else [] := by
  simp [Core.hwUpdates, plainFlow, Core.withOpen, hpend, hreti, Core.loops]

theorem State.finish_plain {s : State} {c : Nat} (h : s.Ready c) {o : OpEff} {k : Nat} {w : Word} (ho : o.Plain k w) :
    (s.setCore c ((s.core c).withOpen [o.at_ k w])).finishBundle c = s.ran c (o.at_ k w) := by
  have hcore : (s.setCore c ((s.core c).withOpen [o.at_ k w])).core c = (s.core c).withOpen [o.at_ k w] := by simp
  have hops : ((s.core c).withOpen [o.at_ k w]).open_ = [o.at_ k w] := rfl
  have hfetch : ∀ t a, (s.setCore c ((s.core c).withOpen [o.at_ k w])).fetch c ((s.core c).withOpen [o.at_ k w]) t a
      = s.fetch c (s.core c) t a := fun _ _ => rfl
  have hout : ∀ l, (s.setCore c ((s.core c).withOpen [o.at_ k w])).outcomes l = s.outcomes l := fun _ => rfl
  have hnil : ((o.at_ k w).flat (o.at_ k w).elems).refused = none := ho.refused
  have hfence : ([(o.at_ k w).flat (o.at_ k w).elems]).any OpEff.fence = false := by
    have : ((o.at_ k w).flat (o.at_ k w).elems).fence = false := ho.fence
    simp [this]
  have hrec : ∀ t : State, t.recordRefusals c [] = t := by intro t; simp [State.recordRefusals]
  have hadv := fun f => Core.advanced_plain ho.known.2 w f h.retiPend h.aerr h.refusals (o := o)
  have hpsw : ∀ f : Fetched, ((((s.core c).withOpen [o.at_ k w]).advanced [(o.at_ k w).flat o.elems]
      (plainFlow (s.core c) o) f).withRefusals [] false).psw = ((s.core c).ran ((o.at_ k w).flat o.elems) f).psw :=
    fun f => by have e := congrArg Core.psw (hadv f); exact e
  have hel : (o.at_ k w).elems = o.elems := rfl
  have hl : (((s.core c).withOpen [o.at_ k w]).pc = (s.core c).pc) := rfl
  have hl2 : (((s.core c).withOpen [o.at_ k w]).landed = (s.core c).landed) := rfl
  have hl3 : ∀ ops n ws, ((s.core c).withOpen [o.at_ k w]).landing ops n ws = (s.core c).landing ops n ws :=
    fun _ _ _ => rfl
  have hn : (plainFlow (s.core c) o).next = (s.core c).pc + 4 := rfl
  have hs : (plainFlow (s.core c) o).skip = none := rfl
  have ho0 : s.outcomes [] = [] := rfl
  rw [hel] at hnil hfence
  simp only [State.finishBundle, hcore, hops, List.map_cons, List.map_nil, List.filterMap_cons, hnil, List.filterMap_nil,
    hout, State.setCore_setCore, State.flow_plain h ho, State.bufferFor_plain, hrec, hfence, List.flatMap_cons, List.flatMap_nil,
    List.append_nil, hel, hl, hl2, hl3, hfetch, hn, hs, ho0,
    Core.hwUpdates_plain _ _ h.pend h.retiPend, hadv]
  simp only [hpsw]
  rfl

theorem Core.canIssue_ready {s : State} {c : Nat} (h : s.Ready c) : s.canIssue c = true := by
  have := h.inPm
  simp [State.canIssue, h.executes, h.open_, h.held, h.aerr]
  omega

/-- A plain operation given to a ready core: the bundle runs where E is set, and the operation waits in it otherwise. -/
theorem State.issue_plain {s : State} {c : Nat} (h : s.Ready c) {o : OpEff} {k : Nat} {w : Word} (ho : o.Plain k w) :
    s.issue c w o = s.gave c (w.getLsbD 31) k w o := by
  have hc := Core.canIssue_ready h
  have hpm := h.inPm
  have hlt : decide (0x18000 ≤ (s.core c).pc.toNat + 4 * 1) = false := by simp; omega
  simp only [State.issue, hc, h.open_, ho.defined, State.gave, List.getLast?_nil, Option.map_none, ho.slot, List.length_nil,
    Nat.zero_add, List.nil_append, hlt, Bool.false_eq_true, if_false]
  cases he : w.getLsbD 31
  · simp
  · have htr : ((s.setCore c ((s.core c).withOpen [o.at_ k w])).core c).traps = [] := by
      rw [State.setCore_core, if_pos rfl]
      exact Core.traps_plain ho h.inPm h.pend h.noEnd he
    have hw : ((s.setCore c ((s.core c).withOpen [o.at_ k w])).core c).wait = [] := by
      simpa [Core.withOpen] using h.wait
    have hh : (s.setCore c ((s.core c).withOpen [o.at_ k w])).bundleHeld c = false := State.bundleHeld_plain h ho
    have hlow : lowestTrap [] = none := rfl
    have hemp : List.isEmpty ([] : List RPart) = true := rfl
    simp only [State.closeBundle, htr, hw, hlow, hemp, faultingOp, State.issueLoads_plain ho, State.serve_plain ho, Option.isSome_none, Bool.false_and,
      Bool.false_eq_true, if_false]
    simp [State.tryFinish, hh, State.finish_plain h ho]

end Sys2Proof.Machine
end

