-- ==== Sys2Proof/Laws/Memory.lean ====
section
/-!
SUPPORT. The memories as lists in canonical form: what one put and one clear do to a byte, that every operation on the lists
keeps their canonical form, and that reset has it.
-/

namespace Sys2Proof.Machine

theorem Memory.wf_cons {k : Nat} {b : Byte} {t : List Host.Cell} :
    Memory.wf ((k, b) :: t) = true ↔ b ≠ 0 ∧ Memory.above k t = true ∧ Memory.wf t = true := by
  simp [Memory.wf, and_assoc]

/-- Every key of a canonical list is above what its first key is above. -/
theorem Memory.above_mem {a : Nat} : ∀ {l : List Host.Cell}, Memory.wf l = true → Memory.above a l = true →
    ∀ e ∈ l, a < e.1
  | [], _, _, _, he => by cases he
  | (k, b) :: t, hw, ha, e, he => by
    obtain ⟨_, h2, h3⟩ := Memory.wf_cons.mp hw
    have hk : a < k := of_decide_eq_true ha
    rcases List.mem_cons.mp he with rfl | h
    · exact hk
    · exact Nat.lt_trans hk (Memory.above_mem h3 h2 e h)

theorem Memory.above_of {a : Nat} : ∀ {l : List Host.Cell}, (∀ e ∈ l, a < e.1) → Memory.above a l = true
  | [], _ => rfl
  | (k, b) :: _, h => decide_eq_true (h (k, b) (List.mem_cons_self ..))

/-- A put leaves only keys that were there, and its own. -/
theorem Memory.put_mem {a : Nat} {b : Byte} : ∀ {l : List Host.Cell} {e : Host.Cell}, e ∈ Memory.put l a b → e ∈ l ∨ e = (a, b)
  | [], e, h => by
    unfold Memory.put at h
    split at h
    · exact Or.inl h
    · exact Or.inr (List.mem_singleton.mp h)
  | (k, x) :: t, e, h => by
    unfold Memory.put at h
    split at h
    · split at h
      · exact Or.inl (List.mem_cons_of_mem _ h)
      · rcases List.mem_cons.mp h with h | h
        · exact Or.inr h
        · exact Or.inl (List.mem_cons_of_mem _ h)
    · split at h
      · split at h
        · exact Or.inl h
        · rcases List.mem_cons.mp h with h | h
          · exact Or.inr h
          · exact Or.inl h
      · rcases List.mem_cons.mp h with h | h
        · exact Or.inl (h ▸ List.mem_cons_self ..)
        · rcases Memory.put_mem h with h | h
          · exact Or.inl (List.mem_cons_of_mem _ h)
          · exact Or.inr h

/-- A put keeps the canonical form. -/
theorem Memory.put_wf (a : Nat) (b : Byte) : ∀ {l : List Host.Cell}, Memory.wf l = true → Memory.wf (Memory.put l a b) = true
  | [], h => by
    unfold Memory.put
    split
    · exact h
    · rename_i hb
      exact Memory.wf_cons.mpr ⟨hb, rfl, rfl⟩
  | (k, x) :: t, h => by
    obtain ⟨hx, hk, ht⟩ := Memory.wf_cons.mp h
    unfold Memory.put
    split
    · rename_i hak
      subst hak
      split
      · exact ht
      · rename_i hb
        exact Memory.wf_cons.mpr ⟨hb, hk, ht⟩
    · split
      · rename_i hlt
        split
        · exact h
        · rename_i hb
          exact Memory.wf_cons.mpr ⟨hb, decide_eq_true hlt, h⟩
      · rename_i hne hlt
        refine Memory.wf_cons.mpr ⟨hx, Memory.above_of fun e he => ?_, Memory.put_wf a b ht⟩
        rcases Memory.put_mem he with he | rfl
        · exact Memory.above_mem ht hk e he
        · exact Nat.lt_of_le_of_ne (Nat.le_of_not_lt hlt) (Ne.symm hne)

/-- A clear keeps the canonical form. -/
theorem Memory.clear_wf (lo hi : Nat) : ∀ {l : List Host.Cell}, Memory.wf l = true → Memory.wf (Memory.clear l lo hi) = true
  | [], h => h
  | (k, x) :: t, h => by
    obtain ⟨hx, hk, ht⟩ := Memory.wf_cons.mp h
    have ih := Memory.clear_wf lo hi ht
    unfold Memory.clear at ih ⊢
    rw [List.filter_cons]
    split
    · exact Memory.wf_cons.mpr ⟨hx, Memory.above_of fun e he => Memory.above_mem ht hk e (List.mem_of_mem_filter he), ih⟩
    · exact ih

/-- A byte below every key reads 0. -/
theorem Memory.get_below {a : Nat} : ∀ {l : List Host.Cell}, (∀ e ∈ l, a < e.1) → Memory.get l a = 0
  | [], _ => rfl
  | (k, x) :: t, h => by
    have hk : a < k := h (k, x) (List.mem_cons_self ..)
    simp [Memory.get, Nat.ne_of_lt hk, hk]

/-- A byte reads back as put, and every other byte as before. -/
theorem Memory.get_put (a c : Nat) (b : Byte) : ∀ {l : List Host.Cell}, Memory.wf l = true →
    Memory.get (Memory.put l a b) c = if c = a then b else Memory.get l c
  | [], _ => by
    unfold Memory.put
    split
    · split <;> simp_all [Memory.get]
    · simp only [Memory.get]
      split <;> simp
  | (k, x) :: t, h => by
    obtain ⟨_, hk, ht⟩ := Memory.wf_cons.mp h
    have hab := Memory.above_mem ht hk
    have ih := Memory.get_put a c b ht
    have low (n : Nat) (hn : n ≤ k) : Memory.get t n = 0 := Memory.get_below fun e he => Nat.lt_of_le_of_lt hn (hab e he)
    unfold Memory.put
    by_cases hak : a = k
    · subst hak
      by_cases hb : b = 0 <;> by_cases hc : c = a <;> by_cases hl : c < a <;>
        simp_all [Memory.get, Nat.le_of_lt]
    · by_cases hlt : a < k
      · by_cases hb : b = 0 <;> by_cases hc : c = a <;> simp_all [Memory.get]
        intro hca
        have : c ≠ k := by omega
        have : c < k := by omega
        simp_all
      · rw [if_neg hak, if_neg hlt]
        by_cases hc : c = k
        · have : c ≠ a := by omega
          simp [Memory.get, hc, Ne.symm hak]
        · by_cases hck : c < k
          · have : c ≠ a := by omega
            simp [Memory.get, hc, hck, this]
          · simp [Memory.get, hc, hck, ih]

/-- Storing an ECC word keeps the canonical form of both lists. -/
theorem State.storeWord_wf {s : State} (m w d syn : Nat) (hm : Memory.wf s.mem = true) (hs : Memory.wf s.syn = true) :
    Memory.wf (s.storeWord m w d syn).mem = true ∧ Memory.wf (s.storeWord m w d syn).syn = true := by
  refine ⟨?_, Memory.put_wf _ _ hs⟩
  have key (is : List Nat) (l : List Host.Cell) (h : Memory.wf l = true) : Memory.wf (is.foldl
      (fun l i => Memory.put l (memKey m (w * wordBytes m + i)) (BitVec.ofNat 8 (d / 256 ^ i))) l) = true := by
    induction is generalizing l with
    | nil => exact h
    | cons i is ih => exact ih _ (Memory.put_wf _ _ h)
  exact key _ _ hm

/-- A user's write of an ECC word keeps it. -/
theorem State.writeWord_wf {s : State} (m w d : Nat) (p : Bool) (hm : Memory.wf s.mem = true) (hs : Memory.wf s.syn = true) :
    Memory.wf (s.writeWord m w d p).mem = true ∧ Memory.wf (s.writeWord m w d p).syn = true := by
  unfold State.writeWord
  dsimp only
  split
  · exact State.storeWord_wf _ _ _ _ hm hs
  · exact State.storeWord_wf _ _ _ _ hm hs

/-- A hardware clear keeps it. -/
theorem State.clearMem_wf {s : State} (m lo hi : Nat) (hm : Memory.wf s.mem = true) (hs : Memory.wf s.syn = true) :
    Memory.wf (s.clearMem m lo hi).mem = true ∧ Memory.wf (s.clearMem m lo hi).syn = true := by
  unfold State.clearMem
  dsimp only
  split
  · exact ⟨Memory.clear_wf _ _ hm, Memory.clear_wf _ _ hs⟩
  · exact ⟨Memory.clear_wf _ _ hm, Memory.clear_wf _ _ hs⟩

/-- Data loaded into a memory keeps it. -/
theorem State.loadBytes_wf {s : State} (m off : Nat) (data : List Byte) (hm : Memory.wf s.mem = true)
    (hs : Memory.wf s.syn = true) :
    Memory.wf (s.loadBytes m off data).mem = true ∧ Memory.wf (s.loadBytes m off data).syn = true := by
  unfold State.loadBytes
  generalize wordsOf m off data.length = ws
  induction ws generalizing s with
  | nil => exact ⟨hm, hs⟩
  | cons w ws ih => exact ih (State.writeWord_wf _ _ _ _ hm hs).1 (State.writeWord_wf _ _ _ _ hm hs).2

/-- A whole memory written by Cairn keeps it. -/
theorem State.writeWhole_wf {s : State} (m : Nat) (data : List Byte) (hm : Memory.wf s.mem = true) (hs : Memory.wf s.syn = true) :
    Memory.wf (s.writeWhole m data).mem = true ∧ Memory.wf (s.writeWhole m data).syn = true := by
  unfold State.writeWhole
  dsimp only
  have h := State.loadBytes_wf (s := { s with
    mem := Memory.clear s.mem (memKey m 0) (memKey m (memSize m)), syn := Memory.clear s.syn (synKey m 0) (synKey m (memWords m)) })
    m 0 (data.take (memSize m)) (Memory.clear_wf _ _ hm) (Memory.clear_wf _ _ hs)
  split
  · exact State.writeWord_wf _ _ _ _ h.1 h.2
  · exact h

/-- The memories of reset are in canonical form. -/
theorem State.reset_mem_wf : Memory.wf State.reset.mem = true ∧ Memory.wf State.reset.syn = true := ⟨rfl, rfl⟩

end Sys2Proof.Machine
end

