-- ==== Sys2Proof/Machine/OpWord.lean ====
section
/-!
DEFINITION. The operation words as chapter 06 encodes them: the word that an operation command stands for, and the operation
that a word stands for (R124, R125, R130). A word is taken apart by its CLASS and the layout of Table 6-3; a word that R126
calls undefined stands for no operation.
-/

namespace Sys2Proof.Machine

/-- The word of an operation command; none for a command that is no operation. -/
def opWord : Instr → Option Word
  | .add _ e rd ra rb => some (aluWord e 0x00 rd ra rb)
  | .sub _ e rd ra rb => some (aluWord e 0x01 rd ra rb)
  | .and _ e rd ra rb => some (aluWord e 0x02 rd ra rb)
  | .or _ e rd ra rb => some (aluWord e 0x03 rd ra rb)
  | .xor _ e rd ra rb => some (aluWord e 0x04 rd ra rb)
  | .sll _ e rd ra rb => some (aluWord e 0x05 rd ra rb)
  | .srl _ e rd ra rb => some (aluWord e 0x06 rd ra rb)
  | .sra _ e rd ra rb => some (aluWord e 0x07 rd ra rb)
  | .slt _ e rd ra rb => some (aluWord e 0x08 rd ra rb)
  | .sltu _ e rd ra rb => some (aluWord e 0x09 rd ra rb)
  | .min _ e rd ra rb => some (aluWord e 0x0A rd ra rb)
  | .max _ e rd ra rb => some (aluWord e 0x0B rd ra rb)
  | .adds _ e rd ra rb => some (aluWord e 0x0C rd ra rb)
  | .subs _ e rd ra rb => some (aluWord e 0x0D rd ra rb)
  | .divs _ e rd ra rb => some (aluWord e 0x0F rd ra rb)
  | .mul _ e rd ra rb => some (aluWord e 0x10 rd ra rb)
  | .mulh _ e rd ra rb => some (aluWord e 0x11 rd ra rb)
  | .mulhu _ e rd ra rb => some (aluWord e 0x12 rd ra rb)
  | .cls _ e rd ra => some (aluWord e 0x0E rd ra 0)
  | .addi _ e rd ra imm => some (aluiWord e 0x0 rd ra imm)
  | .andi _ e rd ra imm => some (aluiWord e 0x1 rd ra imm)
  | .ori _ e rd ra imm => some (aluiWord e 0x2 rd ra imm)
  | .xori _ e rd ra imm => some (aluiWord e 0x3 rd ra imm)
  | .slli _ e rd ra imm => some (aluiWord e 0x4 rd ra imm)
  | .srli _ e rd ra imm => some (aluiWord e 0x5 rd ra imm)
  | .srai _ e rd ra imm => some (aluiWord e 0x6 rd ra imm)
  | .slti _ e rd ra imm => some (aluiWord e 0x7 rd ra imm)
  | .sltui _ e rd ra imm => some (aluiWord e 0x8 rd ra imm)
  | .mini _ e rd ra imm => some (aluiWord e 0x9 rd ra imm)
  | .maxi _ e rd ra imm => some (aluiWord e 0xA rd ra imm)
  | .movi _ e rd imm => some (moviWord e 0 rd imm)
  | .movui _ e rd imm => some (moviWord e 1 rd imm)
  | .movhi _ e rd imm => some (moviWord e 2 rd imm)
  | .beq _ e i ra rb off => some (brWord e i 0 ra rb off)
  | .bne _ e i ra rb off => some (brWord e i 1 ra rb off)
  | .blt _ e i ra rb off => some (brWord e i 2 ra rb off)
  | .bge _ e i ra rb off => some (brWord e i 3 ra rb off)
  | .bltu _ e i ra rb off => some (brWord e i 4 ra rb off)
  | .bgeu _ e i ra rb off => some (brWord e i 5 ra rb off)
  | .j _ e off => some (jmpWord e false off)
  | .jal _ e off => some (jmpWord e true off)
  | .jr _ e ra => some (jregWord e 0 ra)
  | .jalr _ e ra => some (jregWord e 1 ra)
  | .reti _ e => some (jregWord e 2 0)
  | .loop _ e i idx cnt endw => some (loopWord e i idx cnt endw)
  | .nop _ e => some (sysWord e 0 0 0 0)
  | .fence _ e => some (sysWord e 1 0 0 0)
  | .lbinv _ e => some (sysWord e 2 0 0 0)
  | .trap _ e imm => some (sysWord e 3 0 0 imm.toNat)
  | .movc _ e rd n => some (sysWord e 4 rd 0 n.toNat)
  | .movs _ e n ra => some (sysWord e 5 0 ra n.toNat)
  | .pmovTo _ e x ra => some (sysWord e 6 0 ra x.toNat)
  | .pmovFrom _ e rd x => some (sysWord e 7 rd 0 x.toNat)
  | .vcfg _ e rd ra t => some (sysWord e 8 rd ra t.toNat)
  | .vcfgr _ e rd ra rt => some (sysWord e 9 rd ra rt.toNat)
  | .cmul _ e k ra rb => some (cmacWord e 0 k ra rb)
  | .cmulj _ e k ra rb => some (cmacWord e 1 k ra rb)
  | .cmac _ e k ra rb => some (cmacWord e 2 k ra rb)
  | .cmacj _ e k ra rb => some (cmacWord e 3 k ra rb)
  | .cmsub _ e k ra rb => some (cmacWord e 4 k ra rb)
  | .cmsubj _ e k ra rb => some (cmacWord e 5 k ra rb)
  | .dmac _ e k ra rb => some (cmacWord e 6 k ra rb)
  | .aclr _ e k => some (maccWord e 0 k.toNat 0 0 0 0 0 0)
  | .cspla _ e d a b => some (maccWord e 1 d.toNat a.toNat b.toNat 0 0 0 0)
  | .csplb _ e d a b => some (maccWord e 2 d.toNat a.toNat b.toNat 0 0 0 0)
  | .norm _ e k gs => some (maccWord e 3 k.toNat 0 0 gs.toNat 0 0 0)
  | .ext _ e gd k im sh => some (maccWord e 4 0 k.toNat 0 gd.toNat 0 (b2n im) sh.toNat)
  | .exp _ e gd k => some (maccWord e 5 0 k.toNat 0 gd.toNat 0 0 0)
  | .mfa _ e gd k part => some (maccWord e 6 0 k.toNat 0 gd.toNat (partCode part) 0 0)
  | .mta _ e k part gs => some (maccWord e 7 k.toNat 0 0 gs.toNat (partCode part) 0 0)
  | .ldb _ e rd pk m => some (memWord e false 0 rd pk m)
  | .ldbu _ e rd pk m => some (memWord e false 1 rd pk m)
  | .ldh _ e rd pk m => some (memWord e false 2 rd pk m)
  | .ldhu _ e rd pk m => some (memWord e false 3 rd pk m)
  | .ld _ e rd pk m => some (memWord e false 4 rd pk m)
  | .ldd _ e rd pk m => some (memWord e false 5 rd pk m)
  | .padd _ e pk m => some (memWord e false 7 0 pk m)
  | .sb _ e rs pk m => some (memWord e true 0 rs pk m)
  | .sh _ e rs pk m => some (memWord e true 1 rs pk m)
  | .st _ e rs pk m => some (memWord e true 2 rs pk m)
  | .std _ e rs pk m => some (memWord e true 3 rs pk m)
  | .shs _ e rs pk m => some (memWord e true 4 rs pk m)
  | .scs _ e ra rb pk m => some (scsWord e ra rb pk m)
  | .vld _ e vd pk mode m => some (vlsWord e false vd pk mode m)
  | .vst _ e vs pk mode m => some (vlsWord e true vs pk mode m)
  | .vlds _ e vr pk ix m => some (vlxWord e false false vr pk ix m)
  | .vsts _ e vr pk ix m => some (vlxWord e true false vr pk ix m)
  | .vldx _ e vr pk ix m => some (vlxWord e false true vr pk ix m)
  | .vstx _ e vr pk ix m => some (vlxWord e true true vr pk ix m)
  | .vadd _ e vd va vb m => some (vopWord e 0x00 false vd va vb m)
  | .vsub _ e vd va vb m => some (vopWord e 0x01 false vd va vb m)
  | .vadds _ e vd va vb m => some (vopWord e 0x02 false vd va vb m)
  | .vsubs _ e vd va vb m => some (vopWord e 0x03 false vd va vb m)
  | .vaddh _ e vd va vb m => some (vopWord e 0x04 false vd va vb m)
  | .vsubh _ e vd va vb m => some (vopWord e 0x05 false vd va vb m)
  | .vmul _ e vd va vb m => some (vopWord e 0x06 false vd va vb m)
  | .vmulq _ e vd va vb m => some (vopWord e 0x07 false vd va vb m)
  | .vmacq _ e vd va vb m => some (vopWord e 0x08 false vd va vb m)
  | .vmacw _ e vd va vb m => some (vopWord e 0x09 false vd va vb m)
  | .vnarrow _ e vd va vb m => some (vopWord e 0x0A true vd va vb m)
  | .vshrr _ e vd va x b m => some (vopWord e 0x0B x vd va b m)
  | .vshl _ e vd va x b m => some (vopWord e 0x0C x vd va b m)
  | .vshr _ e vd va x b m => some (vopWord e 0x0D x vd va b m)
  | .vshra _ e vd va x b m => some (vopWord e 0x0E x vd va b m)
  | .vand _ e vd va vb m => some (vopWord e 0x0F false vd va vb m)
  | .vor _ e vd va vb m => some (vopWord e 0x10 false vd va vb m)
  | .vxor _ e vd va vb m => some (vopWord e 0x11 false vd va vb m)
  | .vmin _ e vd va vb m => some (vopWord e 0x12 false vd va vb m)
  | .vmax _ e vd va vb m => some (vopWord e 0x13 false vd va vb m)
  | .vcmpeq _ e vd va vb m => some (vopWord e 0x14 false vd va vb m)
  | .vcmplt _ e vd va vb m => some (vopWord e 0x15 false vd va vb m)
  | .vcmple _ e vd va vb m => some (vopWord e 0x16 false vd va vb m)
  | .vsel _ e vd va vb m => some (vopWord e 0x17 false vd va vb m)
  | .vsplat _ e vd gs m => some (vopWord e 0x18 true vd 0 gs m)
  | .vins0 _ e vd gs m => some (vopWord e 0x19 true vd 0 gs m)
  | .vext0 _ e gd vs m => some (vopWord e 0x1A false gd vs 0 m)
  | .vmovup _ e vd va vb m => some (vopWord e 0x1B true vd va vb m)
  | .vmovdn _ e vd va vb m => some (vopWord e 0x1C true vd va vb m)
  | .vsumw _ e vd va vb m => some (vopWord e 0x1D false vd va vb m)
  | .fadd _ e d a b => some (fopWord e 0x00 d a b 0)
  | .fsub _ e d a b => some (fopWord e 0x01 d a b 0)
  | .fmul _ e d a b => some (fopWord e 0x02 d a b 0)
  | .fmadd _ e d a b c => some (fopWord e 0x03 d a b c)
  | .fmsub _ e d a b c => some (fopWord e 0x04 d a b c)
  | .fmin _ e d a b => some (fopWord e 0x05 d a b 0)
  | .fmax _ e d a b => some (fopWord e 0x06 d a b 0)
  | .fabs _ e d a => some (fopWord e 0x07 d a 0 0)
  | .fneg _ e d a => some (fopWord e 0x08 d a 0 0)
  | .fitof _ e d a => some (fopWord e 0x09 d a 0 0)
  | .fftoi _ e d a => some (fopWord e 0x0A d a 0 0)
  | .fsetb _ e d a => some (fopWord e 0x0B d a 0 0)
  | .fgetb _ e d a => some (fopWord e 0x0C d a 0 0)
  | .fcmpeq _ e d a b => some (fopWord e 0x0D d a b 0)
  | .fcmplt _ e d a b => some (fopWord e 0x0E d a b 0)
  | .fcmple _ e d a b => some (fopWord e 0x0F d a b 0)
  | _ => none

/-- Field of n bits at bit lo of a word. -/
def opField (w : Word) (lo n : Nat) : BitVec n := w.extractLsb' lo n

/-- Bit k of a word. -/
def opBit (w : Word) (k : Nat) : Bool := w.getLsbD k

/-- The addressing mode that MODE and OFS give (Table 6-8): a modifier register in OFS[2:0], or the offset. -/
def memModeOf (mode : Nat) (mk : BitVec 3) (ofs : BitVec 12) : MemMode :=
  match mode with
  | 0 => .imm ofs
  | 1 => .postMod mk
  | 2 => .postImm ofs
  | 3 => .circMod mk
  | 4 => .circImm ofs
  | _ => .brev mk

/-- The vector mode that MODE and OFS give (R139). -/
def vecModeOf (mode : Nat) (w : Word) : VecMode :=
  match mode with
  | 0 => .base
  | 1 => .postMod (opField w 0 3)
  | 2 => .postImm (opField w 0 12)
  | _ => .postVl

/-- The accumulator part of a code (Table 6-7). -/
def partOf : Nat → AccPart
  | 0 => .rl
  | 1 => .rh
  | 2 => .il
  | _ => .ih

/-- The operation of a word of class ALU. -/
def aluOp (c : Fin 64) (e : Bool) (w : Word) : Instr :=
  let rd : BitVec 5 := opField w 21 5
  let ra : BitVec 5 := opField w 16 5
  let rb : BitVec 5 := opField w 11 5
  match fld w 5 0 with
  | 0 => .add c e rd ra rb
  | 1 => .sub c e rd ra rb
  | 2 => .and c e rd ra rb
  | 3 => .or c e rd ra rb
  | 4 => .xor c e rd ra rb
  | 5 => .sll c e rd ra rb
  | 6 => .srl c e rd ra rb
  | 7 => .sra c e rd ra rb
  | 8 => .slt c e rd ra rb
  | 9 => .sltu c e rd ra rb
  | 10 => .min c e rd ra rb
  | 11 => .max c e rd ra rb
  | 12 => .adds c e rd ra rb
  | 13 => .subs c e rd ra rb
  | 14 => .cls c e rd ra
  | 15 => .divs c e rd ra rb
  | 16 => .mul c e rd ra rb
  | 17 => .mulh c e rd ra rb
  | _ => .mulhu c e rd ra rb

/-- The operation of a word of class ALUI. -/
def aluiOp (c : Fin 64) (e : Bool) (w : Word) : Instr :=
  match fld w 15 12 with
  | 0 => .addi c e (opField w 21 5) (opField w 16 5) (opField w 0 12)
  | 1 => .andi c e (opField w 21 5) (opField w 16 5) (opField w 0 12)
  | 2 => .ori c e (opField w 21 5) (opField w 16 5) (opField w 0 12)
  | 3 => .xori c e (opField w 21 5) (opField w 16 5) (opField w 0 12)
  | 4 => .slli c e (opField w 21 5) (opField w 16 5) (opField w 0 12)
  | 5 => .srli c e (opField w 21 5) (opField w 16 5) (opField w 0 12)
  | 6 => .srai c e (opField w 21 5) (opField w 16 5) (opField w 0 12)
  | 7 => .slti c e (opField w 21 5) (opField w 16 5) (opField w 0 12)
  | 8 => .sltui c e (opField w 21 5) (opField w 16 5) (opField w 0 12)
  | 9 => .mini c e (opField w 21 5) (opField w 16 5) (opField w 0 12)
  | _ => .maxi c e (opField w 21 5) (opField w 16 5) (opField w 0 12)

/-- The operation of a word of class MOVI. -/
def moviOp (c : Fin 64) (e : Bool) (w : Word) : Instr :=
  match fld w 20 18 with
  | 0 => .movi c e (opField w 21 5) (opField w 0 16)
  | 1 => .movui c e (opField w 21 5) (opField w 0 16)
  | _ => .movhi c e (opField w 21 5) (opField w 0 16)

/-- The operation of a word of class BR, or of class BRI where imm is set. -/
def brOp (c : Fin 64) (e imm : Bool) (w : Word) : Instr :=
  match fld w 15 13 with
  | 0 => .beq c e imm (opField w 21 5) (opField w 16 5) (opField w 0 13)
  | 1 => .bne c e imm (opField w 21 5) (opField w 16 5) (opField w 0 13)
  | 2 => .blt c e imm (opField w 21 5) (opField w 16 5) (opField w 0 13)
  | 3 => .bge c e imm (opField w 21 5) (opField w 16 5) (opField w 0 13)
  | 4 => .bltu c e imm (opField w 21 5) (opField w 16 5) (opField w 0 13)
  | _ => .bgeu c e imm (opField w 21 5) (opField w 16 5) (opField w 0 13)

/-- The operation of a word of class JMP: L selects the link. -/
def jmpOp (c : Fin 64) (e : Bool) (w : Word) : Instr :=
  if opBit w 25 then .jal c e (opField w 0 25) else .j c e (opField w 0 25)

/-- The operation of a word of class JREG. -/
def jregOp (c : Fin 64) (e : Bool) (w : Word) : Instr :=
  match fld w 20 18 with
  | 0 => .jr c e (opField w 21 5)
  | 1 => .jalr c e (opField w 21 5)
  | _ => .reti c e

/-- The operation of a word of class LOOP: COUNT12, or the register RC. -/
def loopOp (c : Fin 64) (e : Bool) (w : Word) : Instr :=
  let i := opBit w 25
  .loop c e i (opField w 23 2) (if i then opField w 11 12 else (opField w 18 5).setWidth 12) (opField w 0 11)

/-- The operation of a word of class SYS (R135). -/
def sysOp (c : Fin 64) (e : Bool) (w : Word) : Instr :=
  let rd : BitVec 5 := opField w 21 5
  let ra : BitVec 5 := opField w 16 5
  match fld w 15 11 with
  | 0 => .nop c e
  | 1 => .fence c e
  | 2 => .lbinv c e
  | 3 => .trap c e (opField w 0 11)
  | 4 => .movc c e rd (opField w 0 8)
  | 5 => .movs c e (opField w 0 8) ra
  | 6 => .pmovTo c e (opField w 0 5) ra
  | 7 => .pmovFrom c e rd (opField w 0 5)
  | 8 => .vcfg c e rd ra (opField w 0 11)
  | _ => .vcfgr c e rd ra (opField w 0 5)

/-- The operation of a word of class CMAC. -/
def cmacOp (c : Fin 64) (e : Bool) (w : Word) : Instr :=
  match fld w 12 10 with
  | 0 => .cmul c e (opField w 23 3) (opField w 18 5) (opField w 13 5)
  | 1 => .cmulj c e (opField w 23 3) (opField w 18 5) (opField w 13 5)
  | 2 => .cmac c e (opField w 23 3) (opField w 18 5) (opField w 13 5)
  | 3 => .cmacj c e (opField w 23 3) (opField w 18 5) (opField w 13 5)
  | 4 => .cmsub c e (opField w 23 3) (opField w 18 5) (opField w 13 5)
  | 5 => .cmsubj c e (opField w 23 3) (opField w 18 5) (opField w 13 5)
  | _ => .dmac c e (opField w 23 3) (opField w 18 5) (opField w 13 5)

/-- The operation of a word of class MACC (Table 6-7). -/
def maccOp (c : Fin 64) (e : Bool) (w : Word) : Instr :=
  let d : BitVec 3 := opField w 19 3
  let a : BitVec 3 := opField w 16 3
  let b : BitVec 3 := opField w 13 3
  let g : BitVec 5 := opField w 8 5
  match fld w 25 22 with
  | 0 => .aclr c e d
  | 1 => .cspla c e d a b
  | 2 => .csplb c e d a b
  | 3 => .norm c e d g
  | 4 => .ext c e g a (opBit w 5) (opField w 0 5)
  | 5 => .exp c e g a
  | 6 => .mfa c e g a (partOf (fld w 7 6))
  | _ => .mta c e d (partOf (fld w 7 6)) g

/-- The operation of a word of class LD (R138). -/
def ldOp (c : Fin 64) (e : Bool) (w : Word) : Instr :=
  let r : BitVec 5 := opField w 21 5
  let pk : BitVec 3 := opField w 18 3
  let m := memModeOf (fld w 17 15) (opField w 0 3) (opField w 0 12)
  match fld w 14 12 with
  | 0 => .ldb c e r pk m
  | 1 => .ldbu c e r pk m
  | 2 => .ldh c e r pk m
  | 3 => .ldhu c e r pk m
  | 4 => .ld c e r pk m
  | 5 => .ldd c e r pk m
  | _ => .padd c e pk m

/-- The operation of a word of class ST (R138). -/
def stOp (c : Fin 64) (e : Bool) (w : Word) : Instr :=
  let r : BitVec 5 := opField w 21 5
  let pk : BitVec 3 := opField w 18 3
  let m := memModeOf (fld w 17 15) (opField w 0 3) (opField w 0 12)
  match fld w 14 12 with
  | 0 => .sb c e r pk m
  | 1 => .sh c e r pk m
  | 2 => .st c e r pk m
  | 3 => .std c e r pk m
  | 4 => .shs c e r pk m
  | _ => .scs c e r (opField w 7 5) pk (memModeOf (fld w 17 15) (opField w 0 3) ((opField w 0 7).signExtend 12))

/-- The operation of a word of class VLS (R139). -/
def vlsOp (c : Fin 64) (e : Bool) (w : Word) : Instr :=
  let mode := vecModeOf (fld w 17 15) w
  if opBit w 14 then .vst c e (opField w 21 5) (opField w 18 3) mode (opBit w 13)
  else .vld c e (opField w 21 5) (opField w 18 3) mode (opBit w 13)

/-- The operation of a word of class VLX: ST, then X, select it. -/
def vlxOp (c : Fin 64) (e : Bool) (w : Word) : Instr :=
  let vr : BitVec 5 := opField w 21 5
  let pk : BitVec 3 := opField w 18 3
  let ix : BitVec 5 := opField w 10 5
  let m := opBit w 15
  match opBit w 17, opBit w 16 with
  | false, false => .vlds c e vr pk ix m
  | true, false => .vsts c e vr pk ix m
  | false, true => .vldx c e vr pk ix m
  | true, true => .vstx c e vr pk ix m

/-- The operation of a word of class VOP (R140). -/
def vopOp (c : Fin 64) (e : Bool) (w : Word) : Instr :=
  let vd : BitVec 5 := opField w 21 5
  let va : BitVec 5 := opField w 16 5
  let vb : BitVec 5 := opField w 11 5
  let m := opBit w 10
  let x := opBit w 9
  match fld w 5 0 with
  | 0 => .vadd c e vd va vb m
  | 1 => .vsub c e vd va vb m
  | 2 => .vadds c e vd va vb m
  | 3 => .vsubs c e vd va vb m
  | 4 => .vaddh c e vd va vb m
  | 5 => .vsubh c e vd va vb m
  | 6 => .vmul c e vd va vb m
  | 7 => .vmulq c e vd va vb m
  | 8 => .vmacq c e vd va vb m
  | 9 => .vmacw c e vd va vb m
  | 10 => .vnarrow c e vd va vb m
  | 11 => .vshrr c e vd va x vb m
  | 12 => .vshl c e vd va x vb m
  | 13 => .vshr c e vd va x vb m
  | 14 => .vshra c e vd va x vb m
  | 15 => .vand c e vd va vb m
  | 16 => .vor c e vd va vb m
  | 17 => .vxor c e vd va vb m
  | 18 => .vmin c e vd va vb m
  | 19 => .vmax c e vd va vb m
  | 20 => .vcmpeq c e vd va vb m
  | 21 => .vcmplt c e vd va vb m
  | 22 => .vcmple c e vd va vb m
  | 23 => .vsel c e vd va vb m
  | 24 => .vsplat c e vd vb m
  | 25 => .vins0 c e vd vb m
  | 26 => .vext0 c e vd va m
  | 27 => .vmovup c e vd va vb m
  | 28 => .vmovdn c e vd va vb m
  | _ => .vsumw c e vd va vb m

/-- The operation of a word of class FOP (R141). -/
def fopOp (c : Fin 64) (e : Bool) (w : Word) : Instr :=
  let d : BitVec 5 := opField w 21 5
  let a : BitVec 5 := opField w 16 5
  let b : BitVec 5 := opField w 11 5
  let f : BitVec 5 := opField w 6 5
  match fld w 5 0 with
  | 0 => .fadd c e d a b
  | 1 => .fsub c e d a b
  | 2 => .fmul c e d a b
  | 3 => .fmadd c e d a b f
  | 4 => .fmsub c e d a b f
  | 5 => .fmin c e d a b
  | 6 => .fmax c e d a b
  | 7 => .fabs c e d a
  | 8 => .fneg c e d a
  | 9 => .fitof c e d a
  | 10 => .fftoi c e d a
  | 11 => .fsetb c e d a
  | 12 => .fgetb c e d a
  | 13 => .fcmpeq c e d a b
  | 14 => .fcmplt c e d a b
  | _ => .fcmple c e d a b

/-- The operation that a word stands for on core c: its CLASS picks the layout (R124, R125); none where the encoding is
undefined (R126). -/
def decodeOp (c : Fin 64) (w : Word) : Option Instr :=
  let e := opBit w 31
  if undefWord w then none
  else match wordClass w with
    | 0x01 => some (aluOp c e w)
    | 0x02 => some (aluiOp c e w)
    | 0x03 => some (moviOp c e w)
    | 0x04 => some (brOp c e false w)
    | 0x05 => some (brOp c e true w)
    | 0x06 => some (jmpOp c e w)
    | 0x07 => some (jregOp c e w)
    | 0x08 => some (loopOp c e w)
    | 0x09 => some (sysOp c e w)
    | 0x10 => some (cmacOp c e w)
    | 0x11 => some (maccOp c e w)
    | 0x18 => some (ldOp c e w)
    | 0x19 => some (stOp c e w)
    | 0x1A => some (vlsOp c e w)
    | 0x1B => some (vlxOp c e w)
    | 0x1C => some (vopOp c e w)
    | 0x1D => some (fopOp c e w)
    | _ => none

end Sys2Proof.Machine
end

