-- ==== Sys2Proof/Tests/Slice0.lean ====
section
/-!
SUPPORT. Tests: what WellFormed refuses, two small checks per family against values worked out from the manual, and for every
statement with hypotheses a concrete device and operands that meet them, clause by clause, at a boundary where a clause has one.
-/

set_option Elab.async false

namespace Sys2Proof.Machine

/-- A device in RUN: core 9 alone in running ridge 3, Cairn ready. -/
def dev : State := { State.reset with
  pwr := { Pwr.reset with st := .run, classB := true }, cairn := { Cairn.reset with ready := true }
  fcu := { Fcu.reset with keep := true }
  cores := [(9, { Core.reset with st := .member, ridge := 3, pc := 0x1000, vinv := false, vl := 1 })]
  ridges := [(3, { Ridge.reset with st := .running, kind := 1, members := [(true, 9), (false, 0), (false, 0)], outen := true })] }

/-- The same with core 9 changed. -/
def devC (f : Core → Core) : State := dev.updCore 9 f

/-- The same with ridge 3 changed. -/
def devR (f : Ridge → Ridge) : State := dev.updRidge 3 f

/-- Triad 3 of cores 9, 10 and 11, of which the first n slots from the top are filled. -/
def devT (f : Nat → Core → Core) (m : List (Bool × Nat)) : State := { dev with
  cores := [9, 10, 11].map fun c => (c, f c { Core.reset with st := .member, ridge := 3, slot := c - 9, pc := 0x1000 })
  ridges := [(3, { Ridge.reset with st := .running, kind := 3, members := m, outen := true })] }

/-- Triad 3 complete. -/
def triad : State := devT (fun _ x => x) [(true, 9), (true, 10), (true, 11)]

/-- The pointer p0 of core 9 is set. -/
def devP (a : Word) : State := devC fun x => { x with pf := [(0, TW.plain a)] }

/-- Massif 0 with one region over all of it, which ridge 3 may read and write. -/
def massif1 : Massif := { Massif.reset with regions := [(0, { en := true, limit := 511, base := 0, rd := 8, wr := 8 })] }

/-- The pointer lies in massif 0; the same in a triad. -/
def devM : State := { devP 0x20000000 with massifs := [(0, massif1)] }
def devMT : State := { devT (fun _ x => { x with vinv := false, vl := 1, pf := [(0, TW.plain 0x20000000)] })
  [(true, 9), (true, 10), (true, 11)] with massifs := [(0, massif1)] }

/-- The same device with an open session of a CUSTODIAN, in PROVISIONED, with energy for every commit. -/
def user : Session :=
  { sid := 7, open_ := true, cred := 5, role := 3, keys := [], h := 4, win := 1, dseq := 1, kept := [], via := .host }

/-- The session's packet. -/
def org : Origin := { session := 7, seq := 5, via := .host }

/-- A board record with ample hold-up energy. -/
def board1 : Board :=
  { huK := 16384, huC := 1000000, huVmin := 1000, huEta := 90, bistEn := false, huPboard := 100, huEtrans := 10, huPflash := 100 }

/-- Its bytes in flash (Table 18-2). -/
def boardRaw : List Byte :=
  [49, 68, 82, 66, 1, 0, 0, 64, 64, 66, 15, 0, 232, 3, 90, 0,
   100, 0, 0, 0, 10, 0, 0, 0, 100, 0, 0, 0, 170, 70, 235, 153]

/-- The device with that session. -/
def devJ : State := { dev with
  cairn := { dev.cairn with sessions := [user] }
  nvm := { Nvm.reset with lc := 1, identity := true, boardA := boardRaw, creds := [(5, 3, [])]
                          images := [(63, some { pm := [], dm := [], digest := Config.sha384 [] })] }
  pwr := { dev.pwr with code := 4000, sense := 4000, brdok := true, vaultId := true } }

/-- The same with ridge 3 READY. -/
def devJR : State := devJ.updRidge 3 fun x => { x with st := .ready, outen := false }

theorem ready_of {s : State} {c : Nat} (h : (s.executes c = true ∧ (s.core c).open_ = [] ∧ (s.core c).held = false ∧
    (s.core c).wait = [] ∧ (s.core c).aerr = none) ∧ ((s.core c).refusals = [] ∧ (s.core c).pend = none ∧
    (s.core c).retiPend = false ∧ (s.core c).pc.toNat + 4 < 0x18000) ∧
    Loops.endTest (s.core c).pc 4 (s.core c).testLoops = (none, (s.core c).testLoops) ∧ (s.core c).posted = 0 ∧
    (s.ridge (s.core c).ridge).queue = []) : s.Ready c :=
  ⟨h.1.1, h.1.2.1, h.1.2.2.1, h.1.2.2.2.1, h.1.2.2.2.2, h.2.1.1, h.2.1.2.1, h.2.1.2.2.1, h.2.1.2.2.2, h.2.2.1, h.2.2.2.1, h.2.2.2.2⟩

theorem quiet_of {x : Domain} (h : x.due = 0 ∧ (x.st ≠ .free → x.adv < x.cfg.span) ∧ (x.st = .holdover → x.holds < x.cfg.hold)) :
    x.Quiet := ⟨h.1, h.2.1, h.2.2⟩

theorem balls_of {s : State} (h : ∀ e ∈ s.gps, s.ballMoved e.1 = false ∧ e.2.edgeAt = none ∧ (s.gp e.1).edgeAt = none) :
    s.BallsQuiet := h

theorem wf_of {s : State} (h : Memory.wf s.mem = true ∧ Memory.wf s.syn = true) : s.MemWf := ⟨h.1, h.2⟩

theorem noSyn_of {s : State} {m : Nat} (h : s.syn = [] ∧ (isClassB m && !s.pwr.classB) = false) (w : Nat) : s.memSyn m w = 0 := by
  simp [State.memSyn, h.1, h.2, Memory.get]

theorem clean_of {s : State} {m : Nat} (h : (Memory.wf s.mem = true ∧ s.syn = []) ∧ (isClassB m && !s.pwr.classB) = false ∧
    s.fcu.injArm = false ∧ s.ecc.injArm = false) : s.Clean m :=
  ⟨⟨h.1.1, by rw [h.1.2]; rfl⟩, noSyn_of ⟨h.1.2, h.2.1⟩, h.2.2.1, h.2.2.2⟩

theorem writes_of {s : State} {r : Nat} {a : Word} {o : Nat} (h : (s.ridge r).running = true ∧ regOffset r a = some o ∧
    s.check r (s.leadMode r) true a.toNat 4 false = none ∧ s.regKinds r (rowOf a.toNat == some .pview) true o = []) :
    s.Writes r a o := ⟨h.1, h.2.1, h.2.2.1, h.2.2.2⟩

theorem compares_of {s : State} {r : Nat} (h : (s.ridge r).running = true ∧ (s.massif (s.ridge r).massif).col = none ∧
    (s.ridge r).loads = [] ∧ (∀ m ∈ (s.ridge r).valid, (s.core m.2).held = false) ∧
    (∀ m ∈ (s.ridge r).valid, m.2 < 64 ∧ (s.core m.2).st = .member ∧ (s.core m.2).ridge = r) ∧
    ((s.ridge r).valid.map Prod.snd).Nodup ∧ s.fcu.injArm = false) : s.Compares r :=
  ⟨h.1, h.2.1, h.2.2.1, h.2.2.2.1, h.2.2.2.2.1, h.2.2.2.2.2.1, h.2.2.2.2.2.2⟩

theorem admits_of {s : State} {o : Origin} {op : Nat} {x : Session} (h : s.cairnServes = true ∧ s.session o.session = some x ∧
    s.gateOp x op = none) : s.Admits o op x := ⟨h.1, h.2.1, h.2.2⟩

theorem commit_ok {s : State} {l : List JRec} {e : Nat} (h : (s.commit l e).1 = none) :
    s.commit l e = (none, (s.commit l e).2) := Prod.ext h rfl

theorem markFlash_good (s : State) (a : Bool) : (s.markFlash a false).2 = s := by
  unfold State.markFlash
  simp only [Bool.false_eq_true, ↓reduceIte]
  repeat' split
  all_goals rfl

theorem markBoth_images {s : State} {e : Nat} (h : s.nvm.badA = false ∧ s.nvm.badB = false) :
    (s.markBoth e).2.2.2.nvm.images = s.nvm.images := by
  unfold State.markBoth
  dsimp only
  split
  · rfl
  · rw [show s.sampleSense.nvm.badA = false from h.1, markFlash_good, show s.sampleSense.nvm.badB = false from h.2, markFlash_good]
    rfl

theorem commit_images {s : State} {l : List JRec} {e : Nat} (h : s.nvm.badA = false ∧ s.nvm.badB = false)
    (hu : s.nvm.jused < 3072) : (s.commit l e).2.nvm.images = s.nvm.images := by
  unfold State.commit State.checkpoint State.commitTo
  rw [if_pos hu, ← markBoth_images (e := e) h]
  split
  · rename_i h1
    rw [h1]
  · rename_i h1
    rw [h1]
    rfl

theorem imageGood_of {s : State} {l : List JRec} {n : Nat} {i : Image} (h : s.nvm.badA = false ∧ s.nvm.badB = false)
    (hi : Tbl.get none s.nvm.images n = some i) (hd : Config.sha384 (i.pm ++ i.dm) = i.digest) (hu : s.nvm.jused < 3072 := by decide) :
    (s.commit l).2.imageGood n = true := by
  unfold State.imageGood
  rw [commit_images h hu, hi]
  exact decide_eq_true hd

theorem marker_ok {s : State} {e : Nat} {o : Option Nat} (h : (s.marker e).1 = o) : s.marker e = (o, (s.marker e).2) :=
  Prod.ext h rfl

/-- A load that has its response, and where it goes. -/
def load1 : LoadReq :=
  { req := { write := false, addr := 0x20000000, size := 4, data := [] }, data := [(1, false), (2, false), (3, false), (4, false)]
    err := none, behind := 0, sent := true, ready := true }

/-- Its part: g1. -/
def part1 : RPart := { req := load1.req, rd := 1, isVec := false, bit := 0, signed := false, keep := [] }

/-- Two records that differ. -/
def rec1 : Record := { entry := false, pc := 0x1000, wbs := [.g 1 (TW.plain 5)], cregs := [], reqs := [], accs := [] }
def rec2 : Record := { rec1 with wbs := [.g 1 (TW.plain 6)] }

/-- Domain 7 tracks; entry 0 of its list 0 is armed at angle 1. -/
def astDev : State := { dev with
  doms := [(7, { Domain.reset with st := .track, cur := [(0, 0)] })], mem := [(memKey 0x84 0, 1), (memKey 0x84 3, 0x18)] }

/-- A matching rule for port 3: no condition, queue 0. -/
def ruleW : Nat := 0xC0000000

/-- Port 3 holds a frame of 14 bytes in transmit queue 7. -/
def txDev : State := { dev with
  eths := [(3, { Eth.reset with en := true, link := true
                                txq := [(7, { Queue.reset with en := true, owner := some 3, npage := 1, tail := 1, held := 1 })] })]
  mem := [(memKey 0x87 0, 14)] }

/-- A frame with an HSR tag of sequence number 5. -/
def hsrFrame : Frame := { bytes := List.replicate 12 0 ++ [0x89, 0x2F, 0, 0, 0, 5] ++ List.replicate 42 0, fcsOk := true }

/-- A packet of no length over Ethernet. -/
def pkt0 : Packet := { via := .eth 0 1 2, bytes := [] }

/-- A protected packet of session 7 with SEQ 5, no payload and the tag that its key makes. -/
def hdrS : List Byte := [0x4A, 0x4B, 1, 0, 0, 0, 0, 7, 0, 0, 0, 5, 0, 2, 0, 0]
def pktS : Packet := { via := .host, bytes := hdrS ++ gcmTagBytes [] (packetNonce [] 5) hdrS [] }

/-- The same packet with another tag. -/
def pktBad : Packet := { via := .host, bytes := hdrS ++ (gcmTagBytes [] (packetNonce [] 5) hdrS []).map (~~~ ·) }

theorem byte_ne_not : ∀ b : Byte, b ≠ ~~~b := by decide

theorem map_not_ne {l : List Byte} (h : l.isEmpty = false) : l ≠ l.map (~~~ ·) := by
  cases l with
  | nil => cases h
  | cons b l => exact fun e => byte_ne_not b (List.cons.inj e).1

/-- A firmware image, of which the free values say whether its signature is good. -/
def fw0 : Firmware := { bytes := [], version := 1, epoch := 0 }

/-- A finished job, and a record of the fault log. -/
def job1 : Job := { num := 3, session := 7, opcode := 0x0205, cseq := 5, work := .imgErase 63, status := some 0, aborted := false, pct := 0 }
def log1 : LogRec := { num := 0, time := 0, source := 0xF10, cls := 0, react := 0, target := 0, count := 1, flags := 0 }

theorem get_of {α : Type} {P : α → Prop} {d : α} (hd : P d) : ∀ {t : Tbl α}, (∀ e ∈ t, P e.2) → ∀ n, P (Tbl.get d t n)
  | [], _, _ => hd
  | (k, x) :: t, h, n => by
    unfold Tbl.get
    split
    · exact h (k, x) (List.mem_cons_self ..)
    · exact get_of hd (fun e he => h e (List.mem_cons_of_mem _ he)) n

theorem heldNone_of {s : State} (h : ∀ e ∈ s.cores, e.2.held = false) (c : Nat) : (s.core c).held = false :=
  get_of (P := fun x : Core => x.held = false) rfl h c

theorem clearNone_of {s : State} {n : Nat} (h : ∀ e ∈ s.ridges, e.2.clearing.contains n = false) (k : Nat) :
    (s.ridge k).clearing.contains n = false :=
  get_of (P := fun x : Ridge => x.clearing.contains n = false) rfl h k

theorem not_refused {x : Reach} (h : (match x with | .refused _ => true | _ => false) = false) (k : Nat) : x ≠ .refused k := by
  intro e
  rw [e] at h
  cases h

theorem fwGood_of {s : State} {f : Firmware} (h : Config.fwSigned f.bytes = true) (h2 : (s.nvm.lc != 2) = true) :
    s.fwGood f = true := by
  unfold State.fwGood
  rw [h, h2]
  rfl

theorem next_of {s : State} {P : State → Prop} [DecidablePred P]
    (h : (match step s with | .next t => decide (P t) | _ => false) = true) : ∃ t, step s = .next t ∧ P t := by
  revert h
  cases step s with
  | next t => exact fun h => ⟨t, rfl, of_decide_eq_true h⟩
  | fault => exact fun h => nomatch h
  | refused => exact fun h => nomatch h

/-- A HELLO for credential 5 whose public point and signature are zeros; the free values say whether they are good. -/
def hdrH : List Byte := [0x4A, 0x4B, 1, 0, 0, 0, 0, 0, 0, 0, 0, 0, 0, 1, 0, 213]
def helloBody : List Byte := hdrH ++ [0, 0, 0, 5] ++ List.replicate 209 0
def pktHello : Packet := { via := .host, bytes := helloBody ++ clearTag helloBody }

theorem tag_of {l t : List Byte} (h : t.length = 16) (ht : t = clearTag l) :
    (l ++ t).drop ((l ++ t).length - 16) = clearTag ((l ++ t).take ((l ++ t).length - 16)) := by
  have e : (l ++ t).length - 16 = l.length := by rw [List.length_append, h]; omega
  rw [e, List.drop_left, List.take_left, ht]

theorem clearTag_length (l : List Byte) : (clearTag l).length = 16 := by
  simp [clearTag, bytesBE, bytesLE]

theorem helloWf : helloWellFormed pktHello = true := by
  unfold helloWellFormed
  simp only [Bool.and_eq_true, show pktHello.bytes = helloBody ++ clearTag helloBody from rfl]
  exact ⟨⟨⟨⟨⟨by decide +kernel, by decide +kernel⟩, by decide +kernel⟩, by decide +kernel⟩, by decide +kernel⟩,
    decide_eq_true (tag_of (clearTag_length helloBody) rfl)⟩

theorem helloNone_of {s : State} {p : Packet} {pub : List Byte}
    (h : (s.nvm.lc ≠ 0 ∧ s.cairn.recovery = false) ∧ s.nvm.identity = true) (hc : s.nvm.creds = [(5, 3, pub)])
    (hf : field ((p.bytes.drop 16).take 213) 0 4 = 5)
    (hs : Config.ecdsaOk pub (Config.sha384 (p.bytes.take 16 ++ ((p.bytes.drop 16).take 213).take 117))
      (((p.bytes.drop 16).take 213).drop 117) = true)
    (hp : Config.pointOk ((((p.bytes.drop 16).take 213).drop 20).take 97) = true) (hn : s.cairn.sessions.length < 8)
    (hv : s.creds.isNone = false) :
    s.helloRefusal p = none := by
  unfold State.helloRefusal
  simp [h.1.1, h.1.2, h.2, hc, hf, hs, hp, hn, hv]

theorem test_witness_AluRegisterOperations :
    (∃ (s : State) (c : Fin 64), s.Ready ↑c) :=
  ⟨dev, 9, ready_of (by decide)⟩

theorem test_witness_SaturatingAndDividing :
    (∃ (s : State) (c : Fin 64) (rb : BitVec 5), s.Ready ↑c ∧ ((s.core ↑c).g rb).v = 0) ∧
    (∃ (s : State) (c : Fin 64) (rb : BitVec 5), s.Ready ↑c ∧ ((s.core ↑c).g rb).v ≠ 0) :=
  ⟨⟨dev, 9, 3, ready_of (by decide), by decide⟩,
   ⟨devC fun x => { x with gr := [(3, TW.plain 5)] }, 9, 3, ready_of (by decide), by decide⟩⟩

theorem test_witness_AluImmediateOperations :
    (∃ (s : State) (c : Fin 64) (imm : BitVec 12), s.Ready ↑c ∧ imm.toNat < 32) :=
  ⟨dev, 9, 31, ready_of (by decide), by decide⟩

theorem test_witness_Branches :
    (∃ (s : State) (c : Fin 64) (i : Bool) (ra : BitVec 5) (rb : BitVec 5) (off : BitVec 13), s.Ready ↑c ∧ ((s.core ↑c).g ra).p = false ∧ (i = false → ((s.core ↑c).g rb).p = false) ∧ BitVec.toNat ((s.core ↑c).pc + BitVec.signExtend 32 off <<< 2) < 98304 ∧ BitVec.toNat ((s.core ↑c).pc + BitVec.signExtend 32 off <<< 2) % 4 = 0) :=
  ⟨dev, 9, false, 1, 2, 16, ready_of (by decide), by decide⟩

theorem test_witness_JumpsAndReturn :
    (∃ (s : State) (c : Fin 64) (off : BitVec 25), s.Ready ↑c ∧ targetOk ((s.core ↑c).pc + BitVec.signExtend 32 off <<< 2) = true) ∧
    (∃ (s : State) (c : Fin 64) (ra : BitVec 5), s.Ready ↑c ∧ ((s.core ↑c).g ra).p = false ∧ targetOk ((s.core ↑c).g ra).v = true) ∧
    (∃ (s : State) (c : Fin 64), s.Ready ↑c ∧ targetOk (s.core ↑c).epc = true ∧ (BitVec.getLsbD (s.core ↑c).epsw 10 = true → targetOk (s.core ↑c).etgt = true)) ∧
    (∃ (s : State) (c : Fin 64) (off : BitVec 25) (n : Nat), s.Ready ↑c ∧ (∀ (w : Nat), s.memSyn (64 + ↑c) w = 0) ∧ (s.core ↑c).lbLoop = none ∧ BitVec.toNat (s.core ↑c).pc % 4 = 0 ∧ s.fcu.injArm = false ∧ 0 < n ∧ n ≤ 6 ∧ BitVec.toNat (s.core ↑c).pc + 4 + 4 * n ≤ 98304 ∧ (∀ i < n, BitVec.getLsbD (s.memByte (64 + ↑c) (BitVec.toNat (s.core ↑c).pc + 4 + 4 * i + 3)) 7 = decide (i + 1 = n)) ∧ targetOk ((s.core ↑c).pc + BitVec.signExtend 32 off <<< 2) = true) ∧
    (∃ (s : State) (c : Fin 64) (ra : BitVec 5) (n : Nat), s.Ready ↑c ∧ (∀ (w : Nat), s.memSyn (64 + ↑c) w = 0) ∧ (s.core ↑c).lbLoop = none ∧ BitVec.toNat (s.core ↑c).pc % 4 = 0 ∧ s.fcu.injArm = false ∧ 0 < n ∧ n ≤ 6 ∧ BitVec.toNat (s.core ↑c).pc + 4 + 4 * n ≤ 98304 ∧ (∀ i < n, BitVec.getLsbD (s.memByte (64 + ↑c) (BitVec.toNat (s.core ↑c).pc + 4 + 4 * i + 3)) 7 = decide (i + 1 = n)) ∧ ((s.core ↑c).g ra).p = false ∧ targetOk ((s.core ↑c).g ra).v = true) ∧
    (∃ (s : State) (c : Fin 64) (a : Word), (∀ (w : Nat), s.memSyn (64 + ↑c) w = 0) ∧ s.executes ↑c = true ∧ (s.core ↑c).open_ = [] ∧ (s.core ↑c).held = false ∧ (s.core ↑c).wait = [] ∧ (s.core ↑c).aerr = none ∧ (s.core ↑c).refusals = [] ∧ (s.core ↑c).pend = some a ∧ (s.core ↑c).retiPend = true ∧ BitVec.toNat (s.core ↑c).pc + 4 ≤ 98304 ∧ s.fcu.injArm = false) :=
  ⟨⟨dev, 9, 16, ready_of (by decide), by decide⟩,
   ⟨dev, 9, 1, ready_of (by decide), by decide⟩,
   ⟨dev, 9, ready_of (by decide), by decide⟩,
   ⟨{ dev with mem := [(memKey 73 4123, 0x80)] }, 9, 16, 6, ready_of (by decide), noSyn_of (by decide), by decide⟩,
   ⟨{ dev with mem := [(memKey 73 4103, 0x80)] }, 9, 1, 1, ready_of (by decide), noSyn_of (by decide), by decide⟩,
   ⟨devC fun x => { x with pend := some 0x2000, retiPend := true }, 9, 0x2000, noSyn_of (by decide), by decide⟩⟩

theorem test_witness_LoopStarts :
    (∃ (s : State) (c : Fin 64) (i : Bool) (idx : BitVec 2) (cnt : BitVec 12) (endw : BitVec 11), s.Ready ↑c ∧ (∀ (w : Nat), s.memSyn (64 + ↑c) w = 0) ∧ (i = false → cnt.toNat < 32) ∧ pswLd (s.core ↑c).psw = idx.toNat ∧ (s.core ↑c).late = [] ∧ (if i = true then (⟨BitVec.setWidth 32 cnt, false⟩ : TW) else (s.core ↑c).g (BitVec.setWidth 5 cnt)).p = false ∧ BitVec.toNat ((s.core ↑c).pc + 4) ≤ BitVec.toNat ((s.core ↑c).pc + BitVec.ofNat 32 (4 * endw.toNat)) ∧ BitVec.toNat ((s.core ↑c).pc + BitVec.ofNat 32 (4 * endw.toNat)) < 98304 ∧ s.fcu.injArm = false) :=
  ⟨dev, 9, true, 0, 4, 2, ready_of (by decide), noSyn_of (by decide), by decide⟩

theorem test_witness_SystemOperations :
    (∃ (s : State) (c : Fin 64) (e : Bool), s.Ready ↑c ∧ (∀ (w : Nat), s.memSyn (64 + ↑c) w = 0) ∧ e = true ∧ s.fcu.injArm = false ∧ BitVec.toNat ((s.core ↑c).landAll (s.core ↑c).due).ivb + 4 * 136 + 4 ≤ 98304 ∧ BitVec.toNat     (wordOfBytes (s.ownRead (↑c) true (BitVec.toNat ((s.core ↑c).landAll (s.core ↑c).due).ivb + 4 * 136) 4).1).1 <   98304 ∧ BitVec.toNat       (wordOfBytes (s.ownRead (↑c) true (BitVec.toNat ((s.core ↑c).landAll (s.core ↑c).due).ivb + 4 * 136) 4).1).1 %     4 =   0) ∧
    (∃ (s : State) (c : Fin 64), s.Ready ↑c ∧ (s.core ↑c).merge = [] ∧ (s.core ↑c).evicted = none ∧ (s.ridge (s.core ↑c).ridge).flying = []) ∧
    (∃ (s : State) (c : Fin 64) (ra : BitVec 5) (creg : Byte), s.Ready ↑c ∧ cregListed (creg.toNat) = true ∧ creg.toNat ≠ 32 ∧ creg.toNat ≠ 33 ∧ ((s.core ↑c).g ra).p = false ∧ (creg.toNat = 0 ∨ creg.toNat = 2 →   BitVec.getLsbD ((s.core ↑c).g ra).v 4 = true → (s.ridge (s.core ↑c).ridge).priv = true)) ∧
    (∃ (s : State) (c : Fin 64) (ra : BitVec 5) (creg : Byte), s.Ready ↑c ∧ (creg.toNat = 32 ∨ creg.toNat = 33) ∧ ((s.core ↑c).g ra).p = false) ∧
    (∃ (s : State) (c : Fin 64) (ra : BitVec 5) (rt : BitVec 5), s.Ready ↑c ∧ ((s.core ↑c).g ra).p = false ∧ ((s.core ↑c).g rt).p = false) :=
  ⟨⟨{ dev with mem := [(memKey 73 0x221, 0x20)] }, 9, true, ready_of (by decide), noSyn_of (by decide), by decide⟩,
   ⟨dev, 9, ready_of (by decide), by decide⟩,
   ⟨dev, 9, 2, 3, ready_of (by decide), by decide⟩,
   ⟨dev, 9, 2, 0x21, ready_of (by decide), by decide⟩,
   ⟨dev, 9, 2, 3, ready_of (by decide), by decide⟩⟩

theorem test_witness_MultiplyAccumulate :
    (∃ (s : State) (c : Fin 64), s.Ready ↑c) :=
  ⟨dev, 9, ready_of (by decide)⟩

theorem test_witness_AccumulatorOperations :
    (∃ (s : State) (c : Fin 64), s.Ready ↑c) :=
  ⟨dev, 9, ready_of (by decide)⟩

theorem test_witness_ScalarLoads :
    (∃ (s : State) (c : Fin 64) (pk : BitVec 3) (m : MemMode) (pm : Bool) (off : Nat), s.Ready ↑c ∧ ((s.core ↑c).ptr pk.toNat).p = false ∧ s.reach (↑c) false (BitVec.toNat ((s.core ↑c).address pk m)) 1 false = Reach.own pm off) ∧
    (∃ (s : State) (c : Fin 64) (pk : BitVec 3) (m : MemMode), s.Ready ↑c ∧ ((s.core ↑c).ptr pk.toNat).p = false ∧ s.reach (↑c) false (BitVec.toNat ((s.core ↑c).address pk m)) 1 false = Reach.remote) ∧
    (∃ (s : State) (c : Fin 64) (pk : BitVec 3) (m : MemMode) (pm : Bool) (off : Nat), s.Ready ↑c ∧ ((s.core ↑c).ptr pk.toNat).p = false ∧ s.reach (↑c) false (BitVec.toNat ((s.core ↑c).address pk m)) 2 false = Reach.own pm off) ∧
    (∃ (s : State) (c : Fin 64) (pk : BitVec 3) (m : MemMode), s.Ready ↑c ∧ ((s.core ↑c).ptr pk.toNat).p = false ∧ s.reach (↑c) false (BitVec.toNat ((s.core ↑c).address pk m)) 2 false = Reach.remote) ∧
    (∃ (s : State) (c : Fin 64) (pk : BitVec 3) (m : MemMode) (pm : Bool) (off : Nat), s.Ready ↑c ∧ ((s.core ↑c).ptr pk.toNat).p = false ∧ s.reach (↑c) false (BitVec.toNat ((s.core ↑c).address pk m)) 4 false = Reach.own pm off) ∧
    (∃ (s : State) (c : Fin 64) (pk : BitVec 3) (m : MemMode), s.Ready ↑c ∧ ((s.core ↑c).ptr pk.toNat).p = false ∧ s.reach (↑c) false (BitVec.toNat ((s.core ↑c).address pk m)) 4 false = Reach.remote) :=
  ⟨⟨devP 0x10000000, 9, 0, .imm 0, false, 0, ready_of (by decide), by decide⟩,
   ⟨devM, 9, 0, .imm 0, ready_of (by decide), by decide⟩,
   ⟨devP 0x10000000, 9, 0, .imm 0, false, 0, ready_of (by decide), by decide⟩,
   ⟨devM, 9, 0, .imm 0, ready_of (by decide), by decide⟩,
   ⟨devP 0x10000000, 9, 0, .imm 0, false, 0, ready_of (by decide), by decide⟩,
   ⟨devM, 9, 0, .imm 0, ready_of (by decide), by decide⟩⟩

theorem test_witness_ScalarLoads_2 :
    (∃ (s : State) (c : Fin 64) (rd : BitVec 5) (pk : BitVec 3) (m : MemMode) (pm : Bool) (off : Nat), s.Ready ↑c ∧ ((s.core ↑c).ptr pk.toNat).p = false ∧ rd.toNat % 2 = 0 ∧ s.reach (↑c) false (BitVec.toNat ((s.core ↑c).address pk m)) 8 false = Reach.own pm off) ∧
    (∃ (s : State) (c : Fin 64) (rd : BitVec 5) (pk : BitVec 3) (m : MemMode), s.Ready ↑c ∧ ((s.core ↑c).ptr pk.toNat).p = false ∧ rd.toNat % 2 = 0 ∧ s.reach (↑c) false (BitVec.toNat ((s.core ↑c).address pk m)) 8 false = Reach.remote) :=
  ⟨⟨devP 0x10000000, 9, 30, 0, .imm 0, false, 0, ready_of (by decide), by decide⟩,
   ⟨devM, 9, 30, 0, .imm 0, ready_of (by decide), by decide⟩⟩

theorem test_witness_RefusedLoad :
    (∃ (s : State) (c : Fin 64) (pk : BitVec 3) (m : MemMode) (kind : Nat), s.Ready ↑c ∧ (∀ (w : Nat), s.memSyn (64 + ↑c) w = 0) ∧ ((s.core ↑c).ptr pk.toNat).p = false ∧ s.isLead ↑c = true ∧ (s.ridge (s.core ↑c).ridge).aeValid = false ∧ s.fcu.injArm = false ∧ s.reach (↑c) false (BitVec.toNat ((s.core ↑c).address pk m)) 1 false = Reach.refused kind) ∧
    (∃ (s : State) (c : Fin 64) (pk : BitVec 3) (m : MemMode) (kind : Nat), s.Ready ↑c ∧ (∀ (w : Nat), s.memSyn (64 + ↑c) w = 0) ∧ ((s.core ↑c).ptr pk.toNat).p = false ∧ s.isLead ↑c = true ∧ (s.ridge (s.core ↑c).ridge).aeValid = false ∧ s.fcu.injArm = false ∧ s.reach (↑c) false (BitVec.toNat ((s.core ↑c).address pk m)) 2 false = Reach.refused kind) ∧
    (∃ (s : State) (c : Fin 64) (pk : BitVec 3) (m : MemMode) (kind : Nat), s.Ready ↑c ∧ (∀ (w : Nat), s.memSyn (64 + ↑c) w = 0) ∧ ((s.core ↑c).ptr pk.toNat).p = false ∧ s.isLead ↑c = true ∧ (s.ridge (s.core ↑c).ridge).aeValid = false ∧ s.fcu.injArm = false ∧ s.reach (↑c) false (BitVec.toNat ((s.core ↑c).address pk m)) 4 false = Reach.refused kind) ∧
    (∃ (s : State) (c : Fin 64) (rd : BitVec 5) (pk : BitVec 3) (m : MemMode) (kind : Nat), s.Ready ↑c ∧ (∀ (w : Nat), s.memSyn (64 + ↑c) w = 0) ∧ ((s.core ↑c).ptr pk.toNat).p = false ∧ s.isLead ↑c = true ∧ (s.ridge (s.core ↑c).ridge).aeValid = false ∧ s.fcu.injArm = false ∧ rd.toNat % 2 = 0 ∧ s.reach (↑c) false (BitVec.toNat ((s.core ↑c).address pk m)) 8 false = Reach.refused kind) :=
  ⟨⟨devC fun x => { x with pf := [(0, TW.plain 0x08000000)] }, 9, 0, .imm 0, 0, ready_of (by decide), noSyn_of (by decide), by decide⟩,
   ⟨devC fun x => { x with pf := [(0, TW.plain 0x08000000)] }, 9, 0, .imm 0, 0, ready_of (by decide), noSyn_of (by decide), by decide⟩,
   ⟨devC fun x => { x with pf := [(0, TW.plain 0x08000000)] }, 9, 0, .imm 0, 0, ready_of (by decide), noSyn_of (by decide), by decide⟩,
   ⟨devC fun x => { x with pf := [(0, TW.plain 0x08000000)] }, 9, 30, 0, .imm 0, 0, ready_of (by decide), noSyn_of (by decide), by decide⟩⟩

theorem test_witness_ScalarStores :
    (∃ (s : State) (c : Fin 64) (rs : BitVec 5) (pk : BitVec 3) (m : MemMode) (pm : Bool) (off : Nat), s.Ready ↑c ∧ ((s.core ↑c).ptr pk.toNat).p = false ∧ s.reach (↑c) true (BitVec.toNat ((s.core ↑c).address pk m))     (List.map (fun b ↦ (b, ((s.core ↑c).g rs).p)) (bytesLE 1 (BitVec.toNat ((s.core ↑c).g rs).v))).length false =   Reach.own pm off) ∧
    (∃ (s : State) (c : Fin 64) (rs : BitVec 5) (pk : BitVec 3) (m : MemMode) (pm : Bool) (off : Nat), s.Ready ↑c ∧ ((s.core ↑c).ptr pk.toNat).p = false ∧ s.reach (↑c) true (BitVec.toNat ((s.core ↑c).address pk m))     (List.map (fun b ↦ (b, ((s.core ↑c).g rs).p)) (bytesLE 2 (BitVec.toNat ((s.core ↑c).g rs).v))).length false =   Reach.own pm off) ∧
    (∃ (s : State) (c : Fin 64) (rs : BitVec 5) (pk : BitVec 3) (m : MemMode) (pm : Bool) (off : Nat), s.Ready ↑c ∧ ((s.core ↑c).ptr pk.toNat).p = false ∧ s.reach (↑c) true (BitVec.toNat ((s.core ↑c).address pk m))     (List.map (fun b ↦ (b, ((s.core ↑c).g rs).p)) (bytesLE 4 (BitVec.toNat ((s.core ↑c).g rs).v))).length false =   Reach.own pm off) ∧
    (∃ (s : State) (c : Fin 64) (rs : BitVec 5) (pk : BitVec 3) (m : MemMode) (pm : Bool) (off : Nat), s.Ready ↑c ∧ ((s.core ↑c).ptr pk.toNat).p = false ∧ rs.toNat % 2 = 0 ∧ s.reach (↑c) true (BitVec.toNat ((s.core ↑c).address pk m))     (List.map (fun b ↦ (b, ((s.core ↑c).g rs).p)) (bytesLE 4 (BitVec.toNat ((s.core ↑c).g rs).v)) ++         List.map (fun b ↦ (b, ((s.core ↑c).g (rs + 1)).p)) (bytesLE 4 (BitVec.toNat ((s.core ↑c).g (rs + 1)).v))).length     false =   Reach.own pm off) ∧
    (∃ (s : State) (c : Fin 64) (rs : BitVec 5) (pk : BitVec 3) (m : MemMode) (pm : Bool) (off : Nat), s.Ready ↑c ∧ ((s.core ↑c).ptr pk.toNat).p = false ∧ s.reach (↑c) true (BitVec.toNat ((s.core ↑c).address pk m))     (List.map (fun b ↦ (b, ((s.core ↑c).g rs).p))         (bytesLE 2           (BitVec.ofInt 16 (max (-2 ^ 15) (min (2 ^ 15 - 1) (BitVec.toInt ((s.core ↑c).g rs).v)))).toNat)).length     false =   Reach.own pm off) ∧
    (∃ (s : State) (c : Fin 64) (rs : BitVec 5) (rt : BitVec 5) (pk : BitVec 3) (m : MemMode) (pm : Bool) (off : Nat), s.Ready ↑c ∧ ((s.core ↑c).ptr pk.toNat).p = false ∧ m.fitsScs = true ∧ s.reach (↑c) true (BitVec.toNat ((s.core ↑c).address pk m))     (List.map (fun b ↦ (b, ((s.core ↑c).g rs).p || ((s.core ↑c).g rt).p))         (bytesLE 4           ((BitVec.ofInt 16 (max (-2 ^ 15) (min (2 ^ 15 - 1) (BitVec.toInt ((s.core ↑c).g rs).v)))).toNat +             (BitVec.ofInt 16 (max (-2 ^ 15) (min (2 ^ 15 - 1) (BitVec.toInt ((s.core ↑c).g rt).v)))).toNat *               65536))).length     false =   Reach.own pm off) :=
  ⟨⟨devP 0x10000000, 9, 30, 0, .imm 0, false, 0, ready_of (by decide), by decide⟩,
   ⟨devP 0x10000000, 9, 30, 0, .imm 0, false, 0, ready_of (by decide), by decide⟩,
   ⟨devP 0x10000000, 9, 30, 0, .imm 0, false, 0, ready_of (by decide), by decide⟩,
   ⟨devP 0x10000000, 9, 30, 0, .imm 0, false, 0, ready_of (by decide), by decide⟩,
   ⟨devP 0x10000000, 9, 30, 0, .imm 0, false, 0, ready_of (by decide), by decide⟩,
   ⟨devP 0x10000000, 9, 30, 3, 0, .imm 60, false, 60, ready_of (by decide), by decide⟩⟩

theorem test_witness_ScalarStores_2 :
    (∃ (s : State) (c : Fin 64) (rs : BitVec 5) (pk : BitVec 3) (m : MemMode), s.Ready ↑c ∧ ((s.core ↑c).ptr pk.toNat).p = false ∧ s.reach (↑c) true (BitVec.toNat ((s.core ↑c).address pk m))     (List.map (fun b ↦ (b, ((s.core ↑c).g rs).p)) (bytesLE 1 (BitVec.toNat ((s.core ↑c).g rs).v))).length false =   Reach.remote) ∧
    (∃ (s : State) (c : Fin 64) (rs : BitVec 5) (pk : BitVec 3) (m : MemMode), s.Ready ↑c ∧ ((s.core ↑c).ptr pk.toNat).p = false ∧ s.reach (↑c) true (BitVec.toNat ((s.core ↑c).address pk m))     (List.map (fun b ↦ (b, ((s.core ↑c).g rs).p)) (bytesLE 2 (BitVec.toNat ((s.core ↑c).g rs).v))).length false =   Reach.remote) ∧
    (∃ (s : State) (c : Fin 64) (rs : BitVec 5) (pk : BitVec 3) (m : MemMode), s.Ready ↑c ∧ ((s.core ↑c).ptr pk.toNat).p = false ∧ s.reach (↑c) true (BitVec.toNat ((s.core ↑c).address pk m))     (List.map (fun b ↦ (b, ((s.core ↑c).g rs).p)) (bytesLE 4 (BitVec.toNat ((s.core ↑c).g rs).v))).length false =   Reach.remote) ∧
    (∃ (s : State) (c : Fin 64) (rs : BitVec 5) (pk : BitVec 3) (m : MemMode), s.Ready ↑c ∧ ((s.core ↑c).ptr pk.toNat).p = false ∧ rs.toNat % 2 = 0 ∧ s.reach (↑c) true (BitVec.toNat ((s.core ↑c).address pk m))     (List.map (fun b ↦ (b, ((s.core ↑c).g rs).p)) (bytesLE 4 (BitVec.toNat ((s.core ↑c).g rs).v)) ++         List.map (fun b ↦ (b, ((s.core ↑c).g (rs + 1)).p)) (bytesLE 4 (BitVec.toNat ((s.core ↑c).g (rs + 1)).v))).length     false =   Reach.remote) ∧
    (∃ (s : State) (c : Fin 64) (rs : BitVec 5) (pk : BitVec 3) (m : MemMode), s.Ready ↑c ∧ ((s.core ↑c).ptr pk.toNat).p = false ∧ s.reach (↑c) true (BitVec.toNat ((s.core ↑c).address pk m))     (List.map (fun b ↦ (b, ((s.core ↑c).g rs).p))         (bytesLE 2           (BitVec.ofInt 16 (max (-2 ^ 15) (min (2 ^ 15 - 1) (BitVec.toInt ((s.core ↑c).g rs).v)))).toNat)).length     false =   Reach.remote) ∧
    (∃ (s : State) (c : Fin 64) (rs : BitVec 5) (rt : BitVec 5) (pk : BitVec 3) (m : MemMode), s.Ready ↑c ∧ ((s.core ↑c).ptr pk.toNat).p = false ∧ m.fitsScs = true ∧ s.reach (↑c) true (BitVec.toNat ((s.core ↑c).address pk m))     (List.map (fun b ↦ (b, ((s.core ↑c).g rs).p || ((s.core ↑c).g rt).p))         (bytesLE 4           ((BitVec.ofInt 16 (max (-2 ^ 15) (min (2 ^ 15 - 1) (BitVec.toInt ((s.core ↑c).g rs).v)))).toNat +             (BitVec.ofInt 16 (max (-2 ^ 15) (min (2 ^ 15 - 1) (BitVec.toInt ((s.core ↑c).g rt).v)))).toNat *               65536))).length     false =   Reach.remote) :=
  ⟨⟨devM, 9, 30, 0, .imm 0, ready_of (by decide), by decide⟩,
   ⟨devM, 9, 30, 0, .imm 0, ready_of (by decide), by decide⟩,
   ⟨devM, 9, 30, 0, .imm 0, ready_of (by decide), by decide⟩,
   ⟨devM, 9, 30, 0, .imm 0, ready_of (by decide), by decide⟩,
   ⟨devM, 9, 30, 0, .imm 0, ready_of (by decide), by decide⟩,
   ⟨devM, 9, 30, 3, 0, .imm 0, ready_of (by decide), by decide⟩⟩

theorem test_witness_ScalarStores_3 :
    (∃ (s : State) (c : Fin 64) (m : MemMode), s.Ready ↑c ∧ m.updates = true) :=
  ⟨dev, 9, .postMod 0, ready_of (by decide), by decide⟩

theorem test_witness_PointerUpdates :
    (∃ (x : Core) (pk : BitVec 3), BitVec.toNat (x.ptr (16 + pk.toNat)).v + BitVec.toNat (x.ptr (24 + pk.toNat)).v < 2 ^ 32) ∧
    (∃ (x : Core) (pk : BitVec 3) (i : BitVec 3), (x.ptr (24 + pk.toNat)).v ≠ 0 ∧ BitVec.toNat (x.ptr (16 + pk.toNat)).v + BitVec.toNat (x.ptr (24 + pk.toNat)).v < 2 ^ 31 ∧ BitVec.toNat (x.ptr (16 + pk.toNat)).v ≤ BitVec.toNat (x.ptr pk.toNat).v ∧ BitVec.toNat (x.ptr pk.toNat).v < BitVec.toNat (x.ptr (16 + pk.toNat)).v + BitVec.toNat (x.ptr (24 + pk.toNat)).v ∧ (BitVec.toInt (x.ptr (8 + i.toNat)).v).natAbs ≤ BitVec.toNat (x.ptr (24 + pk.toNat)).v ∧ (BitVec.toInt (x.ptr (8 + i.toNat)).v).natAbs ≤ BitVec.toNat (x.ptr (16 + pk.toNat)).v) ∧
    (∃ (x : Core) (pk : BitVec 3) (o : BitVec 12), (x.ptr (24 + pk.toNat)).v ≠ 0 ∧ BitVec.toNat (x.ptr (16 + pk.toNat)).v + BitVec.toNat (x.ptr (24 + pk.toNat)).v < 2 ^ 31 ∧ BitVec.toNat (x.ptr (16 + pk.toNat)).v ≤ BitVec.toNat (x.ptr pk.toNat).v ∧ BitVec.toNat (x.ptr pk.toNat).v < BitVec.toNat (x.ptr (16 + pk.toNat)).v + BitVec.toNat (x.ptr (24 + pk.toNat)).v ∧ (BitVec.toInt (⟨BitVec.signExtend 32 o, false⟩ : TW).v).natAbs ≤ BitVec.toNat (x.ptr (24 + pk.toNat)).v ∧ (BitVec.toInt (⟨BitVec.signExtend 32 o, false⟩ : TW).v).natAbs ≤ BitVec.toNat (x.ptr (16 + pk.toNat)).v) :=
  ⟨⟨{ Core.reset with pf := [(0, TW.plain 0x1004), (16, TW.plain 0x1000), (24, TW.plain 8)] }, 0, by decide⟩,
   ⟨{ Core.reset with pf := [(0, TW.plain 0x1000), (8, TW.plain 0xFFFFFFF8), (16, TW.plain 0x1000), (24, TW.plain 8)] }, 0, 0, by decide⟩,
   ⟨{ Core.reset with pf := [(0, TW.plain 0x1007), (8, TW.plain 8), (16, TW.plain 0x1000), (24, TW.plain 8)] }, 0, 8, by decide⟩⟩

theorem test_witness_VectorElementOperations :
    (∃ (s : State) (c : Fin 64), s.Ready ↑c ∧ (s.core ↑c).vinv = false ∧ (s.core ↑c).vew ≠ 2) :=
  ⟨dev, 9, ready_of (by decide), by decide⟩

theorem test_witness_VectorOtherOperations :
    (∃ (s : State) (c : Fin 64) (vd : BitVec 5), s.Ready ↑c ∧ (s.core ↑c).vinv = false ∧ (s.core ↑c).vl ≤ 256 / (s.core ↑c).ew ∧ (s.core ↑c).vew ≠ 2 ∧ vd.toNat % 2 = 0) ∧
    (∃ (s : State) (c : Fin 64) (va : BitVec 5), s.Ready ↑c ∧ (s.core ↑c).vinv = false ∧ (s.core ↑c).vl ≤ 256 / (s.core ↑c).ew ∧ (s.core ↑c).vew ≠ 2 ∧ va.toNat % 2 = 0) :=
  ⟨⟨dev, 9, 2, ready_of (by decide), by decide⟩,
   ⟨dev, 9, 4, ready_of (by decide), by decide⟩⟩

theorem test_witness_VectorResultLands :
    (∃ (x : Core) (m : Bool) (i : Nat), x.vl ≤ 256 / x.ew ∧ x.maskPoison m = false ∧ i < 256 / x.ew ∧ (i < x.vl ∧ (m = true → (x.v 0).v.getLsbD i = true))) ∧
    (∃ (x : Core) (m : Bool) (i : Nat), x.vl ≤ 256 / x.ew ∧ x.maskPoison m = false ∧ i < 256 / x.ew ∧ ¬(i < x.vl ∧ (m = true → (x.v 0).v.getLsbD i = true))) ∧
    (∃ (x : Core) (m : Bool) (j : Nat), (∀ (i : Nat), x.ew * i / 32 = j → ¬(i < x.vl ∧ (m = true → (x.v 0).v.getLsbD i = true))) ∧ x.vl ≤ 256 / x.ew ∧ x.maskPoison m = false ∧ j < 8) ∧
    (∃ (x : Core) (m : Bool) (j : Nat), (∀ (i : Nat), x.ew * i / 32 = j → i < x.vl ∧ (m = true → (x.v 0).v.getLsbD i = true)) ∧ x.vl ≤ 256 / x.ew ∧ x.maskPoison m = false ∧ j < 8) ∧
    (∃ (x : Core) (vd : BitVec 5) (m : Bool) (k : BitVec 5), x.vl ≤ 256 / x.ew ∧ x.maskPoison m = false ∧ k ≠ vd) :=
  ⟨⟨(dev.core 9), false, 0, by decide⟩,
   ⟨(dev.core 9), false, 1, by decide⟩,
   ⟨(dev.core 9), false, 1, by
      intro i h hc
      obtain rfl : i = 0 := Nat.lt_one_iff.mp hc.1
      exact absurd h (by decide), by decide⟩,
   ⟨{ dev.core 9 with vl := 4 }, false, 0, by
      intro i h
      have h2 : 8 * i / 32 = 0 := h
      exact ⟨(by omega : i < 4), fun hm => absurd hm (by decide)⟩, by decide⟩,
   ⟨(dev.core 9), 1, false, 2, by decide⟩⟩

theorem test_witness_VectorMemoryOperations :
    (∃ (s : State) (c : Fin 64) (m : Bool) (pk : BitVec 3) (pm : Nat → Bool) (off : Nat → Nat), s.Ready ↑c ∧ (s.core ↑c).vinv = false ∧ (s.core ↑c).maskPoison m = false ∧ ((s.core ↑c).ptr pk.toNat).p = false ∧ (s.core ↑c).vl ≤ 256 / (s.core ↑c).ew ∧ (∀ k < (s.core ↑c).vl,   s.reach (↑c) false (BitVec.toNat (((s.core ↑c).ptr pk.toNat).v + BitVec.ofNat 32 (k * ((s.core ↑c).ew / 8))))       ((s.core ↑c).ew / 8) true =     Reach.own (pm k) (off k))) ∧
    (∃ (s : State) (c : Fin 64) (m : Bool) (pk : BitVec 3) (pm : Nat → Bool) (off : Nat → Nat), s.Ready ↑c ∧ (s.core ↑c).vinv = false ∧ (s.core ↑c).maskPoison m = false ∧ ((s.core ↑c).ptr pk.toNat).p = false ∧ (s.core ↑c).vl ≤ 256 / (s.core ↑c).ew ∧ (∀ k < (s.core ↑c).vl,   s.reach (↑c) true (BitVec.toNat (((s.core ↑c).ptr pk.toNat).v + BitVec.ofNat 32 (k * ((s.core ↑c).ew / 8))))       ((s.core ↑c).ew / 8) true =     Reach.own (pm k) (off k))) ∧
    (∃ (s : State) (c : Fin 64) (m : Bool) (pk : BitVec 3), s.Ready ↑c ∧ (s.core ↑c).vinv = false ∧ (s.core ↑c).maskPoison m = false ∧ ((s.core ↑c).ptr pk.toNat).p = false ∧ (s.core ↑c).vl ≤ 256 / (s.core ↑c).ew ∧ (∀ k < (s.core ↑c).vl,   s.reach (↑c) false (BitVec.toNat (((s.core ↑c).ptr pk.toNat).v + BitVec.ofNat 32 (k * ((s.core ↑c).ew / 8))))       ((s.core ↑c).ew / 8) true =     Reach.remote)) ∧
    (∃ (s : State) (c : Fin 64) (m : Bool) (pk : BitVec 3), s.Ready ↑c ∧ (s.core ↑c).vinv = false ∧ (s.core ↑c).maskPoison m = false ∧ ((s.core ↑c).ptr pk.toNat).p = false ∧ (s.core ↑c).vl ≤ 256 / (s.core ↑c).ew ∧ (∀ k < (s.core ↑c).vl,   s.reach (↑c) true (BitVec.toNat (((s.core ↑c).ptr pk.toNat).v + BitVec.ofNat 32 (k * ((s.core ↑c).ew / 8))))       ((s.core ↑c).ew / 8) true =     Reach.remote)) ∧
    (∃ (s : State) (c : Fin 64) (m : Bool) (gs : BitVec 5) (pk : BitVec 3) (pm : Nat → Bool) (off : Nat → Nat), s.Ready ↑c ∧ (s.core ↑c).vinv = false ∧ (s.core ↑c).maskPoison m = false ∧ ((s.core ↑c).ptr pk.toNat).p = false ∧ (s.core ↑c).vl ≤ 256 / (s.core ↑c).ew ∧ ((s.core ↑c).g gs).p = false ∧ (∀ k < (s.core ↑c).vl,   s.reach (↑c) false (BitVec.toNat (((s.core ↑c).ptr pk.toNat).v + BitVec.ofNat 32 k * ((s.core ↑c).g gs).v))       ((s.core ↑c).ew / 8) true =     Reach.own (pm k) (off k))) ∧
    (∃ (s : State) (c : Fin 64) (m : Bool) (gs : BitVec 5) (pk : BitVec 3) (pm : Nat → Bool) (off : Nat → Nat), s.Ready ↑c ∧ (s.core ↑c).vinv = false ∧ (s.core ↑c).maskPoison m = false ∧ ((s.core ↑c).ptr pk.toNat).p = false ∧ (s.core ↑c).vl ≤ 256 / (s.core ↑c).ew ∧ ((s.core ↑c).g gs).p = false ∧ (∀ k < (s.core ↑c).vl,   s.reach (↑c) true (BitVec.toNat (((s.core ↑c).ptr pk.toNat).v + BitVec.ofNat 32 k * ((s.core ↑c).g gs).v))       ((s.core ↑c).ew / 8) true =     Reach.own (pm k) (off k))) :=
  ⟨⟨devP 0x10000000, 9, false, 0, fun _ => false, fun _ => 0, ready_of (by decide), by decide⟩,
   ⟨devP 0x10000000, 9, false, 0, fun _ => false, fun _ => 0, ready_of (by decide), by decide⟩,
   ⟨devM, 9, false, 0, ready_of (by decide), by decide⟩,
   ⟨devM, 9, false, 0, ready_of (by decide), by decide⟩,
   ⟨devP 0x10000000, 9, false, 2, 0, fun _ => false, fun _ => 0, ready_of (by decide), by decide⟩,
   ⟨devP 0x10000000, 9, false, 2, 0, fun _ => false, fun _ => 0, ready_of (by decide), by decide⟩⟩

theorem test_witness_VectorMemoryOperations_2 :
    (∃ (s : State) (c : Fin 64) (e : Bool) (m : Bool) (gs : BitVec 5) (pk : BitVec 3), s.Ready ↑c ∧ (s.core ↑c).vinv = false ∧ (s.core ↑c).maskPoison m = false ∧ ((s.core ↑c).ptr pk.toNat).p = false ∧ (s.core ↑c).vl ≤ 256 / (s.core ↑c).ew ∧ ((s.core ↑c).g gs).p = false ∧ e = true ∧ (s.ridge (s.core ↑c).ridge).kind ≠ 1 ∧ (s.core ↑c).eSent = false ∧ (decide ((s.core ↑c).vstart ≤ (s.core ↑c).vstart ∧ (s.core ↑c).vstart < (s.core ↑c).vl) &&     (!m || ((s.core ↑c).v 0).v.getLsbD (s.core ↑c).vstart)) =   true ∧ (∀ k < (s.core ↑c).vl,   s.reach (↑c) false (BitVec.toNat (((s.core ↑c).ptr pk.toNat).v + BitVec.ofNat 32 k * ((s.core ↑c).g gs).v))       ((s.core ↑c).ew / 8) true =     Reach.remote)) ∧
    (∃ (s : State) (c : Fin 64) (e : Bool) (m : Bool) (gs : BitVec 5) (pk : BitVec 3), s.Ready ↑c ∧ (∀ (w : Nat), s.memSyn (64 + ↑c) w = 0) ∧ (s.core ↑c).vinv = false ∧ (s.core ↑c).maskPoison m = false ∧ ((s.core ↑c).ptr pk.toNat).p = false ∧ (s.core ↑c).vl ≤ 256 / (s.core ↑c).ew ∧ ((s.core ↑c).g gs).p = false ∧ e = true ∧ (s.ridge (s.core ↑c).ridge).kind ≠ 1 ∧ s.fcu.injArm = false ∧ (∀ k < (s.core ↑c).vl,   s.reach (↑c) true (BitVec.toNat (((s.core ↑c).ptr pk.toNat).v + BitVec.ofNat 32 k * ((s.core ↑c).g gs).v))       ((s.core ↑c).ew / 8) true =     Reach.remote)) ∧
    (∃ (s : State) (c : Fin 64) (m : Bool) (vx : BitVec 5) (pk : BitVec 3) (pm : Nat → Bool) (off : Nat → Nat), s.Ready ↑c ∧ (s.core ↑c).vinv = false ∧ (s.core ↑c).maskPoison m = false ∧ ((s.core ↑c).ptr pk.toNat).p = false ∧ (s.core ↑c).vl ≤ 256 / (s.core ↑c).ew ∧ ((s.core ↑c).v vx).t = 0 ∧ (∀ k < (s.core ↑c).vl,   s.reach (↑c) false       (BitVec.toNat (((s.core ↑c).ptr pk.toNat).v + BitVec.ofNat 32 (elemN ((s.core ↑c).v vx).v (s.core ↑c).ew k)))       ((s.core ↑c).ew / 8) true =     Reach.own (pm k) (off k))) ∧
    (∃ (s : State) (c : Fin 64) (m : Bool) (vx : BitVec 5) (pk : BitVec 3) (pm : Nat → Bool) (off : Nat → Nat), s.Ready ↑c ∧ (s.core ↑c).vinv = false ∧ (s.core ↑c).maskPoison m = false ∧ ((s.core ↑c).ptr pk.toNat).p = false ∧ (s.core ↑c).vl ≤ 256 / (s.core ↑c).ew ∧ ((s.core ↑c).v vx).t = 0 ∧ (∀ k < (s.core ↑c).vl,   s.reach (↑c) true       (BitVec.toNat (((s.core ↑c).ptr pk.toNat).v + BitVec.ofNat 32 (elemN ((s.core ↑c).v vx).v (s.core ↑c).ew k)))       ((s.core ↑c).ew / 8) true =     Reach.own (pm k) (off k))) ∧
    (∃ (s : State) (c : Fin 64) (e : Bool) (m : Bool) (vx : BitVec 5) (pk : BitVec 3), s.Ready ↑c ∧ (s.core ↑c).vinv = false ∧ (s.core ↑c).maskPoison m = false ∧ ((s.core ↑c).ptr pk.toNat).p = false ∧ (s.core ↑c).vl ≤ 256 / (s.core ↑c).ew ∧ ((s.core ↑c).v vx).t = 0 ∧ e = true ∧ (s.ridge (s.core ↑c).ridge).kind ≠ 1 ∧ (s.core ↑c).eSent = false ∧ (decide ((s.core ↑c).vstart ≤ (s.core ↑c).vstart ∧ (s.core ↑c).vstart < (s.core ↑c).vl) &&     (!m || ((s.core ↑c).v 0).v.getLsbD (s.core ↑c).vstart)) =   true ∧ (∀ k < (s.core ↑c).vl,   s.reach (↑c) false       (BitVec.toNat (((s.core ↑c).ptr pk.toNat).v + BitVec.ofNat 32 (elemN ((s.core ↑c).v vx).v (s.core ↑c).ew k)))       ((s.core ↑c).ew / 8) true =     Reach.remote)) ∧
    (∃ (s : State) (c : Fin 64) (e : Bool) (m : Bool) (vx : BitVec 5) (pk : BitVec 3), s.Ready ↑c ∧ (∀ (w : Nat), s.memSyn (64 + ↑c) w = 0) ∧ (s.core ↑c).vinv = false ∧ (s.core ↑c).maskPoison m = false ∧ ((s.core ↑c).ptr pk.toNat).p = false ∧ (s.core ↑c).vl ≤ 256 / (s.core ↑c).ew ∧ ((s.core ↑c).v vx).t = 0 ∧ e = true ∧ (s.ridge (s.core ↑c).ridge).kind ≠ 1 ∧ s.fcu.injArm = false ∧ (∀ k < (s.core ↑c).vl,   s.reach (↑c) true       (BitVec.toNat (((s.core ↑c).ptr pk.toNat).v + BitVec.ofNat 32 (elemN ((s.core ↑c).v vx).v (s.core ↑c).ew k)))       ((s.core ↑c).ew / 8) true =     Reach.remote)) :=
  ⟨⟨devMT, 9, true, false, 2, 0, ready_of (by decide), by decide⟩,
   ⟨devMT, 9, true, false, 2, 0, ready_of (by decide), noSyn_of (by decide), by decide⟩,
   ⟨devP 0x10000000, 9, false, 4, 0, fun _ => false, fun _ => 0, ready_of (by decide), by decide⟩,
   ⟨devP 0x10000000, 9, false, 4, 0, fun _ => false, fun _ => 0, ready_of (by decide), by decide⟩,
   ⟨devMT, 9, true, false, 4, 0, ready_of (by decide), by decide⟩,
   ⟨devMT, 9, true, false, 4, 0, ready_of (by decide), noSyn_of (by decide), by decide⟩⟩

theorem test_witness_FloatingPoint :
    (∃ (s : State) (c : Fin 64), s.Ready ↑c) :=
  ⟨dev, 9, ready_of (by decide)⟩

theorem test_witness_FloatRounding :
    (∃ (m : Int) (ex : Int), m ≠ 0 ∧ m.natAbs ≤ 2 ^ 24 ∧ -126 ≤ ex + ↑m.natAbs.log2 ∧ ex + ↑m.natAbs.log2 ≤ 127) ∧
    (∃ (m : Int) (ex : Int), 2 ^ 24 ≤ m.natAbs ∧ -126 ≤ ex + ↑m.natAbs.log2 ∧ ex + ↑m.natAbs.log2 ≤ 127) ∧
    (∃ (m : Int) (ex : Int), m ≠ 0 ∧ 128 ≤ ex + ↑m.natAbs.log2) ∧
    (∃ (m : Int) (ex : Int), m ≠ 0 ∧ ex + ↑m.natAbs.log2 < -126) :=
  ⟨⟨-1, -126, by decide⟩,
   ⟨0x1FFFFFF, -150, by decide⟩,
   ⟨1, 128, by decide⟩,
   ⟨1, -127, by decide⟩⟩

theorem test_witness_BundleOfOneOperation :
    (∃ (s : State) (c : Fin 64) (o : OpEff) (k : Nat), s.Ready ↑c ∧ (∀ (w : Nat), s.memSyn (64 + ↑c) w = 0) ∧ s.fcu.injArm = false ∧ o.reads = [] ∧ o.elems = [] ∧ o.link = false ∧ o.reti = false ∧ o.parts = [] ∧ o.stores = [] ∧ (s.ridge (s.core ↑c).ridge).kind ≠ 1 ∧ k ≠ ↑c) ∧
    (∃ (s : State) (c : Fin 64) (o : OpEff) (k : Nat), s.Ready ↑c ∧ (∀ (w : Nat), s.memSyn (64 + ↑c) w = 0) ∧ s.fcu.injArm = false ∧ o.reads = [] ∧ o.elems = [] ∧ o.link = false ∧ o.reti = false ∧ o.parts = [] ∧ o.stores = [] ∧ (s.ridge (s.core ↑c).ridge).kind = 1 ∧ (∀ q ∈ o.reqs, q.write = true) ∧ (s.ridge (s.core ↑c).ridge).loads = [] ∧ k ≠ ↑c) ∧
    (∃ (s : State) (c : Fin 64) (o : OpEff) (r : Nat), s.Ready ↑c ∧ (∀ (w : Nat), s.memSyn (64 + ↑c) w = 0) ∧ s.fcu.injArm = false ∧ o.reads = [] ∧ o.elems = [] ∧ o.link = false ∧ o.reti = false ∧ o.parts = [] ∧ o.stores = [] ∧ (s.ridge (s.core ↑c).ridge).kind = 1 ∧ (∀ q ∈ o.reqs, q.write = true) ∧ (s.ridge (s.core ↑c).ridge).loads = [] ∧ r ≠ (s.core ↑c).ridge) ∧
    (∃ (s : State) (c : Fin 64) (o : OpEff) (pm : Bool) (off : Nat) (data : List PByte) (narrow : Bool) (a : Nat), s.Ready ↑c ∧ (∀ (w : Nat), s.memSyn (64 + ↑c) w = 0) ∧ s.Clean (ownMem (↑c) pm) ∧ s.fcu.injArm = false ∧ o.reads = [] ∧ o.elems = [] ∧ o.link = false ∧ o.reti = false ∧ o.parts = [] ∧ o.stores = [{ pm := pm, off := off, data := data, narrow := narrow }] ∧ o.reqs = [] ∧ s.streamTo ↑c = [] ∧ (s.core ↑c).evicted = none ∧ (List.map (fun x ↦ x.word) (s.core ↑c).merge).Nodup ∧ (s.core ↑c).MergeOk ∧ off + data.length ≤ (if pm = true then 98304 else 131072) ∧ a < (if pm = true then 98304 else 131072)) ∧
    (∃ (s : State) (c : Fin 64) (o : OpEff) (pm : Bool) (off : Nat) (data : List PByte) (narrow : Bool) (mem : Nat) (a : Nat), s.Ready ↑c ∧ (∀ (w : Nat), s.memSyn (64 + ↑c) w = 0) ∧ s.Clean (ownMem (↑c) pm) ∧ s.fcu.injArm = false ∧ o.reads = [] ∧ o.elems = [] ∧ o.link = false ∧ o.reti = false ∧ o.parts = [] ∧ o.stores = [{ pm := pm, off := off, data := data, narrow := narrow }] ∧ o.reqs = [] ∧ s.streamTo ↑c = [] ∧ (s.core ↑c).evicted = none ∧ (List.map (fun x ↦ x.word) (s.core ↑c).merge).Nodup ∧ (s.core ↑c).MergeOk ∧ off + data.length ≤ (if pm = true then 98304 else 131072) ∧ mem ≠ ownMem (↑c) pm ∧ mem < 256 ∧ a < 2 ^ 23) ∧
    (∃ (s : State) (c : Fin 64) (o : OpEff) (pm : Bool) (off : Nat) (data : List PByte) (narrow : Bool), s.Ready ↑c ∧ (∀ (w : Nat), s.memSyn (64 + ↑c) w = 0) ∧ s.Clean (ownMem (↑c) pm) ∧ s.fcu.injArm = false ∧ o.reads = [] ∧ o.elems = [] ∧ o.link = false ∧ o.reti = false ∧ o.parts = [] ∧ o.stores = [{ pm := pm, off := off, data := data, narrow := narrow }] ∧ o.reqs = [] ∧ s.streamTo ↑c = [] ∧ (s.core ↑c).evicted = none ∧ (List.map (fun x ↦ x.word) (s.core ↑c).merge).Nodup ∧ (s.core ↑c).MergeOk ∧ off + data.length ≤ (if pm = true then 98304 else 131072) ∧ pm = true) :=
  ⟨⟨triad, 9, OpEff.nil, 8, ready_of (by decide), noSyn_of (by decide), by decide⟩,
   ⟨dev, 9, OpEff.nil, 8, ready_of (by decide), noSyn_of (by decide), by decide⟩,
   ⟨dev, 9, OpEff.nil, 4, ready_of (by decide), noSyn_of (by decide), by decide⟩,
   ⟨dev, 9, { OpEff.nil with stores := [{ pm := false, off := 131071, data := [(1, false)], narrow := true }] }, false, 131071, [(1, false)], true, 131071, ready_of (by decide), noSyn_of (by decide), clean_of (by decide), by decide⟩,
   ⟨dev, 9, { OpEff.nil with stores := [{ pm := false, off := 131068, data := [(1, false), (2, false), (3, false), (4, false)], narrow := false }] }, false, 131068, [(1, false), (2, false), (3, false), (4, false)], false, 73, 8388607, ready_of (by decide), noSyn_of (by decide), clean_of (by decide), by decide⟩,
   ⟨dev, 9, { OpEff.nil with stores := [{ pm := true, off := 98300, data := [(1, false), (2, false), (3, false), (4, false)], narrow := false }] }, true, 98300, [(1, false), (2, false), (3, false), (4, false)], false, ready_of (by decide), noSyn_of (by decide), clean_of (by decide), by decide⟩⟩

theorem test_witness_BundleOfOneOperation_2 :
    (∃ (s : State) (c : Fin 64) (o : OpEff) (pm : Bool) (off : Nat) (data : List PByte) (narrow : Bool), s.Ready ↑c ∧ (∀ (w : Nat), s.memSyn (64 + ↑c) w = 0) ∧ s.Clean (ownMem (↑c) pm) ∧ s.fcu.injArm = false ∧ o.reads = [] ∧ o.elems = [] ∧ o.link = false ∧ o.reti = false ∧ o.parts = [] ∧ o.stores = [{ pm := pm, off := off, data := data, narrow := narrow }] ∧ o.reqs = [] ∧ s.streamTo ↑c = [] ∧ (s.core ↑c).evicted = none ∧ (List.map (fun x ↦ x.word) (s.core ↑c).merge).Nodup ∧ (s.core ↑c).MergeOk ∧ off + data.length ≤ (if pm = true then 98304 else 131072) ∧ pm = false ∧ narrow = true ∧ 0 < data.length ∧ off % 4 + data.length < 4 ∧ (s.core ↑c).merge.length < 2 ∧ (∀ m ∈ (s.core ↑c).merge, m.word ≠ off / 4)) ∧
    (∃ (s : State) (c : Fin 64) (o : OpEff) (pm : Bool) (off : Nat) (data : List PByte) (narrow : Bool) (k : Nat), s.Ready ↑c ∧ (∀ (w : Nat), s.memSyn (64 + ↑c) w = 0) ∧ s.Clean (ownMem (↑c) pm) ∧ s.fcu.injArm = false ∧ o.reads = [] ∧ o.elems = [] ∧ o.link = false ∧ o.reti = false ∧ o.parts = [] ∧ o.stores = [{ pm := pm, off := off, data := data, narrow := narrow }] ∧ o.reqs = [] ∧ s.streamTo ↑c = [] ∧ (s.core ↑c).evicted = none ∧ (List.map (fun x ↦ x.word) (s.core ↑c).merge).Nodup ∧ (s.core ↑c).MergeOk ∧ off + data.length ≤ (if pm = true then 98304 else 131072) ∧ k ≠ ↑c) ∧
    (∃ (s : State) (c : Fin 64) (o : OpEff) (pm : Bool) (off : Nat) (data : List PByte) (narrow : Bool), s.Ready ↑c ∧ (∀ (w : Nat), s.memSyn (64 + ↑c) w = 0) ∧ s.Clean (ownMem (↑c) pm) ∧ s.fcu.injArm = false ∧ o.reads = [] ∧ o.elems = [] ∧ o.link = false ∧ o.reti = false ∧ o.parts = [] ∧ o.stores = [{ pm := pm, off := off, data := data, narrow := narrow }] ∧ o.reqs = [] ∧ s.streamTo ↑c = [] ∧ (s.core ↑c).evicted = none ∧ (List.map (fun x ↦ x.word) (s.core ↑c).merge).Nodup ∧ (s.core ↑c).MergeOk ∧ off + data.length ≤ (if pm = true then 98304 else 131072) ∧ (s.ridge (s.core ↑c).ridge).kind ≠ 1) :=
  ⟨⟨dev, 9, { OpEff.nil with stores := [{ pm := false, off := 4, data := [(1, false), (2, false)], narrow := true }] }, false, 4, [(1, false), (2, false)], true, ready_of (by decide), noSyn_of (by decide), clean_of (by decide), by decide⟩,
   ⟨dev, 9, { OpEff.nil with stores := [{ pm := false, off := 4, data := [(1, false)], narrow := true }] }, false, 4, [(1, false)], true, 8, ready_of (by decide), noSyn_of (by decide), clean_of (by decide), by decide⟩,
   ⟨triad, 9, { OpEff.nil with stores := [{ pm := false, off := 4, data := [(1, false)], narrow := true }] }, false, 4, [(1, false)], true, ready_of (by decide), noSyn_of (by decide), clean_of (by decide), by decide⟩⟩

theorem test_witness_OperationTraps :
    (∃ (s : State) (c : Fin 64) (rd : BitVec 5), s.Ready ↑c ∧ rd.toNat % 2 = 1) ∧
    (∃ (s : State) (c : Fin 64) (n : Byte), s.Ready ↑c ∧ cregListed (n.toNat) = false) ∧
    (∃ (s : State) (c : Fin 64), s.Ready ↑c ∧ (s.core ↑c).vinv = true) ∧
    (∃ (s : State) (c : Fin 64), s.Ready ↑c ∧ (s.core ↑c).vinv = true) ∧
    (∃ (s : State) (c : Fin 64), s.Ready ↑c ∧ (s.core ↑c).vinv = true) ∧
    (∃ (s : State) (c : Fin 64), s.Ready ↑c ∧ ((s.core ↑c).vinv = true ∨ (s.core ↑c).vew = 2)) :=
  ⟨⟨dev, 9, 31, ready_of (by decide), by decide⟩,
   ⟨dev, 9, 37, ready_of (by decide), by decide⟩,
   ⟨devC fun x => { x with vinv := true }, 9, ready_of (by decide), by decide⟩,
   ⟨devC fun x => { x with vinv := true }, 9, ready_of (by decide), by decide⟩,
   ⟨devC fun x => { x with vinv := true }, 9, ready_of (by decide), by decide⟩,
   ⟨devC fun x => { x with vew := 2 }, 9, ready_of (by decide), by decide⟩⟩

theorem test_witness_OperationTraps_2 :
    (∃ (s : State) (c : Fin 64) (ra : BitVec 5) (rb : BitVec 5) (rel : BitVec 13) (b : Bool), s.Ready ↑c ∧ targetOk ((s.core ↑c).pc + BitVec.signExtend 32 rel <<< 2) = true ∧ (((s.core ↑c).g ra).p = true ∨   (if b = true then (⟨if true = true then BitVec.signExtend 32 rb else BitVec.setWidth 32 rb, false⟩ : TW)       else (s.core ↑c).g rb).p =     true)) ∧
    (∃ (s : State) (c : Fin 64) (ra : BitVec 5) (rb : BitVec 5) (rel : BitVec 13) (b : Bool), s.Ready ↑c ∧ targetOk ((s.core ↑c).pc + BitVec.signExtend 32 rel <<< 2) = false ∧ ((s.core ↑c).g ra).v =   (if b = true then (⟨if true = true then BitVec.signExtend 32 rb else BitVec.setWidth 32 rb, false⟩ : TW)     else (s.core ↑c).g rb).v) ∧
    (∃ (s : State) (c : Fin 64) (ra : BitVec 5) (rb : BitVec 5) (rel : BitVec 13) (b : Bool), s.Ready ↑c ∧ targetOk ((s.core ↑c).pc + BitVec.signExtend 32 rel <<< 2) = false ∧ ((s.core ↑c).g ra).v ≠   (if b = true then (⟨if true = true then BitVec.signExtend 32 rb else BitVec.setWidth 32 rb, false⟩ : TW)     else (s.core ↑c).g rb).v) ∧
    (∃ (s : State) (c : Fin 64) (ra : BitVec 5) (rb : BitVec 5) (rel : BitVec 13) (b : Bool), s.Ready ↑c ∧ targetOk ((s.core ↑c).pc + BitVec.signExtend 32 rel <<< 2) = false ∧ BitVec.toInt ((s.core ↑c).g ra).v <   BitVec.toInt     (if b = true then (⟨if true = true then BitVec.signExtend 32 rb else BitVec.setWidth 32 rb, false⟩ : TW)       else (s.core ↑c).g rb).v) ∧
    (∃ (s : State) (c : Fin 64) (ra : BitVec 5) (rb : BitVec 5) (rel : BitVec 13) (b : Bool), s.Ready ↑c ∧ targetOk ((s.core ↑c).pc + BitVec.signExtend 32 rel <<< 2) = false ∧ BitVec.toInt     (if b = true then (⟨if true = true then BitVec.signExtend 32 rb else BitVec.setWidth 32 rb, false⟩ : TW)       else (s.core ↑c).g rb).v ≤   BitVec.toInt ((s.core ↑c).g ra).v) ∧
    (∃ (s : State) (c : Fin 64) (ra : BitVec 5) (rb : BitVec 5) (rel : BitVec 13) (b : Bool), s.Ready ↑c ∧ targetOk ((s.core ↑c).pc + BitVec.signExtend 32 rel <<< 2) = false ∧ BitVec.toNat ((s.core ↑c).g ra).v <   BitVec.toNat     (if b = true then (⟨if false = true then BitVec.signExtend 32 rb else BitVec.setWidth 32 rb, false⟩ : TW)       else (s.core ↑c).g rb).v) :=
  ⟨⟨devC fun x => { x with gr := [(2, ⟨0, true⟩)] }, 9, 2, 3, 0, false, ready_of (by decide), by decide⟩,
   ⟨dev, 9, 2, 0, 7167, true, ready_of (by decide), by decide⟩,
   ⟨dev, 9, 2, 1, 7167, true, ready_of (by decide), by decide⟩,
   ⟨dev, 9, 2, 1, 7167, true, ready_of (by decide), by decide⟩,
   ⟨dev, 9, 2, 0, 7167, true, ready_of (by decide), by decide⟩,
   ⟨dev, 9, 2, 31, 7167, true, ready_of (by decide), by decide⟩⟩

theorem test_witness_OperationTraps_3 :
    (∃ (s : State) (c : Fin 64) (ra : BitVec 5) (rb : BitVec 5) (rel : BitVec 13) (b : Bool), s.Ready ↑c ∧ targetOk ((s.core ↑c).pc + BitVec.signExtend 32 rel <<< 2) = false ∧ BitVec.toNat     (if b = true then (⟨if false = true then BitVec.signExtend 32 rb else BitVec.setWidth 32 rb, false⟩ : TW)       else (s.core ↑c).g rb).v ≤   BitVec.toNat ((s.core ↑c).g ra).v) ∧
    (∃ (s : State) (c : Fin 64) (ra : BitVec 5), s.Ready ↑c ∧ ((s.core ↑c).g ra).p = true ∧ targetOk ((s.core ↑c).g ra).v = true) ∧
    (∃ (s : State) (c : Fin 64) (ra : BitVec 5), s.Ready ↑c ∧ targetOk ((s.core ↑c).g ra).v = false) ∧
    (∃ (s : State) (c : Fin 64) (off : BitVec 25), s.Ready ↑c ∧ targetOk ((s.core ↑c).pc + BitVec.signExtend 32 off <<< 2) = false) ∧
    (∃ (s : State) (c : Fin 64), s.Ready ↑c ∧ targetOk (s.core ↑c).epc = false) ∧
    (∃ (s : State) (c : Fin 64), s.Ready ↑c ∧ targetOk (s.core ↑c).epc = true ∧ BitVec.getLsbD (s.core ↑c).epsw 10 = true ∧ targetOk (s.core ↑c).etgt = false) :=
  ⟨⟨dev, 9, 2, 0, 7167, true, ready_of (by decide), by decide⟩,
   ⟨devC fun x => { x with gr := [(2, ⟨0, true⟩)] }, 9, 2, ready_of (by decide), by decide⟩,
   ⟨devC fun x => { x with gr := [(2, TW.plain 0x18000)] }, 9, 2, ready_of (by decide), by decide⟩,
   ⟨dev, 9, 23552, ready_of (by decide), by decide⟩,
   ⟨devC fun x => { x with epc := 0x18000 }, 9, ready_of (by decide), by decide⟩,
   ⟨devC fun x => { x with epsw := 0x400, etgt := 0x18000 }, 9, ready_of (by decide), by decide⟩⟩

theorem test_witness_OperationTraps_4 :
    (∃ (s : State) (c : Fin 64) (rd : BitVec 5) (pk : BitVec 3), s.Ready ↑c ∧ ((s.core ↑c).ptr pk.toNat).p = true ∧ rd.toNat % 2 = 0) ∧
    (∃ (s : State) (c : Fin 64) (pk : BitVec 3) (b : Bool), s.Ready ↑c ∧ (∀ (w : Nat), s.memSyn (64 + ↑c) w = 0) ∧ (∀ (k : Nat), s.reach (↑c) false (BitVec.toNat ((s.core ↑c).ptr pk.toNat).v) ((s.core ↑c).ew / 8) true ≠ Reach.refused k) ∧ (s.core ↑c).vinv = false ∧ s.fcu.injArm = false ∧ BitVec.toNat ((s.core ↑c).landAll (s.core ↑c).due).ivb + 4 * 134 + 4 ≤ 98304 ∧ BitVec.toNat     (wordOfBytes (s.ownRead (↑c) true (BitVec.toNat ((s.core ↑c).landAll (s.core ↑c).due).ivb + 4 * 134) 4).1).1 <   98304 ∧ BitVec.toNat       (wordOfBytes (s.ownRead (↑c) true (BitVec.toNat ((s.core ↑c).landAll (s.core ↑c).due).ivb + 4 * 134) 4).1).1 %     4 =   0 ∧ (((s.core ↑c).ptr pk.toNat).p = true ∨ b = true ∧ BitVec.getLsbD ((s.core ↑c).v 0).t 0 = true)) ∧
    (∃ (s : State) (c : Fin 64) (pk : BitVec 3) (b : Bool), s.Ready ↑c ∧ (∀ (w : Nat), s.memSyn (64 + ↑c) w = 0) ∧ (∀ (k : Nat), s.reach (↑c) true (BitVec.toNat ((s.core ↑c).ptr pk.toNat).v) ((s.core ↑c).ew / 8) true ≠ Reach.refused k) ∧ (s.core ↑c).vinv = false ∧ s.fcu.injArm = false ∧ BitVec.toNat ((s.core ↑c).landAll (s.core ↑c).due).ivb + 4 * 134 + 4 ≤ 98304 ∧ BitVec.toNat     (wordOfBytes (s.ownRead (↑c) true (BitVec.toNat ((s.core ↑c).landAll (s.core ↑c).due).ivb + 4 * 134) 4).1).1 <   98304 ∧ BitVec.toNat       (wordOfBytes (s.ownRead (↑c) true (BitVec.toNat ((s.core ↑c).landAll (s.core ↑c).due).ivb + 4 * 134) 4).1).1 %     4 =   0 ∧ (((s.core ↑c).ptr pk.toNat).p = true ∨ b = true ∧ BitVec.getLsbD ((s.core ↑c).v 0).t 0 = true)) ∧
    (∃ (s : State) (c : Fin 64) (ra : BitVec 5) (pk : BitVec 3) (b : Bool), s.Ready ↑c ∧ (∀ (w : Nat), s.memSyn (64 + ↑c) w = 0) ∧ (∀ (k : Nat),   s.reach (↑c) false       (BitVec.toNat (((s.core ↑c).ptr pk.toNat).v + BitVec.ofNat 32 (s.core ↑c).vstart * ((s.core ↑c).g ra).v))       ((s.core ↑c).ew / 8) true ≠     Reach.refused k) ∧ (s.core ↑c).vinv = false ∧ s.fcu.injArm = false ∧ BitVec.toNat ((s.core ↑c).landAll (s.core ↑c).due).ivb + 4 * 134 + 4 ≤ 98304 ∧ BitVec.toNat     (wordOfBytes (s.ownRead (↑c) true (BitVec.toNat ((s.core ↑c).landAll (s.core ↑c).due).ivb + 4 * 134) 4).1).1 <   98304 ∧ BitVec.toNat       (wordOfBytes (s.ownRead (↑c) true (BitVec.toNat ((s.core ↑c).landAll (s.core ↑c).due).ivb + 4 * 134) 4).1).1 %     4 =   0 ∧ (((s.core ↑c).ptr pk.toNat).p = true ∨   ((s.core ↑c).g ra).p = true ∨ b = true ∧ BitVec.getLsbD ((s.core ↑c).v 0).t 0 = true)) ∧
    (∃ (s : State) (c : Fin 64) (ra : BitVec 5) (pk : BitVec 3) (b : Bool), s.Ready ↑c ∧ (∀ (w : Nat), s.memSyn (64 + ↑c) w = 0) ∧ (∀ (k : Nat),   s.reach (↑c) true       (BitVec.toNat (((s.core ↑c).ptr pk.toNat).v + BitVec.ofNat 32 (s.core ↑c).vstart * ((s.core ↑c).g ra).v))       ((s.core ↑c).ew / 8) true ≠     Reach.refused k) ∧ (s.core ↑c).vinv = false ∧ s.fcu.injArm = false ∧ BitVec.toNat ((s.core ↑c).landAll (s.core ↑c).due).ivb + 4 * 134 + 4 ≤ 98304 ∧ BitVec.toNat     (wordOfBytes (s.ownRead (↑c) true (BitVec.toNat ((s.core ↑c).landAll (s.core ↑c).due).ivb + 4 * 134) 4).1).1 <   98304 ∧ BitVec.toNat       (wordOfBytes (s.ownRead (↑c) true (BitVec.toNat ((s.core ↑c).landAll (s.core ↑c).due).ivb + 4 * 134) 4).1).1 %     4 =   0 ∧ (((s.core ↑c).ptr pk.toNat).p = true ∨   ((s.core ↑c).g ra).p = true ∨ b = true ∧ BitVec.getLsbD ((s.core ↑c).v 0).t 0 = true)) ∧
    (∃ (s : State) (c : Fin 64) (ra : BitVec 5) (pk : BitVec 3) (b : Bool), s.Ready ↑c ∧ (∀ (w : Nat), s.memSyn (64 + ↑c) w = 0) ∧ (∀ (k : Nat),   s.reach (↑c) false       (BitVec.toNat         (((s.core ↑c).ptr pk.toNat).v + BitVec.ofNat 32 (elemN ((s.core ↑c).v ra).v (s.core ↑c).ew (s.core ↑c).vstart)))       ((s.core ↑c).ew / 8) true ≠     Reach.refused k) ∧ (s.core ↑c).vinv = false ∧ s.fcu.injArm = false ∧ BitVec.toNat ((s.core ↑c).landAll (s.core ↑c).due).ivb + 4 * 134 + 4 ≤ 98304 ∧ BitVec.toNat     (wordOfBytes (s.ownRead (↑c) true (BitVec.toNat ((s.core ↑c).landAll (s.core ↑c).due).ivb + 4 * 134) 4).1).1 <   98304 ∧ BitVec.toNat       (wordOfBytes (s.ownRead (↑c) true (BitVec.toNat ((s.core ↑c).landAll (s.core ↑c).due).ivb + 4 * 134) 4).1).1 %     4 =   0 ∧ (((s.core ↑c).ptr pk.toNat).p = true ∨   b = true ∧ BitVec.getLsbD ((s.core ↑c).v 0).t 0 = true ∨     (s.core ↑c).vstart < (s.core ↑c).vl ∧       (b = true → ((s.core ↑c).v 0).v.getLsbD (s.core ↑c).vstart = true) ∧         BitVec.getLsbD ((s.core ↑c).v ra).t ((s.core ↑c).ew * (s.core ↑c).vstart / 32) = true)) :=
  ⟨⟨devC fun x => { x with pf := [(0, ⟨0x10000000, true⟩)] }, 9, 30, 0, ready_of (by decide), by decide⟩,
   ⟨devC fun x => { x with pf := [(0, ⟨0x10000000, true⟩)] }, 9, 0, false, ready_of (by decide +kernel), noSyn_of (by decide +kernel), not_refused (by decide +kernel), by decide +kernel⟩,
   ⟨devC fun x => { x with pf := [(0, ⟨0x10000000, true⟩)] }, 9, 0, false, ready_of (by decide +kernel), noSyn_of (by decide +kernel), not_refused (by decide +kernel), by decide +kernel⟩,
   ⟨devC fun x => { x with pf := [(0, TW.plain 0x10000000)], gr := [(2, ⟨0, true⟩)] }, 9, 2, 0, false, ready_of (by decide +kernel), noSyn_of (by decide +kernel), not_refused (by decide +kernel), by decide +kernel⟩,
   ⟨devC fun x => { x with pf := [(0, TW.plain 0x10000000)], gr := [(2, ⟨0, true⟩)] }, 9, 2, 0, false, ready_of (by decide +kernel), noSyn_of (by decide +kernel), not_refused (by decide +kernel), by decide +kernel⟩,
   ⟨devC fun x => { x with pf := [(0, TW.plain 0x10000000)], vr := [(2, { v := 0, t := 1 })] }, 9, 2, 0, false, ready_of (by decide +kernel), noSyn_of (by decide +kernel), not_refused (by decide +kernel), by decide +kernel⟩⟩

theorem test_witness_OperationTraps_5 :
    (∃ (s : State) (c : Fin 64) (ra : BitVec 5) (pk : BitVec 3) (b : Bool), s.Ready ↑c ∧ (∀ (w : Nat), s.memSyn (64 + ↑c) w = 0) ∧ (∀ (k : Nat),   s.reach (↑c) true       (BitVec.toNat         (((s.core ↑c).ptr pk.toNat).v + BitVec.ofNat 32 (elemN ((s.core ↑c).v ra).v (s.core ↑c).ew (s.core ↑c).vstart)))       ((s.core ↑c).ew / 8) true ≠     Reach.refused k) ∧ (s.core ↑c).vinv = false ∧ s.fcu.injArm = false ∧ BitVec.toNat ((s.core ↑c).landAll (s.core ↑c).due).ivb + 4 * 134 + 4 ≤ 98304 ∧ BitVec.toNat     (wordOfBytes (s.ownRead (↑c) true (BitVec.toNat ((s.core ↑c).landAll (s.core ↑c).due).ivb + 4 * 134) 4).1).1 <   98304 ∧ BitVec.toNat       (wordOfBytes (s.ownRead (↑c) true (BitVec.toNat ((s.core ↑c).landAll (s.core ↑c).due).ivb + 4 * 134) 4).1).1 %     4 =   0 ∧ (((s.core ↑c).ptr pk.toNat).p = true ∨   b = true ∧ BitVec.getLsbD ((s.core ↑c).v 0).t 0 = true ∨     (s.core ↑c).vstart < (s.core ↑c).vl ∧       (b = true → ((s.core ↑c).v 0).v.getLsbD (s.core ↑c).vstart = true) ∧         BitVec.getLsbD ((s.core ↑c).v ra).t ((s.core ↑c).ew * (s.core ↑c).vstart / 32) = true)) ∧
    (∃ (s : State) (c : Fin 64) (ra : BitVec 5), s.Ready ↑c ∧ (s.ridge (s.core ↑c).ridge).priv = false ∧ BitVec.getLsbD ((s.core ↑c).g ra).v 4 = true) ∧
    (∃ (s : State) (c : Fin 64) (ra : BitVec 5) (n : Byte), s.Ready ↑c ∧ ((s.core ↑c).g ra).p = true ∧ cregListed (n.toNat) = true ∧ (n = 0 ∨ n = 2 → (s.ridge (s.core ↑c).ridge).priv = true ∨ BitVec.getLsbD ((s.core ↑c).g ra).v 4 = false)) ∧
    (∃ (s : State) (c : Fin 64) (imm : BitVec 11), s.Ready ↑c ∧ (BitVec.toNat ((s.core ↑c).pc + BitVec.ofNat 32 (4 * imm.toNat)) < BitVec.toNat (s.core ↑c).pc + 4 ∨   98304 ≤ BitVec.toNat ((s.core ↑c).pc + BitVec.ofNat 32 (4 * imm.toNat)))) ∧
    (∃ (s : State) (c : Fin 64) (idx : BitVec 2), s.Ready ↑c ∧ pswLd (s.core ↑c).psw < 4 ∧ idx.toNat ≠ pswLd (s.core ↑c).psw) ∧
    (∃ (s : State) (c : Fin 64) (imm : BitVec 11) (b : Bool) (idx : BitVec 2) (cnt : BitVec 12), s.Ready ↑c ∧ BitVec.toNat (s.core ↑c).pc + 4 ≤ BitVec.toNat ((s.core ↑c).pc + BitVec.ofNat 32 (4 * imm.toNat)) ∧ BitVec.toNat ((s.core ↑c).pc + BitVec.ofNat 32 (4 * imm.toNat)) < 98304 ∧ (idx.toNat = pswLd (s.core ↑c).psw ∨ 4 ≤ pswLd (s.core ↑c).psw) ∧ (if b = true then (⟨BitVec.setWidth 32 cnt, false⟩ : TW) else (s.core ↑c).g (BitVec.setWidth 5 cnt)).p = true) :=
  ⟨⟨devC fun x => { x with pf := [(0, TW.plain 0x10000000)], vr := [(2, { v := 0, t := 1 })] }, 9, 2, 0, false, ready_of (by decide +kernel), noSyn_of (by decide +kernel), not_refused (by decide +kernel), by decide +kernel⟩,
   ⟨devC fun x => { x with gr := [(2, TW.plain 0x10)] }, 9, 2, ready_of (by decide), by decide⟩,
   ⟨devC fun x => { x with gr := [(2, ⟨0, true⟩)] }, 9, 2, 2, ready_of (by decide), by decide⟩,
   ⟨dev, 9, 0, ready_of (by decide), by decide⟩,
   ⟨dev, 9, 1, ready_of (by decide), by decide⟩,
   ⟨devC fun x => { x with gr := [(2, ⟨0, true⟩)] }, 9, 1, false, 0, 2, ready_of (by decide), by decide⟩⟩

theorem test_witness_OperationTraps_6 :
    (∃ (s : State) (c : Fin 64) (imm : BitVec 11) (b : Bool) (idx : BitVec 2) (cnt : BitVec 12), s.Ready ↑c ∧ BitVec.toNat (s.core ↑c).pc + 4 ≤ BitVec.toNat ((s.core ↑c).pc + BitVec.ofNat 32 (4 * imm.toNat)) ∧ BitVec.toNat ((s.core ↑c).pc + BitVec.ofNat 32 (4 * imm.toNat)) < 98304 ∧ (idx.toNat = pswLd (s.core ↑c).psw ∨ 4 ≤ pswLd (s.core ↑c).psw) ∧ (if b = true then (⟨BitVec.setWidth 32 cnt, false⟩ : TW) else (s.core ↑c).g (BitVec.setWidth 5 cnt)).p = false ∧ 4 ≤ pswLd (s.core ↑c).psw) :=
  ⟨devC fun x => { x with psw := 0x100 }, 9, 1, true, 0, 4095, ready_of (by decide), by decide⟩

theorem test_witness_TrapEntry :
    (∃ (s : State) (c : Nat) (cause : Nat) (k : Nat), (∀ (w : Nat), s.memSyn (64 + c) w = 0) ∧ c < 64 ∧ cause < 256 ∧ s.fcu.injArm = false ∧ BitVec.toNat ((s.core c).landAll (s.core c).due).ivb + 4 * cause + 4 ≤ 98304 ∧ BitVec.toNat (wordOfBytes (s.ownRead c true (BitVec.toNat ((s.core c).landAll (s.core c).due).ivb + 4 * cause) 4).1).1 <   98304 ∧ BitVec.toNat (wordOfBytes (s.ownRead c true (BitVec.toNat ((s.core c).landAll (s.core c).due).ivb + 4 * cause) 4).1).1 %     4 =   0 ∧ k ≠ c) :=
  ⟨dev, 9, 0x85, 8, noSyn_of (by decide), by decide⟩

theorem test_witness_EntriesAtABoundary :
    (∃ (s : State) (c : Fin 64) (a : Word), s.executes ↑c = true ∧ (s.core ↑c).held = false ∧ (s.core ↑c).open_ = [] ∧ (s.core ↑c).wait = [] ∧ (s.core ↑c).aerr = some a) ∧
    (∃ (s : State) (c : Fin 64) (cause : Nat) (ev : Word), s.executes ↑c = true ∧ (s.core ↑c).held = false ∧ (s.core ↑c).open_ = [] ∧ (s.core ↑c).wait = [] ∧ (s.core ↑c).aerr = none ∧ fetchTrap (s.core ↑c).pc (s.core ↑c).fetched = some (cause, ev)) ∧
    (∃ (s : State) (r : Fin 64) (cause : Nat) (level : Option Nat) (nmi : Bool), (s.ridge ↑r).running = true ∧ (∀ c ∈ s.runners ↑r, (s.core c).wait = [] ∧ (s.core c).open_ = [] ∧ (s.core c).aerr = none) ∧ s.recognised ↑r = some (cause, level, nmi)) ∧
    (∃ (s : State) (r : Fin 64) (n : Nat) (cause : Nat) (level : Option Nat) (nmi : Bool), (∀ c ∈ s.runners ↑r,   c < 64 ∧     (s.core c).ridge = ↑r ∧       (s.core c).wait = [] ∧         (s.core c).open_ ≠ [] ∧           (∀ o ∈ (s.core c).open_, o.elems = []) ∧             (∀ (w : Nat), s.memSyn (64 + c) w = 0) ∧               s.streamTo c = [] ∧                 BitVec.toNat ((s.core c).landAll (s.core c).due).ivb + 4 * cause + 4 ≤ 98304 ∧                   BitVec.toNat                         (wordOfBytes                             (s.ownRead c true (BitVec.toNat ((s.core c).landAll (s.core c).due).ivb + 4 * cause)                                 4).1).1 <                       98304 ∧                     BitVec.toNat                           (wordOfBytes                               (s.ownRead c true (BitVec.toNat ((s.core c).landAll (s.core c).due).ivb + 4 * cause)                                   4).1).1 %                         4 =                       0) ∧ (s.ridge ↑r).running = true ∧ (s.ridge ↑r).kind ≠ 1 ∧ (s.runners ↑r).Nodup ∧ s.recognised ↑r = some (cause, level, nmi) ∧ s.fcu.injArm = false ∧ s.ecc.injArm = false ∧ (n = 0 ∨ ∀ c ∈ s.runners ↑r, ∀ o ∈ (s.core c).open_, o.stall = 0 ∨ o.stores = [])) ∧
    (∃ (s : State) (r : Fin 64) (n : Nat) (cause : Nat) (level : Option Nat) (nmi : Bool) (c : Nat) (o : OpEff) (m : MStore), (∀ c ∈ s.runners ↑r,   c < 64 ∧     (s.core c).ridge = ↑r ∧       (s.core c).wait = [] ∧         (s.core c).open_ ≠ [] ∧           (∀ o ∈ (s.core c).open_, o.elems = []) ∧             (∀ (w : Nat), s.memSyn (64 + c) w = 0) ∧               s.streamTo c = [] ∧                 BitVec.toNat ((s.core c).landAll (s.core c).due).ivb + 4 * cause + 4 ≤ 98304 ∧                   BitVec.toNat                         (wordOfBytes                             (s.ownRead c true (BitVec.toNat ((s.core c).landAll (s.core c).due).ivb + 4 * cause)                                 4).1).1 <                       98304 ∧                     BitVec.toNat                           (wordOfBytes                               (s.ownRead c true (BitVec.toNat ((s.core c).landAll (s.core c).due).ivb + 4 * cause)                                   4).1).1 %                         4 =                       0) ∧ s.Clean (ownMem c m.pm) ∧ (s.ridge ↑r).running = true ∧ (s.ridge ↑r).kind ≠ 1 ∧ (s.runners ↑r).Nodup ∧ s.recognised ↑r = some (cause, level, nmi) ∧ s.fcu.injArm = false ∧ s.ecc.injArm = false ∧ s.runners ↑r = [c] ∧ (s.core c).open_ = [o] ∧ o.stores = [m] ∧ 0 < n ∧ 0 < o.stall ∧ (s.core c).merge = [] ∧ (s.core c).evicted = none ∧ m.off + m.data.length ≤ (if m.pm = true then 98304 else 131072) ∧ m.narrow = false ∧ (∀ b ∈ m.data, b.2 = false) ∧ (m.pm = true →   ∀ k < 4,     m.off + m.data.length ≤ BitVec.toNat (s.core c).ivb + 4 * cause + k ∨       BitVec.toNat (s.core c).ivb + 4 * cause + k < m.off) ∧ (s.core c).late = []) :=
  ⟨⟨devC fun x => { x with aerr := some 0x41000000 }, 9, 0x41000000, by decide⟩,
   ⟨devC fun x => { x with pc := 0x18000 }, 9, 0x84, 0x18000, by decide⟩,
   ⟨devR fun x => { x with nmiPend := true }, 3, 0x40, none, true, by decide⟩,
   ⟨{ (devC fun x => { x with open_ := [OpEff.nil] }) with ridges := [(3, { dev.ridge 3 with kind := 2, nmiPend := true })] }, 3, 1, 0x40, none, true, fun c h => by
      obtain rfl := List.mem_singleton.mp (show c ∈ [9] from h)
      exact ⟨by decide, by decide, by decide, by decide, by decide, noSyn_of (by decide), by decide, by decide +kernel, by decide +kernel, by decide +kernel⟩, by decide⟩,
   ⟨{ (devC fun x => { x with open_ := [{ OpEff.nil with stores := [{ pm := false, off := 131068, data := [(1, false), (2, false), (3, false), (4, false)], narrow := false }], stall := 1 }] }) with ridges := [(3, { dev.ridge 3 with kind := 2, nmiPend := true })] }, 3, 1, 0x40, none, true, 9, { OpEff.nil with stores := [{ pm := false, off := 131068, data := [(1, false), (2, false), (3, false), (4, false)], narrow := false }], stall := 1 }, { pm := false, off := 131068, data := [(1, false), (2, false), (3, false), (4, false)], narrow := false }, fun c h => by
      obtain rfl := List.mem_singleton.mp (show c ∈ [9] from h)
      exact ⟨by decide +kernel, by decide +kernel, by decide +kernel, by decide +kernel, by decide +kernel, noSyn_of (by decide +kernel), by decide +kernel, by decide +kernel, by decide +kernel, by decide +kernel⟩, clean_of (by decide +kernel), by decide +kernel⟩⟩

theorem test_witness_Recognition :
    (∃ (s : State) (r : Nat) (c : Nat), s.lead r = some c ∧ (s.ridge r).nmiPend = true ∧ BitVec.getLsbD (s.core c).psw 5 = false) ∧
    (∃ (s : State) (r : Nat) (c : Nat), s.lead r = some c ∧ ((s.ridge r).nmiPend = false ∨ BitVec.getLsbD (s.core c).psw 5 = true) ∧ BitVec.getLsbD (s.core c).psw 0 = false) ∧
    (∃ (s : State) (r : Nat) (c : Nat) (k : Nat), s.lead r = some c ∧ ((s.ridge r).nmiPend = false ∨ BitVec.getLsbD (s.core c).psw 5 = true) ∧ BitVec.getLsbD (s.core c).psw 0 = true ∧ (s.ridge r).pend.getLsbD k = true ∧ (s.ridge r).icuEn.getLsbD k = true ∧ pswPri (s.core c).psw < (s.ridge r).level k) ∧
    (∃ (s : State) (r : Nat) (c : Nat) (n : Nat) (level : Option Nat) (k : Nat), s.lead r = some c ∧ ((s.ridge r).nmiPend = false ∨ BitVec.getLsbD (s.core c).psw 5 = true) ∧ s.recognised r = some (n, level, false) ∧ k < 64 ∧ (s.ridge r).pend.getLsbD k = true ∧ (s.ridge r).icuEn.getLsbD k = true ∧ pswPri (s.core c).psw < (s.ridge r).level k) :=
  ⟨⟨devR fun x => { x with nmiPend := true }, 3, 9, by decide⟩,
   ⟨devR (fun x => { x with nmiPend := true }) |>.updCore 9 fun x => { x with psw := 0x20 }, 3, 9, by decide⟩,
   ⟨{ (devR fun x => { x with icuPend := 1 <<< 40, icuEn := 1 <<< 40, icuPrio := [(40, 3)] }) with cores := [(9, { dev.core 9 with psw := 5 })] }, 3, 9, 40, by decide⟩,
   ⟨{ (devR fun x => { x with icuPend := 1 <<< 40, icuEn := 1 <<< 40, icuPrio := [(40, 3)] }) with cores := [(9, { dev.core 9 with psw := 5 })] }, 3, 9, 40, some 3, 40, by decide⟩⟩

theorem test_witness_StoresAndResponses :
    (∃ (s : State) (r : Fin 64) (q : Req) (rest : List Req) (m : Nat), (∀ (c : Nat), (s.core c).held = false) ∧ (s.ridge ↑r).queue = q :: rest ∧ (s.ridge ↑r).loads = [] ∧ s.massifOfAddr (↑r) (BitVec.toNat q.addr) = some m) ∧
    (∃ (s : State) (r : Fin 64) (q : Req) (rest : List Posted), (∀ (c : Nat), (s.core c).held = false) ∧ (s.ridge ↑r).flying = { req := q, resp := none, ready := true } :: rest) ∧
    (∃ (s : State) (r : Fin 64) (q : Req) (rest : List Posted) (k : Nat), (∀ (c : Nat), (s.core c).held = false) ∧ (s.ridge ↑r).flying = { req := q, resp := some k, ready := true } :: rest ∧ (s.ridge ↑r).running = true ∧ (s.ridge ↑r).aeValid = false) ∧
    (∃ (s : State) (r : Fin 64) (l : LoadReq) (rest : List LoadReq) (c : Nat) (p : RPart), (s.ridge ↑r).loads = l :: rest ∧ l.ready = true ∧ l.err = none ∧ s.runners ↑r = [c] ∧ (s.core c).wait = [p] ∧ p.req = l.req ∧ (s.core c).held = false ∧ (s.core c).aerr = none ∧ (s.core c).refusals = [] ∧ (∀ o ∈ (s.core c).open_, ∀ p ∈ o.parts, p.req ≠ l.req) ∧ (s.core c).eDrop.contains l.req = false ∧ ((s.ridge ↑r).kind = 1 ∨ s.recognised ↑r = none)) :=
  ⟨⟨devR fun x => { x with queue := [{ write := true, addr := 0x20000000, size := 4, data := [] }] }, 3, { write := true, addr := 0x20000000, size := 4, data := [] }, [], 0, heldNone_of (by decide), by decide⟩,
   ⟨devR fun x => { x with flying := [{ req := { write := true, addr := 0x20000000, size := 4, data := [] }, resp := none, ready := true }] }, 3, { write := true, addr := 0x20000000, size := 4, data := [] }, [], heldNone_of (by decide), by decide⟩,
   ⟨devR fun x => { x with flying := [{ req := { write := true, addr := 0x20000000, size := 4, data := [] }, resp := some 1, ready := true }] }, 3, { write := true, addr := 0x20000000, size := 4, data := [] }, [], 1, heldNone_of (by decide), by decide⟩,
   ⟨{ (devR fun x => { x with loads := [load1] }) with cores := [(9, { dev.core 9 with wait := [part1] })] }, 3, load1, [], 9, part1, by decide⟩⟩

theorem test_witness_EndOfBodyTest :
    (∃ (s : State) (c : Fin 64) (k : Nat) (ls : Word) (le : Word) (lc : Word), s.executes ↑c = true ∧ (s.core ↑c).pend = none ∧ (s.core ↑c).testLoops.ld = k + 1 ∧ (s.core ↑c).testLoops.ls[k]? = some ls ∧ (s.core ↑c).testLoops.le[k]? = some le ∧ (s.core ↑c).testLoops.lc[k]? = some lc ∧ le = (s.core ↑c).pc ∧ 1 < lc.toNat) ∧
    (∃ (s : State) (c : Fin 64) (k : Nat) (ls : Word) (le : Word) (lc : Word), s.executes ↑c = true ∧ (s.core ↑c).pend = none ∧ (s.core ↑c).testLoops.ld = k + 1 ∧ (s.core ↑c).testLoops.ls[k]? = some ls ∧ (s.core ↑c).testLoops.le[k]? = some le ∧ (s.core ↑c).testLoops.lc[k]? = some lc ∧ le = (s.core ↑c).pc ∧ lc.toNat ≤ 1 ∧ k = 0) :=
  ⟨⟨devC fun x => { x with testLoops := { ls := [0x800, 0, 0, 0], le := [0x1000, 0, 0, 0], lc := [2, 0, 0, 0], ld := 1 } }, 9, 0, 0x800, 0x1000, 2, by decide⟩,
   ⟨devC fun x => { x with testLoops := { ls := [0x800, 0, 0, 0], le := [0x1000, 0, 0, 0], lc := [1, 0, 0, 0], ld := 1 } }, 9, 0, 0x800, 0x1000, 1, by decide⟩⟩

theorem test_witness_EvictedEntryIsWritten :
    (∃ (s : State) (c : Fin 64), (s.core ↑c).evicted = none ∧ ((s.core ↑c).merge = [] ∨ s.drains ↑c = false)) ∧
    (∃ (s : State) (c : Fin 64) (m : Merge) (rest : List Merge), s.Clean ↑c ∧ (s.core ↑c).evicted = none ∧ (s.core ↑c).merge = m :: rest ∧ s.drains ↑c = true ∧ (s.core ↑c).held = false ∧ s.streamTo ↑c = [] ∧ (s.core ↑c).MergeOk ∧ m.mask ≠ 0) ∧
    (∃ (s : State) (c : Fin 64) (m : Merge), s.Clean ↑c ∧ (s.core ↑c).evicted = some m ∧ (s.core ↑c).held = false ∧ s.streamTo ↑c = [] ∧ m.word < 32768 ∧ m.tags &&& ~~~m.mask = 0 ∧ m.mask ≠ 0) :=
  ⟨⟨dev, 9, by decide⟩,
   ⟨{ (devR fun x => { x with st := .halted, draining := true }) with cores := [(9, { dev.core 9 with merge := [{ word := 32767, data := 0x12345678, mask := 1, tags := 0 }] })] }, 9, { word := 32767, data := 0x12345678, mask := 1, tags := 0 }, [], clean_of (by decide), by decide⟩,
   ⟨devC fun x => { x with evicted := some { word := 32767, data := 0x12345678, mask := 1, tags := 0 } }, 9, { word := 32767, data := 0x12345678, mask := 1, tags := 0 }, clean_of (by decide), by decide⟩⟩

theorem test_witness_RegisterWrites :
    (∃ (s : State) (r : Fin 64) (addr : Word) (data : Word) (o : Nat), s.Writes (↑r) addr o ∧ (s.regWrite (↑r) o data).2 = none) ∧
    (∃ (s : State) (r : Fin 64) (addr : Word) (data : Word) (o : Nat) (k : Nat), s.Writes (↑r) addr o ∧ s.regWrite (↑r) o data = (s, some k) ∧ (s.ridge ↑r).aeValid = false) ∧
    (∃ (s : State) (r : Fin 64), (s.ridge ↑r).running = false) ∧
    (∃ (s : State) (r : Fin 64) (addr : Word) (q : Nat), s.Writes (↑r) addr (65536 + 1024 * ↑r + q) ∧ q = 256) ∧
    (∃ (s : State) (r : Fin 64) (addr : Word) (q : Nat), s.Writes (↑r) addr (65536 + 1024 * ↑r + q) ∧ q = 320) ∧
    (∃ (s : State) (r : Fin 64) (addr : Word) (q : Nat), s.Writes (↑r) addr (65536 + 1024 * ↑r + q) ∧ q = 48) :=
  ⟨⟨dev, 3, 0x40010C10, 1, 0x10C10, writes_of (by decide), by decide⟩,
   ⟨devR fun x => { x with wdt := { x.wdt with en := true, reqLock := true, req := 3 } }, 3, 0x40020300, 0, 0x20300, 4, writes_of (by decide), rfl, by decide⟩,
   ⟨dev, 4, by decide⟩,
   ⟨dev, 3, 0x40010D00, 0x100, writes_of (by decide), by decide⟩,
   ⟨dev, 3, 0x40010D40, 0x140, writes_of (by decide), by decide⟩,
   ⟨dev, 3, 0x40010C30, 0x30, writes_of (by decide), by decide⟩⟩

theorem test_witness_RidgeBlockWrites :
    (∃ (s : State) (r : Fin 64) (addr : Word), s.Writes (↑r) addr (65536 + 1024 * ↑r + 16)) ∧
    (∃ (s : State) (r : Fin 64) (addr : Word) (data : Word), s.Writes (↑r) addr (65536 + 1024 * ↑r + 64) ∧ (s.ridge ↑r).outen = true ∧ BitVec.getLsbD data 0 = true) ∧
    (∃ (s : State) (r : Fin 64) (addr : Word), s.Writes (↑r) addr (65536 + 1024 * ↑r + 64) ∧ (s.ridge ↑r).outen = false) ∧
    (∃ (s : State) (r : Fin 64) (addr : Word) (data : Word) (n : Nat), s.Writes (↑r) addr (65536 + 1024 * ↑r + 384 + 4 * (n - 24)) ∧ 24 ≤ n ∧ n < 64 ∧ (data.toNat % 1024 = 1023 ∨   lineAssigned (data.toNat % 1024) = true ∧ s.ownsLine (↑r) (data.toNat % 1024) = true)) ∧
    (∃ (s : State) (r : Fin 64) (addr : Word) (data : Word) (n : Nat), s.Writes (↑r) addr (65536 + 1024 * ↑r + 384 + 4 * (n - 24)) ∧ 24 ≤ n ∧ n < 64 ∧ data.toNat % 1024 ≠ 1023 ∧ lineAssigned (data.toNat % 1024) = true ∧ s.ownsLine (↑r) (data.toNat % 1024) = false ∧ (s.ridge ↑r).aeValid = false) ∧
    (∃ (s : State) (r : Fin 64) (addr : Word) (p : Nat), s.Writes (↑r) addr (5242880 + 16 * p + 4) ∧ p < 96) :=
  ⟨⟨dev, 3, 0x40010C10, writes_of (by decide)⟩,
   ⟨dev, 3, 0x40010C40, 1, writes_of (by decide), by decide⟩,
   ⟨(devR fun x => { x with outen := false }), 3, 0x40010C40, writes_of (by decide), by decide⟩,
   ⟨dev, 3, 0x40010D80, 0x3FF, 24, writes_of (by decide), by decide⟩,
   ⟨dev, 3, 0x40010E1C, 0x204, 63, writes_of (by decide), by decide⟩,
   ⟨{ dev with gps := [(95, { GpPin.reset with owner := some 3 })] }, 3, 0x405005F4, 95, writes_of (by decide), by decide⟩⟩

theorem test_witness_PeripheralWrites :
    (∃ (s : State) (r : Fin 64) (addr : Word) (d : Nat), s.Writes (↑r) addr (1048576 + 256 * d + 52) ∧ d < 8 ∧ ((State.boundaries (s.dom d).due s d).dom d).cfg.fv = true ∧ ((State.boundaries (s.dom d).due s d).dom d).cfg.feeder = ↑r ∧ ((State.boundaries (s.dom d).due s d).dom d).cfg.src = 3 ∧ ((State.boundaries (s.dom d).due s d).dom d).st ≠ AdSt.off ∧ ((State.boundaries (s.dom d).due s d).dom d).estCyc ≠ ((State.boundaries (s.dom d).due s d).dom d).cyc ∧ (((State.boundaries (s.dom d).due s d).dom d).estCyc + 1) % 2 ^ 16 ≠ ((State.boundaries (s.dom d).due s d).dom d).cyc) ∧
    (∃ (s : State) (r : Fin 64) (addr : Word) (d : Nat), s.Writes (↑r) addr (1048576 + 256 * d + 52) ∧ d < 8 ∧ ((State.boundaries (s.dom d).due s d).dom d).cfg.fv = true ∧ ((State.boundaries (s.dom d).due s d).dom d).cfg.feeder = ↑r ∧ ((State.boundaries (s.dom d).due s d).dom d).cfg.src = 3 ∧ ((State.boundaries (s.dom d).due s d).dom d).st ≠ AdSt.off ∧ ((State.boundaries (s.dom d).due s d).dom d).estCyc = ((State.boundaries (s.dom d).due s d).dom d).cyc) ∧
    (∃ (s : State) (r : Fin 64) (addr : Word) (data : Word) (p : Nat) (j : Nat), s.Writes (↑r) addr (3145728 + 16384 * p + 256 + 16 * j + 8) ∧ p < 4 ∧ j < 16 ∧ data.toNat % 256 < 2 * ((s.eth p).rx j).npage ∧ data.toNat % 256 ≠ ((s.eth p).rx j).tail ∧ (data.toNat % 256 + 2 * ((s.eth p).rx j).npage - ((s.eth p).rx j).tail) % (2 * ((s.eth p).rx j).npage) ≤   ((s.eth p).rx j).held) ∧
    (∃ (s : State) (r : Fin 64) (addr : Word) (data : Word) (p : Nat) (j : Nat), s.Writes (↑r) addr (3145728 + 16384 * p + 256 + 16 * j + 8) ∧ p < 4 ∧ j < 16 ∧ data.toNat % 256 ≠ ((s.eth p).rx j).tail ∧ (2 * ((s.eth p).rx j).npage ≤ data.toNat % 256 ∨   ((s.eth p).rx j).held <     (data.toNat % 256 + 2 * ((s.eth p).rx j).npage - ((s.eth p).rx j).tail) % (2 * ((s.eth p).rx j).npage)) ∧ (s.ridge ↑r).aeValid = false) ∧
    (∃ (s : State) (r : Fin 64) (addr : Word), s.Writes (↑r) addr 3147792) ∧
    (∃ (s : State) (r : Fin 64) (addr : Word) (data : Word) (m : Nat), s.Writes (↑r) addr (3211520 + 16 * m + 4) ∧ (∀ (w : Nat), s.memSyn 135 w = 0) ∧ m < 15 ∧ (s.mbox m).busy = false ∧ (s.mbox m).en = true ∧ s.outputsLive ↑r = true ∧ 0 < data.toNat % 512 ∧ data.toNat % 512 ≤ 256 ∧ s.ringSends = true ∧ s.fcu.injArm = false ∧ (s.mbox m).seq < 256 ∧ s.ring.out.length ≤ 100) :=
  ⟨⟨{ dev with doms := [(7, { Domain.reset with cfg := { AdCfg.reset with fv := true, feeder := 3, src := 3 }, st := .track, estCyc := 2 })] }, 3, 0x40100734, 7, writes_of (by decide), by decide⟩,
   ⟨{ dev with doms := [(7, { Domain.reset with cfg := { AdCfg.reset with fv := true, feeder := 3, src := 3 }, st := .track, estCyc := 0 })] }, 3, 0x40100734, 7, writes_of (by decide), by decide⟩,
   ⟨{ dev with eths := [(3, { Eth.reset with rxq := [(15, { Queue.reset with en := true, owner := some 3, npage := 1, head := 0, held := 2 })] })] }, 3, 0x4030C1F8, 1, 3, 15, writes_of (by decide), by decide⟩,
   ⟨{ dev with eths := [(3, { Eth.reset with rxq := [(15, { Queue.reset with en := true, owner := some 3, npage := 1, held := 0 })] })] }, 3, 0x4030C1F8, 1, 3, 15, writes_of (by decide), by decide⟩,
   ⟨{ dev with ptp := { Ptp.reset with owner := some 3 } }, 3, 0x40300810, writes_of (by decide)⟩,
   ⟨{ dev with ring := { SRing.reset with st := 2, mbs := [(14, { Mbox.reset with en := true, owner := some 3 })] } }, 3, 0x403101E4, 256, 14, writes_of (by decide), noSyn_of (by decide), by decide⟩⟩

theorem test_witness_WatchdogWrites :
    (∃ (s : State) (r : Fin 64) (addr : Word), s.Writes (↑r) addr (131072 + 256 * ↑r) ∧ (s.ridge ↑r).wdt.en = false) ∧
    (∃ (s : State) (r : Fin 64) (addr : Word), s.Writes (↑r) addr (131072 + 256 * ↑r + 4) ∧ (s.ridge ↑r).wdt.reqLock = false) ∧
    (∃ (s : State) (r : Fin 64) (addr : Word) (data : Word), s.Writes (↑r) addr (131072 + 256 * ↑r + 8) ∧ (s.ridge ↑r).wdt.en = true ∧ BitVec.setWidth 16 data ≠ 0) ∧
    (∃ (s : State) (r : Fin 64) (addr : Word), s.Writes (↑r) addr (131072 + 256 * ↑r) ∧ (s.ridge ↑r).wdt.en = true ∧ (s.ridge ↑r).aeValid = false) ∧
    (∃ (s : State) (r : Fin 64) (addr : Word), s.Writes (↑r) addr (131072 + 256 * ↑r + 4) ∧ (s.ridge ↑r).wdt.reqLock = true ∧ (s.ridge ↑r).aeValid = false) :=
  ⟨⟨dev, 3, 0x40020300, writes_of (by decide), by decide⟩,
   ⟨dev, 3, 0x40020304, writes_of (by decide), by decide⟩,
   ⟨devR fun x => { x with wdt := { x.wdt with en := true, reqLock := true, req := 3 } }, 3, 0x40020308, 1, writes_of (by decide), by decide⟩,
   ⟨devR fun x => { x with wdt := { x.wdt with en := true, reqLock := true, req := 3 } }, 3, 0x40020300, writes_of (by decide), by decide⟩,
   ⟨devR fun x => { x with wdt := { x.wdt with en := true, reqLock := true, req := 3 } }, 3, 0x40020304, writes_of (by decide), by decide⟩⟩

theorem test_witness_BundleVotes :
    (∃ (s : State) (r : Fin 64) (w : Record), s.Compares ↑r ∧ s.heads ↑r ≠ [] ∧ (∀ h ∈ s.heads ↑r, h = some w) ∧ (∀ q ∈ w.reqs, q.write = true)) ∧
    (∃ (s : State) (r : Fin 64) (w : Record) (k : Nat) (c : Nat), s.Compares ↑r ∧ (s.ridge ↑r).kind = 3 ∧ (s.ridge ↑r).valid.length = 3 ∧ (k, c) ∈ (s.ridge ↑r).valid ∧ (∀ m ∈ (s.ridge ↑r).valid, m.1 ≠ k → (s.core m.2).recs.head? = some w) ∧ (s.core c).recs.head? ≠ some w ∧ (∀ q ∈ w.reqs, q.write = true)) ∧
    (∃ (s : State) (r : Fin 64), s.Compares ↑r ∧ (∃ w, some w ∈ s.heads ↑r) ∧ ((s.ridge ↑r).kind = 2 ∨ (s.ridge ↑r).kind = 3) ∧ (∀ h ∈ s.heads ↑r, 2 * (List.filter (fun g ↦ g == h) (s.heads ↑r)).length ≤ (s.heads ↑r).length)) :=
  ⟨⟨devC (fun x => { x with recs := [rec1] }), 3, rec1, compares_of (by decide), by decide⟩,
   ⟨devT (fun c x => { x with recs := [if c = 11 then rec2 else rec1] }) [(true, 9), (true, 10), (true, 11)], 3, rec1, 2, 11, compares_of (by decide), by decide⟩,
   ⟨{ devT (fun c x => { x with recs := [if c = 9 then rec2 else rec1] }) [(true, 9), (true, 10), (false, 11)] with ridges := [(3, { triad.ridge 3 with kind := 2, members := [(true, 9), (true, 10), (false, 11)] })] }, 3, compares_of (by decide), ⟨rec1, by decide⟩, by decide⟩⟩

theorem test_witness_RidgeRecovery :
    (∃ (s : State) (r : Fin 64), (s.ridge ↑r).st = RidgeSt.halted ∧ (s.ridge ↑r).draining = true ∧ (s.ridge ↑r).queue = [] ∧ (s.ridge ↑r).flying = [] ∧ (s.ridge ↑r).dissolve = false ∧ (∀ m ∈ (s.ridge ↑r).valid, (s.core m.2).merge = [] ∧ (s.core m.2).evicted = none)) ∧
    (∃ (s : State) (r : Fin 64), (∀ m ∈ (s.ridge ↑r).valid, m.2 < 64 ∧ s.Clean (64 + m.2)) ∧ (s.ridge ↑r).st = RidgeSt.halted ∧ (s.ridge ↑r).draining = false ∧ (s.ridge ↑r).restart = true ∧ (s.ridge ↑r).rstcnt < (s.ridge ↑r).maxrst ∧ (s.ridge ↑r).rstcnt < 15 ∧ (s.ridge ↑r).haltcause ≠ 7 ∧ (s.ridge ↑r).dissolve = false ∧ (s.ridge ↑r).underTest = 0 ∧ (s.ridge ↑r).testFailed = false ∧ s.fcu.fatal = false ∧ s.pwr.st = PState.run ∧ s.cairnRuns = true ∧ s.fcu.injArm = false ∧ s.ecc.injArm = false) ∧
    (∃ (s : State) (r : Fin 64) (k : Fin 3) (c : Nat), (∀ (j : Nat), (s.core j).held = false) ∧ (s.ridge ↑r).running = true ∧ (s.ridge ↑r).kind = 3 ∧ (s.ridge ↑r).valid.length = 3 ∧ (s.ridge ↑r).members[↑k]? = some (true, c) ∧ (s.core c).removeDue = true ∧ s.cairnRuns = true ∧ (s.core c).st = CoreSt.member ∧ (s.massif (s.ridge ↑r).massif).col = none) ∧
    (∃ (s : State) (c : Fin 64), (∀ (k : Nat), (s.ridge k).clearing.contains ↑c = false) ∧ (s.core ↑c).st = CoreSt.clearing) ∧
    (∃ (s : State) (c : Fin 64) (r : Fin 64), (∀ (k : Nat), k ≠ ↑r → (s.ridge k).clearing.contains ↑c = false) ∧ (s.core ↑c).st = CoreSt.clearing ∧ (s.ridge ↑r).clearing = [↑c]) :=
  ⟨⟨(devR fun x => { x with st := .halted, draining := true }), 3, by decide⟩,
   ⟨(devR fun x => { x with st := .halted, restart := true, rstcnt := 14, maxrst := 15, haltcause := 1 }), 3, fun m hm => by
      have h : m = (0, 9) := List.mem_singleton.mp hm
      subst h
      exact ⟨by decide, clean_of (by decide)⟩, by decide⟩,
   ⟨devT (fun c x => { x with removeDue := c == 11 }) [(true, 9), (true, 10), (true, 11)], 3, 2, 11, heldNone_of (by decide), by decide⟩,
   ⟨{ dev with cores := [(9, { Core.reset with st := .clearing })] }, 9, clearNone_of (by decide), by decide⟩,
   ⟨{ dev with cores := [(9, { Core.reset with st := .clearing })], ridges := [(3, { Ridge.reset with st := .dissolving, clearing := [9] })] }, 9, 3, fun k hk => by
      have h : (3 : Nat) ≠ k := fun h => hk h.symm
      simp [State.ridge, Tbl.get, h, Ridge.reset], by decide⟩⟩

theorem test_witness_ColSteps :
    (∃ (s : State) (r : Fin 64) (n : Fin 64) (k : Nat), s.needsFill ↑r = true ∧ massifOf ↑n = (s.ridge ↑r).massif ∧ s.cairnRuns = true ∧ s.pwr.st = PState.run ∧ (s.massif (s.ridge ↑r).massif).col = none ∧ s.available ↑r ↑n = true ∧ (s.ridge ↑r).emptySlot = some k ∧ k ≠ 0) ∧
    (∃ (s : State) (r : Fin 64) (n : Fin 64) (x : Nat) (a : Nat) (b : Nat), s.needsFill ↑r = true ∧ massifOf ↑n = (s.ridge ↑r).massif ∧ s.cairnRuns = true ∧ s.pwr.st = PState.run ∧ (s.massif (s.ridge ↑r).massif).col = none ∧ s.available ↑r ↑n = true ∧ (s.ridge ↑r).kind = 3 ∧ (s.ridge ↑r).members = [(false, x), (true, a), (true, b)] ∧ a ≠ b ∧ a ≠ ↑n ∧ b ≠ ↑n) ∧
    (∃ (s : State) (m : Fin 4) (pm : Bool) (k : Col) (src : Nat) (dst : Nat), s.Clean ((if pm = true then 64 else 0) + src) ∧ (s.massif ↑m).col = some k ∧ k.phase = 1 ∧ s.colSource ↑m = some (src, dst) ∧ src < 64 ∧ dst < 64 ∧ src ≠ dst ∧ (if pm = true then (s.massif ↑m).pmRows else (s.massif ↑m).dmRows) < if pm = true then 3072 else 4096) ∧
    (∃ (s : State) (m : Fin 4) (k : Col) (src : Nat) (dst : Nat), (s.massif ↑m).col = some k ∧ k.phase = 2 ∧ k.items = 0 ∧ s.colSource ↑m = some (src, dst) ∧ src ≠ dst) ∧
    (∃ (s : State) (m : Fin 4) (k : Col), (s.massif ↑m).col = some k ∧ (s.massif ↑m).prio = 0 ∧ k.phase = 1 ∧ k.prioOn = false ∧ k.startTick + (s.massif ↑m).prioDelay * 32000 ≤ s.tick) ∧
    (∃ (s : State) (m : Fin 4) (k : Col) (src : Nat) (dst : Nat), s.Clean src ∧ s.Clean (64 + src) ∧ (s.massif ↑m).col = some k ∧ k.phase = 1 ∧ k.prioOn = true ∧ s.colSource ↑m = some (src, dst) ∧ src < 64 ∧ dst < 64 ∧ src ≠ dst ∧ (s.massif ↑m).dmRows + 2 ≤ 4096 ∧ (s.massif ↑m).pmRows < 3072 ∧ (s.runners k.ridge).Nodup) :=
  ⟨⟨devT (fun _ x => x) [(true, 9), (true, 10), (false, 11)], 3, 12, 2, by decide⟩,
   ⟨devT (fun _ x => x) [(false, 9), (true, 10), (true, 11)], 3, 12, 9, 10, 11, by decide⟩,
   ⟨{ triad with cores := triad.cores ++ [(12, { Core.reset with st := .shadow, ridge := 3, slot := 2 })], ridges := [(3, { triad.ridge 3 with members := [(true, 9), (true, 10), (false, 11)] })], massifs := [(0, { Massif.reset with col := some { phase := 1, prioOn := false, rot := false, tslot := 2, sslot := 0, ridge := 3, newcore := 12, toTest := false, startTick := 0, owed := 0 }, dmRows := 4095 })] }, 0, false, { phase := 1, prioOn := false, rot := false, tslot := 2, sslot := 0, ridge := 3, newcore := 12, toTest := false, startTick := 0, owed := 0 }, 9, 12, clean_of (by decide), by decide⟩,
   ⟨{ triad with cores := triad.cores ++ [(12, { Core.reset with st := .shadow, ridge := 3, slot := 2 })], ridges := [(3, { triad.ridge 3 with members := [(true, 9), (true, 10), (false, 11)] })], massifs := [(0, { Massif.reset with col := some { phase := 2, prioOn := false, rot := false, tslot := 2, sslot := 0, ridge := 3, newcore := 12, toTest := false, startTick := 0, owed := 0 } })] }, 0, { phase := 2, prioOn := false, rot := false, tslot := 2, sslot := 0, ridge := 3, newcore := 12, toTest := false, startTick := 0, owed := 0 }, 9, 12, by decide⟩,
   ⟨{ triad with cores := triad.cores ++ [(12, { Core.reset with st := .shadow, ridge := 3, slot := 2 })], ridges := [(3, { triad.ridge 3 with members := [(true, 9), (true, 10), (false, 11)] })], massifs := [(0, { Massif.reset with col := some { phase := 1, prioOn := false, rot := false, tslot := 2, sslot := 0, ridge := 3, newcore := 12, toTest := false, startTick := 0, owed := 0 }, prioDelay := 0 })] }, 0, { phase := 1, prioOn := false, rot := false, tslot := 2, sslot := 0, ridge := 3, newcore := 12, toTest := false, startTick := 0, owed := 0 }, by decide⟩,
   ⟨{ triad with cores := triad.cores ++ [(12, { Core.reset with st := .shadow, ridge := 3, slot := 2 })], ridges := [(3, { triad.ridge 3 with members := [(true, 9), (true, 10), (false, 11)] })], massifs := [(0, { Massif.reset with col := some { phase := 1, prioOn := true, rot := false, tslot := 2, sslot := 0, ridge := 3, newcore := 12, toTest := false, startTick := 0, owed := 0 }, dmRows := 4094, pmRows := 3071 })] }, 0, { phase := 1, prioOn := true, rot := false, tslot := 2, sslot := 0, ridge := 3, newcore := 12, toTest := false, startTick := 0, owed := 0 }, 9, 12, clean_of (by decide), clean_of (by decide), by decide⟩⟩

theorem test_witness_ColSteps_2 :
    (∃ (s : State) (m : Fin 4) (k : Col) (src : Nat) (dst : Nat), (∀ (w : Nat), s.memSyn (64 + dst) w = 0) ∧ (s.massif ↑m).col = some k ∧ k.phase = 2 ∧ s.colSource ↑m = some (src, dst) ∧ (s.ridge k.ridge).running = true ∧ (s.core src).open_ = [] ∧ (s.core src).held = false ∧ src ≠ dst ∧ s.fcu.injArm = false ∧ k.rot = false) ∧
    (∃ (s : State) (m : Fin 4) (k : Col) (src : Nat) (dst : Nat), (∀ (w : Nat), s.memSyn (64 + dst) w = 0) ∧ (s.massif ↑m).col = some k ∧ k.phase = 2 ∧ s.colSource ↑m = some (src, dst) ∧ (s.ridge k.ridge).running = true ∧ (s.core src).open_ = [] ∧ (s.core src).held = false ∧ src ≠ dst ∧ s.fcu.injArm = false ∧ k.rot = true ∧ k.toTest = true ∧ (s.core src).recs = [] ∧ k.tslot = k.sslot) :=
  ⟨⟨{ triad with cores := triad.cores ++ [(12, { Core.reset with st := .shadow, ridge := 3, slot := 2 })], ridges := [(3, { triad.ridge 3 with members := [(true, 9), (true, 10), (false, 11)] })], massifs := [(0, { Massif.reset with col := some { phase := 2, prioOn := false, rot := false, tslot := 2, sslot := 0, ridge := 3, newcore := 12, toTest := false, startTick := 0, owed := 0 } })] }, 0, { phase := 2, prioOn := false, rot := false, tslot := 2, sslot := 0, ridge := 3, newcore := 12, toTest := false, startTick := 0, owed := 0 }, 9, 12, noSyn_of (by decide), by decide⟩,
   ⟨{ triad with cores := triad.cores ++ [(12, { Core.reset with st := .shadow, ridge := 3, slot := 2 })], ridges := [(3, { triad.ridge 3 with members := [(true, 9), (true, 10), (false, 11)] })], massifs := [(0, { Massif.reset with col := some { phase := 2, prioOn := false, rot := true, tslot := 0, sslot := 0, ridge := 3, newcore := 12, toTest := true, startTick := 0, owed := 0 } })] }, 0, { phase := 2, prioOn := false, rot := true, tslot := 0, sslot := 0, ridge := 3, newcore := 12, toTest := true, startTick := 0, owed := 0 }, 9, 12, noSyn_of (by decide), by decide⟩⟩

theorem test_witness_SelfTests :
    (∃ (s : State) (c : Fin 64), (s.core ↑c).st = CoreSt.test ∧ (s.core ↑c).bSlices = 0 ∧ (s.core ↑c).testFor ≠ some TestFor.inPlace) ∧
    (∃ (s : State) (c : Fin 64), (s.core ↑c).st = CoreSt.test ∧ 1 ≤ (s.core ↑c).bSlices ∧ (s.core ↑c).bSlices < 8) ∧
    (∃ (s : State) (c : Fin 64), (s.core ↑c).st = CoreSt.test ∧ (s.core ↑c).bSlices = 8 ∧ (s.core ↑c).testFor ≠ some TestFor.inPlace) ∧
    (∃ (s : State) (c : Fin 64), (s.core ↑c).st = CoreSt.test ∧ (s.core ↑c).testFor ≠ some TestFor.inPlace) ∧
    (∃ (s : State) (c : Fin 64), (s.core ↑c).st = CoreSt.quarantined ∧ s.cairnRuns = true ∧ s.pwr.st = PState.run) ∧
    (∃ (s : State) (r : Fin 64) (n : Fin 64) (k : Fin 3) (c : Nat), s.rotates (s.ridge ↑r).massif ↑r = true ∧ (s.ridge ↑r).members[↑k]? = some (true, c) ∧ (s.massif (s.ridge ↑r).massif).col = none ∧ massifOf ↑n = (s.ridge ↑r).massif ∧ s.available ↑r ↑n = true ∧ s.cairnRuns = true ∧ s.pwr.st = PState.run ∧ s.fcu.fatal = false ∧ (s.massif (s.ridge ↑r).massif).rotEn = true ∧ s.nextRotation (s.ridge ↑r).massif = some (↑r, ↑k) ∧ (∀ (d : Nat), (s.massif (s.ridge ↑r).massif).rotCore = some d → (s.core d).st = CoreSt.member) ∧ (∀ (p : Nat),   (s.massif (s.ridge ↑r).massif).rotLast = some p → p + max 10 (s.massif (s.ridge ↑r).massif).rotStep * 320000 ≤ s.tick) ∧ (s.massif (s.ridge ↑r).massif).rotAgain = [] ∧ s.cairn.jobs = [] ∧ c ≠ ↑n) :=
  ⟨⟨{ dev with cores := [(63, { Core.reset with st := .test, bSlices := 0, testFor := none })] }, 63, by decide⟩,
   ⟨{ dev with cores := [(63, { Core.reset with st := .test, bSlices := 7, testFor := none })] }, 63, by decide⟩,
   ⟨{ dev with cores := [(63, { Core.reset with st := .test, bSlices := 8, testFor := some .spare })] }, 63, by decide⟩,
   ⟨{ dev with cores := [(63, { Core.reset with st := .test, bSlices := 0, testFor := some .spare })] }, 63, by decide⟩,
   ⟨{ dev with cores := [(63, { Core.reset with st := .quarantined, bSlices := 0, testFor := none })] }, 63, by decide⟩,
   ⟨{ triad with massifs := [(0, { Massif.reset with rotEn := true })] }, 3, 12, 0, 9, by decide⟩⟩

theorem test_witness_ReferenceEvents :
    (∃ (s : State) (pin : Fin 16) (level : Bool), (∀ (d : Nat), (s.dom d).due = 0) ∧ s.pwr.st ≠ PState.off ∧ s.angIn.getLsbD ↑pin ≠ level) :=
  ⟨dev, 15, true, fun _ => rfl, by decide⟩

theorem test_witness_ReferenceEvents_2 :
    (∃ (s : State) (d : Fin 8) (ev : RefEv), (s.dom ↑d).Quiet ∧ (s.dom ↑d).st ≠ AdSt.off ∧ (s.dom ↑d).evs = [ev] ∧ ev.due ≤ s.tick ∧ ev.adv < (s.dom ↑d).cfg.span ∧ ev.rev = true) :=
  ⟨{ dev with doms := [(7, { Domain.reset with st := .track, evs := [{ ts := 100, angle := 0, due := 0, pin := 0, index := false, rev := true, spoiled := false, adv := 0, ptp := false }] })] }, 7, { ts := 100, angle := 0, due := 0, pin := 0, index := false, rev := true, spoiled := false, adv := 0, ptp := false }, quiet_of (by decide), by decide⟩

theorem test_witness_ReferenceEvents_3 :
    (∃ (s : State) (d : Fin 8) (ev : RefEv), (s.dom ↑d).Quiet ∧ (s.dom ↑d).st ≠ AdSt.off ∧ (s.dom ↑d).evs = [ev] ∧ ev.due ≤ s.tick ∧ ev.adv < (s.dom ↑d).cfg.span ∧ ev.rev = false ∧ ev.spoiled = false ∧ ¬(ev.ptp = true → s.isInstant (s.dom ↑d) = true)) :=
  ⟨{ dev with doms := [(7, { Domain.reset with st := .track, evs := [{ ts := 100, angle := 0, due := 0, pin := 0, index := false, rev := false, spoiled := false, adv := 0, ptp := true }], cfg := { AdCfg.reset with src := 3 } })] }, 7, { ts := 100, angle := 0, due := 0, pin := 0, index := false, rev := false, spoiled := false, adv := 0, ptp := true }, quiet_of (by decide), by decide⟩

theorem test_witness_ReferenceEvents_4 :
    (∃ (s : State) (d : Fin 8) (ev : RefEv), (s.dom ↑d).Quiet ∧ (s.dom ↑d).st ≠ AdSt.off ∧ (s.dom ↑d).evs = [ev] ∧ ev.due ≤ s.tick ∧ ev.adv < (s.dom ↑d).cfg.span ∧ ev.rev = false ∧ ev.spoiled = true) :=
  ⟨{ dev with doms := [(7, { Domain.reset with st := .track, evs := [{ ts := 100, angle := 0, due := 0, pin := 0, index := false, rev := false, spoiled := true, adv := 0, ptp := false }] })] }, 7, { ts := 100, angle := 0, due := 0, pin := 0, index := false, rev := false, spoiled := true, adv := 0, ptp := false }, quiet_of (by decide), by decide⟩

theorem test_witness_ReferenceEvents_5 :
    (∃ (s : State) (d : Fin 8) (ev : RefEv), (s.dom ↑d).Quiet ∧ (s.dom ↑d).st ≠ AdSt.off ∧ (s.dom ↑d).evs = [ev] ∧ ev.due ≤ s.tick ∧ ev.adv < (s.dom ↑d).cfg.span ∧ ev.rev = false ∧ ev.spoiled = false ∧ (ev.ptp = true → s.isInstant (s.dom ↑d) = true) ∧ ((s.dom ↑d).st = AdSt.track ∨ (s.dom ↑d).st = AdSt.locked ∨ (s.dom ↑d).st = AdSt.holdover) ∧ (s.dom ↑d).cfg.acc <   (if (ev.index || ev.ptp) = true then wrap24 (((s.dom d).cfg.phase : Int) - ((ev.angle % 2 ^ 24 : Nat) : Int))     else nearestError (s.dom ↑d).cfg.phase (ev.angle % 2 ^ 24) (s.dom ↑d).cfg.n).natAbs) :=
  ⟨{ dev with doms := [(7, { Domain.reset with st := .holdover, evs := [{ ts := 100, angle := 100, due := 0, pin := 0, index := true, rev := false, spoiled := false, adv := 0, ptp := false }], cfg := { AdCfg.reset with acc := 99 } })] }, 7, { ts := 100, angle := 100, due := 0, pin := 0, index := true, rev := false, spoiled := false, adv := 0, ptp := false }, quiet_of (by decide), by decide⟩

theorem test_witness_ReferenceEvents_6 :
    (∃ (s : State) (d : Fin 8) (ev : RefEv) (p : Nat), (s.dom ↑d).Quiet ∧ (s.dom ↑d).st ≠ AdSt.off ∧ (s.dom ↑d).evs = [ev] ∧ ev.due ≤ s.tick ∧ ev.adv < (s.dom ↑d).cfg.span ∧ ev.rev = false ∧ ev.spoiled = false ∧ (ev.ptp = true → s.isInstant (s.dom ↑d) = true) ∧ ((s.dom ↑d).st = AdSt.track ∨ (s.dom ↑d).st = AdSt.locked) ∧ (if (ev.index || ev.ptp) = true then wrap24 (((s.dom d).cfg.phase : Int) - ((ev.angle % 2 ^ 24 : Nat) : Int))     else nearestError (s.dom ↑d).cfg.phase (ev.angle % 2 ^ 24) (s.dom ↑d).cfg.n).natAbs ≤   (s.dom ↑d).cfg.acc ∧ (s.dom ↑d).prevTs = some p ∧ p < ev.ts) :=
  ⟨{ dev with doms := [(7, { Domain.reset with st := .locked, evs := [{ ts := 100, angle := 100, due := 0, pin := 0, index := true, rev := false, spoiled := false, adv := 0, ptp := false }], cfg := { AdCfg.reset with acc := 100 }, prevTs := some 99 })] }, 7, { ts := 100, angle := 100, due := 0, pin := 0, index := true, rev := false, spoiled := false, adv := 0, ptp := false }, 99, quiet_of (by decide), by decide⟩

theorem test_witness_ReferenceEvents_7 :
    (∃ (s : State) (d : Fin 8) (ev : RefEv), (s.dom ↑d).Quiet ∧ (s.dom ↑d).st ≠ AdSt.off ∧ (s.dom ↑d).evs = [ev] ∧ ev.due ≤ s.tick ∧ ev.adv < (s.dom ↑d).cfg.span ∧ ev.rev = false ∧ ev.spoiled = false ∧ ev.ptp = false ∧ ((s.dom ↑d).st = AdSt.acquire ∨ (s.dom ↑d).st = AdSt.lost)) :=
  ⟨{ dev with doms := [(7, { Domain.reset with st := .lost, evs := [{ ts := 100, angle := 0, due := 0, pin := 0, index := false, rev := false, spoiled := false, adv := 0, ptp := false }] })] }, 7, { ts := 100, angle := 0, due := 0, pin := 0, index := false, rev := false, spoiled := false, adv := 0, ptp := false }, quiet_of (by decide), by decide⟩

theorem test_witness_ReferenceEvents_8 :
    (∃ (s : State) (d : Fin 8) (x : Domain), x.Quiet ∧ s.doms = [(↑d, x)] ∧ x.st = AdSt.acquire ∧ s.listens x = true ∧ s.pwr.st = PState.run ∧ x.evs = [] ∧ x.phase % 2 ^ 46 + x.freq < 2 ^ 46 ∧ s.ptp.untilSecond = 1 ∧ (s.ptp.ticks 1).sec ≠ s.ptp.sec ∧ (s.ptp.ticks 1).sec % x.cfg.den = 0 ∧ s.fcu.injArm = false) :=
  ⟨{ dev with doms := [(7, { Domain.reset with st := .acquire, cfg := { AdCfg.reset with src := 4, den := 1 } })], ptp := { Ptp.reset with synced := true, sec := 9, ns := 999999999, phase := 63 } }, 7, { Domain.reset with st := .acquire, cfg := { AdCfg.reset with src := 4, den := 1 } }, quiet_of (by decide), by decide⟩

theorem test_witness_DomainStates :
    (∃ (s : State) (d : Fin 8), (s.dom ↑d).st ≠ AdSt.off ∧ (s.dom ↑d).due = 1 ∧ (s.dom ↑d).dueTick ≤ s.tick ∧ (s.dom ↑d).evs = [] ∧ ((s.dom ↑d).st ≠ AdSt.free → (s.dom ↑d).adv < (s.dom ↑d).cfg.span) ∧ ((s.dom ↑d).st = AdSt.holdover → (s.dom ↑d).holds + 1 < (s.dom ↑d).cfg.hold) ∧ (s.dom ↑d).offStg = none ∧ (s.dom ↑d).stg = (s.dom ↑d).cfg) ∧
    (∃ (s : State) (d : Fin 8) (o : BitVec 24), (s.dom ↑d).st ≠ AdSt.off ∧ (s.dom ↑d).due = 1 ∧ (s.dom ↑d).dueTick ≤ s.tick ∧ (s.dom ↑d).evs = [] ∧ ((s.dom ↑d).st ≠ AdSt.free → (s.dom ↑d).adv < (s.dom ↑d).cfg.span) ∧ ((s.dom ↑d).st = AdSt.holdover → (s.dom ↑d).holds + 1 < (s.dom ↑d).cfg.hold) ∧ (s.dom ↑d).offStg = some o ∧ (s.dom ↑d).stg = (s.dom ↑d).cfg) ∧
    (∃ (s : State) (d : Fin 8), (s.dom ↑d).st ≠ AdSt.off ∧ (s.dom ↑d).due = 1 ∧ (s.dom ↑d).dueTick ≤ s.tick ∧ (s.dom ↑d).evs = [] ∧ ((s.dom ↑d).st ≠ AdSt.free → (s.dom ↑d).adv < (s.dom ↑d).cfg.span) ∧ ((s.dom ↑d).st = AdSt.holdover → (s.dom ↑d).holds + 1 < (s.dom ↑d).cfg.hold) ∧ (s.dom ↑d).offStg = none ∧ (s.dom ↑d).stg ≠ (s.dom ↑d).cfg) ∧
    (∃ (s : State) (d : Fin 8) (x : Domain), s.BallsQuiet ∧ s.doms = [(↑d, x)] ∧ x.st = AdSt.free ∧ x.due = 0 ∧ x.back = 0 ∧ x.evs = [] ∧ x.offStg = none ∧ x.stg = x.cfg ∧ 0 < x.freq ∧ x.freq < 2 ^ 46 ∧ x.phase < 2 ^ 62 ∧ s.fcu.injArm = false) ∧
    (∃ (s : State) (d : Fin 8), (s.dom ↑d).due = 0 ∧ (s.dom ↑d).evs = [] ∧ (s.dom ↑d).cfg.span ≤ (s.dom ↑d).adv ∧ (s.dom ↑d).st = AdSt.acquire) ∧
    (∃ (s : State) (d : Fin 8), (s.dom ↑d).due = 0 ∧ (s.dom ↑d).evs = [] ∧ (s.dom ↑d).cfg.span ≤ (s.dom ↑d).adv ∧ ((s.dom ↑d).st = AdSt.track ∨ (s.dom ↑d).st = AdSt.locked) ∧ (s.dom ↑d).cfg.hold ≠ 0) :=
  ⟨⟨{ dev with doms := [(7, { Domain.reset with st := .track, due := 1 })] }, 7, by decide⟩,
   ⟨{ dev with doms := [(7, { Domain.reset with st := .track, due := 1, offStg := some 5 })] }, 7, 5, by decide⟩,
   ⟨{ dev with doms := [(7, { Domain.reset with st := .holdover, due := 1, stg := { AdCfg.reset with kp := 2 } })] }, 7, by decide⟩,
   ⟨{ dev with doms := [(7, { Domain.reset with st := .free, freq := 2 ^ 45 })] }, 7, { Domain.reset with st := .free, freq := 2 ^ 45 }, balls_of (by decide), by decide⟩,
   ⟨{ dev with doms := [(7, { Domain.reset with st := .acquire, adv := AdCfg.reset.span })] }, 7, by decide⟩,
   ⟨{ dev with doms := [(7, { Domain.reset with st := .locked, adv := AdCfg.reset.span })] }, 7, by decide⟩⟩

theorem test_witness_DomainStates_2 :
    (∃ (s : State) (d : Fin 8), (s.dom ↑d).due = 0 ∧ (s.dom ↑d).evs = [] ∧ (s.dom ↑d).cfg.span ≤ (s.dom ↑d).adv ∧ ((s.dom ↑d).st = AdSt.track ∨ (s.dom ↑d).st = AdSt.locked) ∧ (s.dom ↑d).cfg.hold = 0) ∧
    (∃ (s : State) (d : Fin 8), (s.dom ↑d).due = 0 ∧ (s.dom ↑d).evs = [] ∧ (s.dom ↑d).cfg.span ≤ (s.dom ↑d).adv ∧ ((s.dom ↑d).st = AdSt.holdover ∨ (s.dom ↑d).st = AdSt.lost) ∧ ((s.dom ↑d).st = AdSt.holdover → (s.dom ↑d).holds < (s.dom ↑d).cfg.hold)) ∧
    (∃ (s : State) (d : Fin 8), (s.dom ↑d).st = AdSt.holdover ∧ (s.dom ↑d).cfg.hold ≤ (s.dom ↑d).holds ∧ (s.dom ↑d).due = 0 ∧ (s.dom ↑d).evs = [] ∧ (s.dom ↑d).adv < (s.dom ↑d).cfg.span) :=
  ⟨⟨{ dev with doms := [(7, { Domain.reset with st := .track, cfg := { AdCfg.reset with hold := 0 }, adv := AdCfg.reset.span })] }, 7, by decide⟩,
   ⟨{ dev with doms := [(7, { Domain.reset with st := .lost, adv := AdCfg.reset.span })] }, 7, by decide⟩,
   ⟨{ dev with doms := [(7, { Domain.reset with st := .holdover, holds := 250 })] }, 7, by decide⟩⟩

theorem test_witness_CapturesAndWalker :
    (∃ (s : State) (u : Fin 32) (q : CapTrig) (rest : List CapTrig), (q.rec_ = none → (s.dom q.domain).st = AdSt.off ∨ (s.dom q.domain).Quiet ∧ (s.dom q.domain).evs = []) ∧ (s.cap ↑u).trigs = q :: rest ∧ (s.cap ↑u).valid = false) ∧
    (∃ (s : State) (u : Fin 32) (q : CapTrig) (rest : List CapTrig), (q.rec_ = none → (s.dom q.domain).st = AdSt.off ∨ (s.dom q.domain).Quiet ∧ (s.dom q.domain).evs = []) ∧ (s.cap ↑u).trigs = q :: rest ∧ (s.cap ↑u).valid = true) ∧
    (∃ (s : State) (d : Fin 8), (s.dom ↑d).Quiet ∧ (s.dom ↑d).st ≠ AdSt.off ∧ (s.dom ↑d).evs = [] ∧ (s.dom ↑d).cur = [] ∧ (s.dom ↑d).hold = none ∧ atOrBehind ((s.dom ↑d).pos * 2 ^ 12) (s.dom ↑d).held = true) ∧
    (∃ (s : State) (d : Fin 8) (k : Nat) (i : Nat), (s.dom ↑d).Quiet ∧ s.Clean 132 ∧ (s.dom ↑d).st ≠ AdSt.off ∧ (s.dom ↑d).evs = [] ∧ (s.dom ↑d).hold = none ∧ (s.dom ↑d).comps.length < 64 ∧ s.nextList ↑d = some (k, i) ∧ astArmed (s.wordData 132 (2 * i + 0 / 2) / 2 ^ (32 * (0 % 2)) % 2 ^ 32)     (s.wordData 132 (2 * i + 2 / 2) / 2 ^ (32 * (2 % 2)) % 2 ^ 32)     (s.wordData 132 (2 * i + 3 / 2) / 2 ^ (32 * (3 % 2)) % 2 ^ 32) (s.dom ↑d).rdBin =   false) ∧
    (∃ (s : State) (d : Fin 8) (k : Nat) (i : Nat), (s.dom ↑d).Quiet ∧ s.Clean 132 ∧ (s.dom ↑d).st ≠ AdSt.off ∧ (s.dom ↑d).evs = [] ∧ (s.dom ↑d).hold = none ∧ (s.dom ↑d).comps.length < 64 ∧ s.nextList ↑d = some (k, i) ∧ astArmed (s.wordData 132 (2 * i + 0 / 2) / 2 ^ (32 * (0 % 2)) % 2 ^ 32)     (s.wordData 132 (2 * i + 2 / 2) / 2 ^ (32 * (2 % 2)) % 2 ^ 32)     (s.wordData 132 (2 * i + 3 / 2) / 2 ^ (32 * (3 % 2)) % 2 ^ 32) (s.dom ↑d).rdBin =   true ∧ atOrBehind (occAngle (s.dom ↑d).rdBin k (s.wordData 132 (2 * i + 0 / 2) / 2 ^ (32 * (0 % 2)) % 2 ^ 32 % 2 ^ 24))     (s.dom ↑d).held =   false) ∧
    (∃ (s : State) (d : Fin 8) (o : Comp), (s.dom ↑d).Quiet ∧ (s.dom ↑d).st ≠ AdSt.off ∧ (s.dom ↑d).evs = [] ∧ (s.dom ↑d).comps = [o] ∧ (s.dom ↑d).compDue s.tick o = true ∧ (¬(aheadOf o.angle ((s.dom ↑d).fmAt s.tick) = true ∨       o.angle = (s.dom ↑d).fm ∧ (s.dom ↑d).fmEnts ≠ [] ∧ o.entry ∉ (s.dom ↑d).fmEnts) ∨   (s.dom ↑d).gate = false)) :=
  ⟨⟨{ dev with caps := [(31, { CapUnit.reset with trigs := [{ tick := 0, domain := 7, rec_ := none }] })] }, 31, { tick := 0, domain := 7, rec_ := none }, [], fun _ => .inr ⟨quiet_of (by decide), by decide⟩, by decide⟩,
   ⟨{ dev with caps := [(31, { CapUnit.reset with trigs := [{ tick := 0, domain := 7, rec_ := none }], valid := true })] }, 31, { tick := 0, domain := 7, rec_ := none }, [], fun _ => .inr ⟨quiet_of (by decide), by decide⟩, by decide⟩,
   ⟨{ dev with doms := [(7, { Domain.reset with st := .track })] }, 7, quiet_of (by decide), by decide⟩,
   ⟨{ dev with doms := [(7, { Domain.reset with st := .track, cur := [(0, 5)] })] }, 7, 0, 5, quiet_of (by decide), clean_of (by decide), by decide⟩,
   ⟨astDev, 7, 0, 0, quiet_of (by decide), clean_of (by decide), by decide⟩,
   ⟨{ dev with tick := 1, doms := [(7, { Domain.reset with st := .locked, comps := [{ angle := 5, entry := 1, w0 := 0x18000000, w1 := 1, tick := 0, late := false, skip := false }], phase := 6 <<< 22, fm := 5 })] }, 7, { angle := 5, entry := 1, w0 := 0x18000000, w1 := 1, tick := 0, late := false, skip := false }, quiet_of (by decide), by decide⟩⟩

theorem test_witness_CapturesAndWalker_2 :
    (∃ (s : State) (d : Fin 8) (o : Comp), (s.dom ↑d).Quiet ∧ (s.dom ↑d).st ≠ AdSt.off ∧ (s.dom ↑d).evs = [] ∧ (s.dom ↑d).comps = [o] ∧ (s.dom ↑d).compDue s.tick o = true ∧ (aheadOf o.angle ((s.dom ↑d).fmAt s.tick) = true ∨   o.angle = (s.dom ↑d).fm ∧ (s.dom ↑d).fmEnts ≠ [] ∧ o.entry ∉ (s.dom ↑d).fmEnts) ∧ (s.dom ↑d).gate = true ∧ o.late = false ∧ o.skip = false ∧ bitsOf (BitVec.toNat o.w0) 31 28 = 1) ∧
    (∃ (s : State) (d : Fin 8) (o : Comp), (s.dom ↑d).Quiet ∧ (s.dom ↑d).st ≠ AdSt.off ∧ (s.dom ↑d).evs = [] ∧ (s.dom ↑d).comps = [o] ∧ (s.dom ↑d).compDue s.tick o = true ∧ (aheadOf o.angle ((s.dom ↑d).fmAt s.tick) = true ∨   o.angle = (s.dom ↑d).fm ∧ (s.dom ↑d).fmEnts ≠ [] ∧ o.entry ∉ (s.dom ↑d).fmEnts) ∧ (s.dom ↑d).gate = true ∧ o.late = false ∧ o.skip = false ∧ bitsOf (BitVec.toNat o.w0) 31 28 = 2) ∧
    (∃ (s : State) (d : Fin 8) (o : Comp), (s.dom ↑d).Quiet ∧ (s.dom ↑d).st ≠ AdSt.off ∧ (s.dom ↑d).evs = [] ∧ (s.dom ↑d).comps = [o] ∧ (s.dom ↑d).compDue s.tick o = true ∧ (aheadOf o.angle ((s.dom ↑d).fmAt s.tick) = true ∨   o.angle = (s.dom ↑d).fm ∧ (s.dom ↑d).fmEnts ≠ [] ∧ o.entry ∉ (s.dom ↑d).fmEnts) ∧ (s.dom ↑d).gate = true ∧ o.late = false ∧ o.skip = false ∧ bitsOf (BitVec.toNat o.w0) 31 28 = 3 ∧ s.pinLive (bitsOf (BitVec.toNat o.w1) 15 0 % 128) 2 = false) ∧
    (∃ (s : State) (d : Fin 8) (o : Comp), (s.dom ↑d).Quiet ∧ (∀ (a : Nat × Bool × List (Nat × Nat)), (s.gp (bitsOf (BitVec.toNat o.w1) 15 0 % 128)).acts = some a → a.1 ≠ s.tick) ∧ (s.dom ↑d).st ≠ AdSt.off ∧ (s.dom ↑d).evs = [] ∧ (s.dom ↑d).comps = [o] ∧ (s.dom ↑d).compDue s.tick o = true ∧ (aheadOf o.angle ((s.dom ↑d).fmAt s.tick) = true ∨   o.angle = (s.dom ↑d).fm ∧ (s.dom ↑d).fmEnts ≠ [] ∧ o.entry ∉ (s.dom ↑d).fmEnts) ∧ (s.dom ↑d).gate = true ∧ o.late = false ∧ o.skip = false ∧ bitsOf (BitVec.toNat o.w0) 31 28 = 3 ∧ s.pinLive (bitsOf (BitVec.toNat o.w1) 15 0 % 128) 2 = true ∧ (s.gp (bitsOf (BitVec.toNat o.w1) 15 0 % 128)).swAt ≠ some s.tick) ∧
    (∃ (s : State) (d : Fin 8) (o : Comp), (s.dom ↑d).Quiet ∧ (s.dom ↑d).st ≠ AdSt.off ∧ (s.dom ↑d).evs = [] ∧ (s.dom ↑d).comps = [o] ∧ (s.dom ↑d).compDue s.tick o = true ∧ (aheadOf o.angle ((s.dom ↑d).fmAt s.tick) = true ∨   o.angle = (s.dom ↑d).fm ∧ (s.dom ↑d).fmEnts ≠ [] ∧ o.entry ∉ (s.dom ↑d).fmEnts) ∧ (s.dom ↑d).gate = true ∧ o.late = false ∧ o.skip = false ∧ bitsOf (BitVec.toNat o.w0) 31 28 = 4 ∧ (s.cap (bitsOf (BitVec.toNat o.w1) 15 0 % 32)).triggered s.tick = false ∧ (s.cap (bitsOf (BitVec.toNat o.w1) 15 0 % 32)).was = none) ∧
    (∃ (s : State) (d : Fin 8) (o : Comp), (s.dom ↑d).Quiet ∧ (s.dom ↑d).st ≠ AdSt.off ∧ (s.dom ↑d).evs = [] ∧ (s.dom ↑d).comps = [o] ∧ (s.dom ↑d).compDue s.tick o = true ∧ (aheadOf o.angle ((s.dom ↑d).fmAt s.tick) = true ∨   o.angle = (s.dom ↑d).fm ∧ (s.dom ↑d).fmEnts ≠ [] ∧ o.entry ∉ (s.dom ↑d).fmEnts) ∧ (s.dom ↑d).gate = true ∧ o.skip = false ∧ o.late = true ∧ bitsOf (BitVec.toNat o.w0) 31 28 = 1) :=
  ⟨⟨{ dev with tick := 1, doms := [(7, { Domain.reset with st := .locked, comps := [{ angle := 5, entry := 1, w0 := 0x18000000, w1 := 1, tick := 0, late := false, skip := false }], phase := 6 <<< 22, fm := 4 })] }, 7, { angle := 5, entry := 1, w0 := 0x18000000, w1 := 1, tick := 0, late := false, skip := false }, quiet_of (by decide), by decide⟩,
   ⟨{ dev with tick := 1, doms := [(7, { Domain.reset with st := .locked, comps := [{ angle := 5, entry := 1, w0 := 0x28000000, w1 := 0x003F, tick := 0, late := false, skip := false }], phase := 6 <<< 22, fm := 4 })] }, 7, { angle := 5, entry := 1, w0 := 0x28000000, w1 := 0x003F, tick := 0, late := false, skip := false }, quiet_of (by decide), by decide⟩,
   ⟨{ dev with tick := 1, doms := [(7, { Domain.reset with st := .locked, comps := [{ angle := 5, entry := 1, w0 := 0x38000000, w1 := 0x005F, tick := 0, late := false, skip := false }], phase := 6 <<< 22, fm := 4 })] }, 7, { angle := 5, entry := 1, w0 := 0x38000000, w1 := 0x005F, tick := 0, late := false, skip := false }, quiet_of (by decide), by decide⟩,
   ⟨{ dev with tick := 1, doms := [(7, { Domain.reset with st := .locked, comps := [{ angle := 5, entry := 1, w0 := 0x38000000, w1 := 0x005E, tick := 0, late := false, skip := false }], phase := 6 <<< 22, fm := 4 })], gps := [(94, { GpPin.reset with src := 2 })] }, 7, { angle := 5, entry := 1, w0 := 0x38000000, w1 := 0x005E, tick := 0, late := false, skip := false }, quiet_of (by decide), fun a h => (nomatch (show (none : Option (Nat × Bool × List (Nat × Nat))) = some a from h)), by decide⟩,
   ⟨{ dev with tick := 1, doms := [(7, { Domain.reset with st := .locked, comps := [{ angle := 5, entry := 1, w0 := 0x48000000, w1 := 0x001F, tick := 0, late := false, skip := false }], phase := 6 <<< 22, fm := 4 })] }, 7, { angle := 5, entry := 1, w0 := 0x48000000, w1 := 0x001F, tick := 0, late := false, skip := false }, quiet_of (by decide), by decide⟩,
   ⟨{ dev with tick := 1, doms := [(7, { Domain.reset with st := .locked, comps := [{ angle := 5, entry := 1, w0 := 0x18000000, w1 := 1, tick := 0, late := true, skip := false }], phase := 6 <<< 22, fm := 5, fmEnts := [2] })] }, 7, { angle := 5, entry := 1, w0 := 0x18000000, w1 := 1, tick := 0, late := true, skip := false }, quiet_of (by decide), by decide⟩⟩

theorem test_witness_LinkedEntries :
    (∃ (s : State) (i : BitVec 19) (l : AstLink) (x : Nat), s.Clean 132 ∧ Tbl.find s.ast.links i.toNat = some l ∧ s.pwr.st = PState.run ∧ s.cairnRuns = true ∧ s.pwr.classB = true ∧ s.ecc.injArm = false ∧ l.indef = some x ∧ (s.dom (bitsOf (BitVec.toNat l.w0) 26 24)).st ≠ AdSt.off ∧ ((s.dom (bitsOf (BitVec.toNat l.w0) 26 24)).cyc + 2 ^ 16 - x) % 2 ^ 16 < 2 ^ 15) ∧
    (∃ (s : State) (i : BitVec 19) (l : AstLink) (u : Int), Tbl.find s.ast.links i.toNat = some l ∧ s.pwr.st = PState.run ∧ s.cairnRuns = true ∧ s.pwr.classB = true ∧ s.ecc.injArm = false ∧ l.ends = some u ∧ (s.dom (bitsOf (BitVec.toNat l.w0) 26 24)).st ≠ AdSt.off ∧ u ≤ (s.dom (bitsOf (BitVec.toNat l.w0) 26 24)).turns - ↑(s.dom (bitsOf (BitVec.toNat l.w0) 26 24)).back ∧ Tbl.find s.ast.heads (listKey (BitVec.toNat l.w0) (BitVec.toNat l.w3)) = some i.toNat) ∧
    (∃ (s : State) (i : BitVec 19) (l : AstLink) (u : Int) (p : Nat), s.Clean 132 ∧ Tbl.find s.ast.links i.toNat = some l ∧ s.pwr.st = PState.run ∧ s.cairnRuns = true ∧ s.pwr.classB = true ∧ s.ecc.injArm = false ∧ l.ends = some u ∧ (s.dom (bitsOf (BitVec.toNat l.w0) 26 24)).st ≠ AdSt.off ∧ u ≤ (s.dom (bitsOf (BitVec.toNat l.w0) 26 24)).turns - ↑(s.dom (bitsOf (BitVec.toNat l.w0) 26 24)).back ∧ Tbl.find s.ast.heads (listKey (BitVec.toNat l.w0) (BitVec.toNat l.w3)) = some p ∧ p ≠ i.toNat ∧ p < 2 ^ 19 ∧ s.entryHi p / 2 ^ 32 % 2 ^ 19 = i.toNat ∧ 2 ≤ List.length s.ast.links) ∧
    (∃ (s : State) (i : BitVec 19) (l : AstLink), Tbl.find s.ast.links i.toNat = some l ∧ s.pwr.st = PState.run ∧ s.cairnRuns = true ∧ s.pwr.classB = true ∧ s.ecc.injArm = false ∧ ((s.eccRead 132 (2 * i.toNat)).2.1 = true ∨ (s.eccRead 132 (2 * i.toNat + 1)).2.1 = true)) :=
  ⟨⟨{ dev with doms := [(7, { Domain.reset with st := .track })], ast := { Ast.reset with links := [(5, { indef := some 0, ends := none, w0 := 0x1F000FFF, w1 := 1, w2 := 0, w3 := 0, next := 5 })], heads := [(258048, 5)] } }, 5, { indef := some 0, ends := none, w0 := 0x1F000FFF, w1 := 1, w2 := 0, w3 := 0, next := 5 }, 0, clean_of (by decide), by decide⟩,
   ⟨{ dev with doms := [(7, { Domain.reset with st := .track })], ast := { Ast.reset with links := [(5, { indef := none, ends := some 0, w0 := 0x1F000FFF, w1 := 1, w2 := 0, w3 := 0, next := 5 })], heads := [(258048, 5)] } }, 5, { indef := none, ends := some 0, w0 := 0x1F000FFF, w1 := 1, w2 := 0, w3 := 0, next := 5 }, 0, by decide⟩,
   ⟨{ dev with doms := [(7, { Domain.reset with st := .track })], ast := { Ast.reset with links := [(5, { indef := none, ends := some 0, w0 := 0x1F000FFF, w1 := 1, w2 := 0, w3 := 0, next := 5 }), (4, { indef := none, ends := none, w0 := 0x1F000FFF, w1 := 1, w2 := 0, w3 := 0, next := 5 })], heads := [(258048, 4)] }, mem := [(memKey 0x84 (4 * 16 + 12), 5)] }, 5, { indef := none, ends := some 0, w0 := 0x1F000FFF, w1 := 1, w2 := 0, w3 := 0, next := 5 }, 0, 4, clean_of (by decide), by decide⟩,
   ⟨{ dev with doms := [(7, { Domain.reset with st := .track })], ast := { Ast.reset with links := [(5, { indef := none, ends := none, w0 := 0x1F000FFF, w1 := 1, w2 := 0, w3 := 0, next := 5 })], heads := [(258048, 5)] }, syn := [(synKey 0x84 10, 0xFF)] }, 5, { indef := none, ends := none, w0 := 0x1F000FFF, w1 := 1, w2 := 0, w3 := 0, next := 5 }, by decide⟩⟩

theorem test_witness_MassifBanks :
    (∃ (s : State) (m : Fin 4) (bank : Fin 32) (p : Nat) (q : PortReq) (rest : List PortReq) (j : Nat), (∃ e l, Tbl.get [] (s.massif ↑m).ports j = e :: l ∧ e.banks.contains ↑bank = true) ∧ (s.massif ↑m).winner ↑bank = some p ∧ Tbl.get [] (s.massif ↑m).ports p = q :: rest ∧ j < 20 ∧ Tbl.get 0 (s.massif ↑m).rr ↑bank < 20) ∧
    (∃ (s : State) (m : Fin 4) (bank : Fin 32) (p : Nat) (q : PortReq) (rest : List PortReq) (r : Nat) (l : LoadReq), s.Clean (128 + ↑m) ∧ (s.massif ↑m).winner ↑bank = some p ∧ Tbl.get [] (s.massif ↑m).ports p = q :: rest ∧ q.banks = [↑bank] ∧ q.got = [] ∧ q.req.mask = [] ∧ 0 < q.req.size ∧ BitVec.toNat q.req.addr % 8 + q.req.size ≤ 8 ∧ BitVec.toNat q.req.addr / 8 % 32 = ↑bank ∧ q.req.write = false ∧ q.who = Requester.load r ∧ (s.ridge r).loads = [l] ∧ l.req = q.req ∧ l.sent = true ∧ l.ready = false) ∧
    (∃ (s : State) (m : Fin 4) (bank : Fin 32) (p : Nat) (q : PortReq) (rest : List PortReq) (r : Nat) (f : Posted), s.Clean (128 + ↑m) ∧ (s.massif ↑m).winner ↑bank = some p ∧ Tbl.get [] (s.massif ↑m).ports p = q :: rest ∧ q.banks = [↑bank] ∧ q.got = [] ∧ q.req.mask = [] ∧ 0 < q.req.size ∧ BitVec.toNat q.req.addr % 8 + q.req.size ≤ 8 ∧ BitVec.toNat q.req.addr / 8 % 32 = ↑bank ∧ q.req.write = true ∧ q.who = Requester.store r ∧ (s.ridge r).flying = [f] ∧ f.req = q.req ∧ f.ready = false ∧ q.req.data.length = q.req.size ∧ (∀ b ∈ q.req.data, b.2 = false) ∧ s.pwr.classB = true) :=
  ⟨⟨{ (devR fun x => { x with loads := [{ req := { write := false, addr := 0x20000FFC, size := 4, data := [] }, data := [], err := none, behind := 0, sent := true, ready := false }] }) with massifs := [(0, { Massif.reset with ports := [(19, [{ who := .load 3, req := { write := false, addr := 0x20000FFC, size := 4, data := [] }, banks := [31], got := [], waited := 0 }])], rr := [(31, 19)] })] }, 0, 31, 19, { who := .load 3, req := { write := false, addr := 0x20000FFC, size := 4, data := [] }, banks := [31], got := [], waited := 0 }, [], 19, ⟨{ who := .load 3, req := { write := false, addr := 0x20000FFC, size := 4, data := [] }, banks := [31], got := [], waited := 0 }, [], by decide, by decide⟩, by decide⟩,
   ⟨{ (devR fun x => { x with loads := [{ req := { write := false, addr := 0x20000FFC, size := 4, data := [] }, data := [], err := none, behind := 0, sent := true, ready := false }] }) with massifs := [(0, { Massif.reset with ports := [(19, [{ who := .load 3, req := { write := false, addr := 0x20000FFC, size := 4, data := [] }, banks := [31], got := [], waited := 0 }])], rr := [(31, 19)] })] }, 0, 31, 19, { who := .load 3, req := { write := false, addr := 0x20000FFC, size := 4, data := [] }, banks := [31], got := [], waited := 0 }, [], 3, { req := { write := false, addr := 0x20000FFC, size := 4, data := [] }, data := [], err := none, behind := 0, sent := true, ready := false }, clean_of (by decide), by decide⟩,
   ⟨{ (devR fun x => { x with flying := [{ req := { write := true, addr := 0x20000FFC, size := 4, data := [(1, false), (2, false), (3, false), (4, false)] }, resp := none, ready := false }] }) with massifs := [(0, { Massif.reset with ports := [(19, [{ who := .store 3, req := { write := true, addr := 0x20000FFC, size := 4, data := [(1, false), (2, false), (3, false), (4, false)] }, banks := [31], got := [], waited := 0 }])], rr := [(31, 19)] })] }, 0, 31, 19, { who := .store 3, req := { write := true, addr := 0x20000FFC, size := 4, data := [(1, false), (2, false), (3, false), (4, false)] }, banks := [31], got := [], waited := 0 }, [], 3, { req := { write := true, addr := 0x20000FFC, size := 4, data := [(1, false), (2, false), (3, false), (4, false)] }, resp := none, ready := false }, clean_of (by decide +kernel), by decide +kernel⟩⟩

theorem test_witness_ScrubbersAndTestPort :
    (∃ (s : State) (u : Byte), (∀ (l : Nat), (s.scrub (u.toNat)).last = some l → l + 2 ^ (s.scrub (u.toNat)).rate / 2 ≤ s.tick) ∧ (s.scrub (u.toNat)).en = true ∧ 0 < memWords (u.toNat) ∧ s.scrubLive (u.toNat) = true ∧ (s.scrub (u.toNat)).wb = none ∧ s.fcu.injArm = false ∧ s.memSyn (u.toNat) (s.scrub (u.toNat)).next = 0 ∧ (s.scrub (u.toNat)).next + 1 < memWords (u.toNat)) ∧
    (∃ (s : State) (u : Byte), (∀ (l : Nat), (s.scrub (u.toNat)).last = some l → l + 2 ^ (s.scrub (u.toNat)).rate / 2 ≤ s.tick) ∧ (s.scrub (u.toNat)).en = true ∧ 0 < memWords (u.toNat) ∧ s.scrubLive (u.toNat) = true ∧ (s.scrub (u.toNat)).wb = none ∧ s.fcu.injArm = false ∧ s.memSyn (u.toNat) (s.scrub (u.toNat)).next = 0 ∧ (s.scrub (u.toNat)).next + 1 = memWords (u.toNat)) ∧
    (∃ (s : State) (u : Byte), (∀ (l : Nat), (s.scrub (u.toNat)).last = some l → l + 2 ^ (s.scrub (u.toNat)).rate / 2 ≤ s.tick) ∧ (s.scrub (u.toNat)).en = true ∧ 0 < memWords (u.toNat) ∧ s.scrubLive (u.toNat) = true ∧ (s.scrub (u.toNat)).wb = none ∧ s.fcu.injArm = false ∧ eccOutcome (u.toNat) (BitVec.toNat (s.memSyn (u.toNat) (s.scrub (u.toNat)).next)) = 1 ∧ (s.scrub (u.toNat)).next + 1 < memWords (u.toNat)) ∧
    (∃ (s : State) (u : Byte), (∀ (l : Nat), (s.scrub (u.toNat)).last = some l → l + 2 ^ (s.scrub (u.toNat)).rate / 2 ≤ s.tick) ∧ (s.scrub (u.toNat)).en = true ∧ 0 < memWords (u.toNat) ∧ s.scrubLive (u.toNat) = true ∧ (s.scrub (u.toNat)).wb = none ∧ s.fcu.injArm = false ∧ eccOutcome (u.toNat) (BitVec.toNat (s.memSyn (u.toNat) (s.scrub (u.toNat)).next)) = 2 ∧ (s.scrub (u.toNat)).next + 1 < memWords (u.toNat)) ∧
    (∃ (s : State) (u : Byte) (w : Nat) (b : Bool), s.MemWf ∧ (s.scrub (u.toNat)).en = true ∧ 0 < memWords (u.toNat) ∧ s.scrubLive (u.toNat) = true ∧ (s.scrub (u.toNat)).wb = some (w, b) ∧ w < memWords (u.toNat) ∧ s.ecc.injArm = false ∧ s.fcu.injArm = false ∧ (isClassB (u.toNat) = true → s.pwr.classB = true)) ∧
    (∃ (s : State) (u : Byte), (s.scrub (u.toNat)).en = true ∧ 0 < memWords (u.toNat) ∧ s.scrubLive (u.toNat) = true ∧ (s.scrub (u.toNat)).overd = false ∧ (s.scrub (u.toNat)).limit ≠ 0 ∧ (s.scrub (u.toNat)).began + (s.scrub (u.toNat)).limit * 320000 ≤ s.tick) :=
  ⟨⟨{ dev with tick := 320000, scrubs := [(0x88, { Scrub.reset with next := 32766 })] }, 0x88, nofun, by decide⟩,
   ⟨{ dev with tick := 320000, scrubs := [(0x88, { Scrub.reset with next := 32767 })] }, 0x88, nofun, by decide⟩,
   ⟨{ dev with tick := 320000, scrubs := [(0x88, { Scrub.reset with next := 5 })], syn := [(synKey 0x88 5, 1)] }, 0x88, nofun, by decide⟩,
   ⟨{ dev with tick := 320000, scrubs := [(0x88, { Scrub.reset with next := 5 })], syn := [(synKey 0x88 5, 3)] }, 0x88, nofun, by decide⟩,
   ⟨{ dev with tick := 320000, scrubs := [(0x88, { Scrub.reset with wb := some (32767, false) })] }, 0x88, 32767, false, wf_of (by decide), by decide⟩,
   ⟨{ dev with tick := 320000, scrubs := [(0x88, { Scrub.reset with limit := 1 })] }, 0x88, by decide⟩⟩

theorem test_witness_ScrubbersAndTestPort_2 :
    (∃ (s : State), s.ecc.busy = true ∧ s.ecc.origin = none ∧ s.ecc.op = 1) ∧
    (∃ (s : State), s.MemWf ∧ s.ecc.busy = true ∧ s.ecc.origin = none ∧ s.ecc.op = 2 ∧ s.ecc.tWord < memWords s.ecc.tMem ∧ (isClassB s.ecc.tMem = true → s.pwr.classB = true)) :=
  ⟨⟨{ dev with ecc := { Ecc.reset with busy := true, op := 1 } }, by decide⟩,
   ⟨{ dev with ecc := { Ecc.reset with busy := true, op := 2, tMem := 0x88, tWord := 32767 } }, wf_of (by decide), by decide⟩⟩

theorem test_witness_DmaTransfers :
    (∃ (s : State) (m : Fin 4) (k : Fin 4) (r : Fin 64), s.Writes (↑r) (dmaCtrlAddr ↑m ↑k) (262144 + 4096 * ↑m + 64 * ↑k + 36) ∧ (s.dma (4 * ↑m + ↑k)).owner = some ↑r ∧ s.pwr.st = PState.run ∧ (s.dma (4 * ↑m + ↑k)).busy = false) ∧
    (∃ (s : State) (m : Fin 4) (k : Fin 4) (r : Fin 64), s.Writes (↑r) (dmaCtrlAddr ↑m ↑k) (262144 + 4096 * ↑m + 64 * ↑k + 36) ∧ (s.dma (4 * ↑m + ↑k)).owner = some ↑r ∧ s.pwr.st = PState.run ∧ (s.dma (4 * ↑m + ↑k)).busy = true) ∧
    (∃ (s : State) (m : Fin 4) (k : Fin 4) (a : Nat) (f : ChFire) (rest : List ChFire), (s.chan a).waiting = f :: rest ∧ (f.ckind = 2 ∧ f.cindex % 16 = 4 * ↑m + ↑k) ∧ f.lim = 0 ∧ (s.chan a).masked = false ∧ (List.map (fun x ↦ x.1) s.chans).Nodup ∧ (∀ e ∈ s.chans, e.1 ≠ a → ∀ g ∈ e.2.waiting, ¬(g.ckind = 2 ∧ g.cindex % 16 = 4 * ↑m + ↑k))) ∧
    (∃ (s : State) (m : Fin 4) (k : Fin 4), (∀ e ∈ s.chans,   (∀ g ∈ e.2.waiting, ¬(g.ckind = 2 ∧ g.cindex % 16 = 4 * ↑m + ↑k)) ∧ ¬(e.2.ckind = 2 ∧ e.2.cindex % 16 = 4 * ↑m + ↑k))) ∧
    (∃ (s : State) (m : Fin 4) (k : Fin 4) (r : Fin 64), s.Writes (↑r) (dmaCtrlAddr ↑m ↑k) (262144 + 4096 * ↑m + 64 * ↑k + 36) ∧ (s.dma (4 * ↑m + ↑k)).owner = some ↑r ∧ (s.dma (4 * ↑m + ↑k)).busy = true) ∧
    (∃ (s : State) (m : Fin 4) (k : Fin 4) (r : Nat) (kind : Nat), (s.dma (4 * ↑m + ↑k)).owner = some r ∧ (s.dma (4 * ↑m + ↑k)).busy = true ∧ (s.dma (4 * ↑m + ↑k)).toRead ≠ 0 ∧ (s.dma (4 * ↑m + ↑k)).reads.length < 4 ∧ (s.dma (4 * ↑m + ↑k)).stopReq = false ∧ s.dmaCheck r false (BitVec.toNat (s.dma (4 * ↑m + ↑k)).readAddr)     ({ write := false, addr := (s.dma (4 * ↑m + ↑k)).readAddr, size := 2 ^ (s.dma (4 * ↑m + ↑k)).esize.toNat,         data := [] } : Req).size =   some kind) :=
  ⟨⟨{ dev with massifs := [(0, { Massif.reset with regions := [(0, { en := true, limit := 511, base := 0, rd := 8, wr := 8 })], dma := [(3, { Dma.reset with owner := some 3, cnt := 1 })] })] }, 0, 3, 3, writes_of (by decide), by decide⟩,
   ⟨{ dev with massifs := [(0, { Massif.reset with regions := [(0, { en := true, limit := 511, base := 0, rd := 8, wr := 8 })], dma := [(3, { Dma.reset with owner := some 3, busy := true })] })] }, 0, 3, 3, writes_of (by decide), by decide⟩,
   ⟨{ dev with chans := [(255, { Channel.reset with waiting := [{ tick := 5, ckind := 2, param := 0, cindex := 3, lim := 0, automask := false }] })], massifs := [(0, { Massif.reset with regions := [(0, { en := true, limit := 511, base := 0, rd := 8, wr := 8 })], dma := [(3, { Dma.reset with owner := some 3, cnt := 1 })] })] }, 0, 3, 255, { tick := 5, ckind := 2, param := 0, cindex := 3, lim := 0, automask := false }, [], by decide⟩,
   ⟨{ dev with massifs := [(0, { Massif.reset with regions := [(0, { en := true, limit := 511, base := 0, rd := 8, wr := 8 })], dma := [(3, { Dma.reset with owner := some 3, cnt := 1 })] })] }, 0, 3, by decide⟩,
   ⟨{ dev with massifs := [(0, { Massif.reset with regions := [(0, { en := true, limit := 511, base := 0, rd := 8, wr := 8 })], dma := [(3, { Dma.reset with owner := some 3, busy := true })] })] }, 0, 3, 3, writes_of (by decide), by decide⟩,
   ⟨{ dev with massifs := [(0, { Massif.reset with regions := [(0, { en := true, limit := 511, base := 0, rd := 8, wr := 8 })], dma := [(3, { Dma.reset with owner := some 3, busy := true, toRead := 1, src := 0x08000000 })] })] }, 0, 3, 3, 0, by decide⟩⟩

theorem test_witness_DmaTransfers_2 :
    (∃ (s : State) (m : Fin 4) (k : Fin 4) (r : Nat) (mm : Nat), (s.dma (4 * ↑m + ↑k)).owner = some r ∧ (s.dma (4 * ↑m + ↑k)).busy = true ∧ (s.dma (4 * ↑m + ↑k)).toRead ≠ 0 ∧ (s.dma (4 * ↑m + ↑k)).reads.length < 4 ∧ (s.dma (4 * ↑m + ↑k)).stopReq = false ∧ s.dmaCheck r false (BitVec.toNat (s.dma (4 * ↑m + ↑k)).readAddr)     ({ write := false, addr := (s.dma (4 * ↑m + ↑k)).readAddr, size := 2 ^ (s.dma (4 * ↑m + ↑k)).esize.toNat,         data := [] } : Req).size =   none ∧ rowOf (BitVec.toNat (s.dma (4 * ↑m + ↑k)).readAddr) ≠ some Row.dm ∧ s.massifOfAddr r (BitVec.toNat (s.dma (4 * ↑m + ↑k)).readAddr) = some mm) ∧
    (∃ (s : State) (m : Fin 4) (k : Fin 4) (r : Nat) (e : DmaRead) (rest : List DmaRead) (kind : Nat), (s.dma (4 * ↑m + ↑k)).owner = some r ∧ (s.dma (4 * ↑m + ↑k)).busy = true ∧ (s.dma (4 * ↑m + ↑k)).reads = e :: rest ∧ e.ready = true ∧ (s.dma (4 * ↑m + ↑k)).stopReq = false ∧ (s.dma (4 * ↑m + ↑k)).rstReq = false ∧ e.err = some kind) ∧
    (∃ (s : State) (m : Fin 4) (k : Fin 4) (r : Nat) (e : DmaRead) (rest : List DmaRead) (mm : Nat), (s.dma (4 * ↑m + ↑k)).owner = some r ∧ (s.dma (4 * ↑m + ↑k)).busy = true ∧ (s.dma (4 * ↑m + ↑k)).reads = e :: rest ∧ e.ready = true ∧ (s.dma (4 * ↑m + ↑k)).stopReq = false ∧ (s.dma (4 * ↑m + ↑k)).rstReq = false ∧ e.err = none ∧ s.dmaCheck r true (BitVec.toNat (s.dma (4 * ↑m + ↑k)).dst)     ({ write := true, addr := (s.dma (4 * ↑m + ↑k)).dst, size := 2 ^ (s.dma (4 * ↑m + ↑k)).esize.toNat,         data := e.data } : Req).size =   none ∧ rowOf (BitVec.toNat (s.dma (4 * ↑m + ↑k)).dst) ≠ some Row.dm ∧ s.massifOfAddr r (BitVec.toNat (s.dma (4 * ↑m + ↑k)).dst) = some mm) ∧
    (∃ (s : State) (m : Fin 4) (k : Fin 4) (q : Req) (rest : List (Req × Option Nat × Bool)) (kind : Nat), (s.dma (4 * ↑m + ↑k)).busy = true ∧ (s.dma (4 * ↑m + ↑k)).writes = (q, some kind, true) :: rest ∧ (s.dma (4 * ↑m + ↑k)).rstReq = false) ∧
    (∃ (s : State) (m : Fin 4) (k : Fin 4) (q : Req) (rest : List (Req × Option Nat × Bool)), (s.dma (4 * ↑m + ↑k)).busy = true ∧ (s.dma (4 * ↑m + ↑k)).writes = (q, none, true) :: rest ∧ rest ≠ []) ∧
    (∃ (s : State) (m : Fin 4) (k : Fin 4) (q : Req), (s.dma (4 * ↑m + ↑k)).busy = true ∧ (s.dma (4 * ↑m + ↑k)).writes = [(q, none, true)] ∧ (s.dma (4 * ↑m + ↑k)).reads = [] ∧ (s.dma (4 * ↑m + ↑k)).toRead = 0 ∧ (s.dma (4 * ↑m + ↑k)).rstReq = true) :=
  ⟨⟨{ dev with massifs := [(0, { Massif.reset with regions := [(0, { en := true, limit := 511, base := 0, rd := 8, wr := 8 })], dma := [(3, { Dma.reset with owner := some 3, busy := true, toRead := 1, src := 0x20000000 })] })] }, 0, 3, 3, 0, by decide⟩,
   ⟨{ dev with massifs := [(0, { Massif.reset with regions := [(0, { en := true, limit := 511, base := 0, rd := 8, wr := 8 })], dma := [(3, { Dma.reset with owner := some 3, busy := true, reads := [{ req := { write := false, addr := 0x20000000, size := 4, data := [] }, data := [(1, false), (2, false), (3, false), (4, false)], err := some 1, ready := true }] })] })] }, 0, 3, 3, { req := { write := false, addr := 0x20000000, size := 4, data := [] }, data := [(1, false), (2, false), (3, false), (4, false)], err := some 1, ready := true }, [], 1, by decide⟩,
   ⟨{ dev with massifs := [(0, { Massif.reset with regions := [(0, { en := true, limit := 511, base := 0, rd := 8, wr := 8 })], dma := [(3, { Dma.reset with owner := some 3, busy := true, dst := 0x20000000, reads := [{ req := { write := false, addr := 0x20000000, size := 4, data := [] }, data := [(1, false), (2, false), (3, false), (4, false)], err := none, ready := true }] })] })] }, 0, 3, 3, { req := { write := false, addr := 0x20000000, size := 4, data := [] }, data := [(1, false), (2, false), (3, false), (4, false)], err := none, ready := true }, [], 0, by decide⟩,
   ⟨{ dev with massifs := [(0, { Massif.reset with regions := [(0, { en := true, limit := 511, base := 0, rd := 8, wr := 8 })], dma := [(3, { Dma.reset with owner := some 3, busy := true, writes := [({ write := true, addr := 0x20000000, size := 4, data := [] }, some 1, true)] })] })] }, 0, 3, { write := true, addr := 0x20000000, size := 4, data := [] }, [], 1, by decide⟩,
   ⟨{ dev with massifs := [(0, { Massif.reset with regions := [(0, { en := true, limit := 511, base := 0, rd := 8, wr := 8 })], dma := [(3, { Dma.reset with owner := some 3, busy := true, writes := [({ write := true, addr := 0x20000000, size := 4, data := [] }, none, true), ({ write := true, addr := 0x20000000, size := 4, data := [] }, none, false)] })] })] }, 0, 3, { write := true, addr := 0x20000000, size := 4, data := [] }, [({ write := true, addr := 0x20000000, size := 4, data := [] }, none, false)], by decide⟩,
   ⟨{ dev with massifs := [(0, { Massif.reset with regions := [(0, { en := true, limit := 511, base := 0, rd := 8, wr := 8 })], dma := [(3, { Dma.reset with owner := some 3, busy := true, rstReq := true, writes := [({ write := true, addr := 0x20000000, size := 4, data := [] }, none, true)] })] })] }, 0, 3, { write := true, addr := 0x20000000, size := 4, data := [] }, by decide⟩⟩

theorem test_witness_DmaTransfers_3 :
    (∃ (s : State) (m : Fin 4) (k : Fin 4) (q : Req), (s.dma (4 * ↑m + ↑k)).busy = true ∧ (s.dma (4 * ↑m + ↑k)).writes = [(q, none, true)] ∧ (s.dma (4 * ↑m + ↑k)).reads = [] ∧ (s.dma (4 * ↑m + ↑k)).toRead = 0 ∧ (s.dma (4 * ↑m + ↑k)).rstReq = false) ∧
    (∃ (s : State) (m : Fin 4) (k : Fin 4), (s.dma (4 * ↑m + ↑k)).busy = true ∧ (s.dma (4 * ↑m + ↑k)).stopReq = true ∧ (s.dma (4 * ↑m + ↑k)).rstReq = false) ∧
    (∃ (s : State) (m : Fin 4) (k : Fin 4), (s.dma (4 * ↑m + ↑k)).busy = true ∧ (s.dma (4 * ↑m + ↑k)).stopReq = true ∧ (s.dma (4 * ↑m + ↑k)).rstReq = true) :=
  ⟨⟨{ dev with massifs := [(0, { Massif.reset with regions := [(0, { en := true, limit := 511, base := 0, rd := 8, wr := 8 })], dma := [(3, { Dma.reset with owner := some 3, busy := true, writes := [({ write := true, addr := 0x20000000, size := 4, data := [] }, none, true)] })] })] }, 0, 3, { write := true, addr := 0x20000000, size := 4, data := [] }, by decide⟩,
   ⟨{ dev with massifs := [(0, { Massif.reset with regions := [(0, { en := true, limit := 511, base := 0, rd := 8, wr := 8 })], dma := [(3, { Dma.reset with owner := some 3, busy := true, stopReq := true })] })] }, 0, 3, by decide⟩,
   ⟨{ dev with massifs := [(0, { Massif.reset with regions := [(0, { en := true, limit := 511, base := 0, rd := 8, wr := 8 })], dma := [(3, { Dma.reset with owner := some 3, busy := true, stopReq := true, rstReq := true })] })] }, 0, 3, by decide⟩⟩

theorem test_witness_EventFabric :
    (∃ (s : State) (ch : Fin 256) (f : ChFire) (rest : List ChFire), ((s.chan ↑ch).upTo s.tick).waiting = f :: rest ∧ ((s.chan ↑ch).upTo s.tick).masked = false ∧ (f.lim = 0 ∨   (if ((s.chan ↑ch).upTo s.tick).win = s.window f.tick then ((s.chan ↑ch).upTo s.tick).wcount + 1 else 1) ≠ f.lim + 1) ∧ f.ckind = 1 ∧ (s.ridge (f.cindex / 16 % 64)).running = true ∧ Tbl.get 0 (s.ridge (f.cindex / 16 % 64)).taskCnt (f.cindex % 16) < 255) ∧
    (∃ (s : State) (ch : Fin 256) (f : ChFire) (rest : List ChFire), ((s.chan ↑ch).upTo s.tick).waiting = f :: rest ∧ ((s.chan ↑ch).upTo s.tick).masked = true ∧ (f.lim = 0 ∨   (if ((s.chan ↑ch).upTo s.tick).win = s.window f.tick then ((s.chan ↑ch).upTo s.tick).wcount + 1 else 1) ≠ f.lim + 1)) ∧
    (∃ (s : State) (ch : Fin 256) (f : ChFire) (rest : List ChFire), ((s.chan ↑ch).upTo s.tick).waiting = f :: rest ∧ f.lim ≠ 0 ∧ (if ((s.chan ↑ch).upTo s.tick).win = s.window f.tick then ((s.chan ↑ch).upTo s.tick).wcount + 1 else 1) = f.lim + 1 ∧ f.automask = true) ∧
    (∃ (s : State) (ch : Fin 256) (e : Nat), (s.chan ↑ch).refr = some e ∧ e ≤ s.tick ∧ (s.chan ↑ch).waiting = [] ∧ (s.chan ↑ch).held = false) ∧
    (∃ (s : State) (ch : Fin 256) (e : Nat), (s.chan ↑ch).refr = some e ∧ e ≤ s.tick ∧ (s.chan ↑ch).waiting = [] ∧ (s.chan ↑ch).held = true ∧ (s.chan ↑ch).masked = true ∧ (((s.chan ↑ch).firing e).lim = 0 ∨   (if (s.chan ↑ch).win = s.window e then (s.chan ↑ch).wcount + 1 else 1) ≠ ((s.chan ↑ch).firing e).lim + 1)) ∧
    (∃ (s : State) (ch : Fin 256) (e : Nat), (s.chan ↑ch).refr = some e ∧ e ≤ s.tick ∧ (s.chan ↑ch).waiting = [] ∧ (s.chan ↑ch).held = true ∧ (s.chan ↑ch).masked = false ∧ (((s.chan ↑ch).firing e).lim = 0 ∨   (if (s.chan ↑ch).win = s.window e then (s.chan ↑ch).wcount + 1 else 1) ≠ ((s.chan ↑ch).firing e).lim + 1) ∧ ((s.chan ↑ch).firing e).ckind = 0) :=
  ⟨⟨{ dev with tick := 5, chans := [(255, { Channel.reset with owner := some 3, waiting := [{ tick := 5, ckind := 1, param := 0, cindex := 63, lim := 1, automask := false }] })] }, 255, { tick := 5, ckind := 1, param := 0, cindex := 63, lim := 1, automask := false }, [], by decide⟩,
   ⟨{ dev with tick := 5, chans := [(255, { Channel.reset with owner := some 3, waiting := [{ tick := 5, ckind := 1, param := 0, cindex := 63, lim := 1, automask := false }], masked := true })] }, 255, { tick := 5, ckind := 1, param := 0, cindex := 63, lim := 1, automask := false }, [], by decide⟩,
   ⟨{ dev with tick := 5, chans := [(255, { Channel.reset with owner := some 3, waiting := [{ tick := 5, ckind := 1, param := 0, cindex := 63, lim := 1, automask := true }], wcount := 1 })] }, 255, { tick := 5, ckind := 1, param := 0, cindex := 63, lim := 1, automask := true }, [], by decide⟩,
   ⟨{ dev with tick := 5, chans := [(255, { Channel.reset with owner := some 3, refr := some 5 })] }, 255, 5, by decide⟩,
   ⟨{ dev with tick := 5, chans := [(255, { Channel.reset with owner := some 3, refr := some 5, held := true, masked := true })] }, 255, 5, by decide⟩,
   ⟨{ dev with tick := 5, chans := [(255, { Channel.reset with owner := some 3, refr := some 5, held := true, wcount := 99 })] }, 255, 5, by decide⟩⟩

theorem test_witness_EventFabric_2 :
    (∃ (s : State) (ch : Fin 256) (e : Nat), (s.chan ↑ch).refr = some e ∧ e ≤ s.tick ∧ (s.chan ↑ch).waiting = [] ∧ (s.chan ↑ch).held = true ∧ (s.chan ↑ch).masked = false ∧ (((s.chan ↑ch).firing e).lim = 0 ∨   (if (s.chan ↑ch).win = s.window e then (s.chan ↑ch).wcount + 1 else 1) ≠ ((s.chan ↑ch).firing e).lim + 1) ∧ ((s.chan ↑ch).firing e).ckind = 1 ∧ (s.ridge (((s.chan ↑ch).firing e).cindex / 16 % 64)).running = true) ∧
    (∃ (s : State), s.BallsQuiet ∧ (∀ e ∈ s.doms, e.2.st = AdSt.off ∧ e.2.commitReq = false) ∧ s.fcu.injArm = false) :=
  ⟨⟨{ dev with tick := 5, chans := [(255, { Channel.reset with owner := some 3, refr := some 5, held := true, ckind := 1, cindex := 63 })] }, 255, 5, by decide⟩,
   ⟨{ dev with doms := [(7, Domain.reset)] }, balls_of (by decide), by decide⟩⟩

theorem test_witness_ChainPorts :
    (∃ (s : State) (n : Fin 64) (t : Train), (s.port ↑n).train = some t ∧ t.sent = true) ∧
    (∃ (s : State) (n : Fin 64) (t : Train), (s.port ↑n).train = some t ∧ t.sent = false ∧ s.leadsPair ↑n = false) ∧
    (∃ (s : State) (n : Fin 64) (t : Train), (s.port ↑n).train = some t ∧ t.sent = false ∧ s.leadsPair ↑n = true) ∧
    (∃ (s : State) (n : Fin 64) (t : Train) (line : LinkErrors), s.dualPair ↑n = false ∧ (s.port ↑n).train = some t ∧ t.sent = true ∧ (received (s.port ↑n).wire line).getLast? ≠ some PChar.eot) ∧
    (∃ (s : State) (n : Fin 64) (t : Train) (line : LinkErrors), s.Clean 134 ∧ (∀ k < t.n, ∃ x, (t.slots (received (s.port ↑n).wire line) [])[k]? = some x ∧ x.present = true ∧ x.crcOk = true) ∧ s.dualPair ↑n = false ∧ (s.port ↑n).train = some t ∧ t.sent = true ∧ (received (s.port ↑n).wire line).getLast? = some PChar.eot) ∧
    (∃ (s : State) (n : Fin 64) (t : Train), s.Clean 134 ∧ s.dualPair ↑n = false ∧ (s.port ↑n).train = some t ∧ (s.port ↑n).rxd = none) :=
  ⟨⟨{ dev with tick := 320000, ports := [(63, { ChPort.reset with train := some { desc := 0, seq := 1, safe := false, late := false, skip := false, evp := false, occ := 0, lag := 0, cmds := [], sent := true, tick := 0, entry := 0, header := [], d := 0, u := 2, ubase := 0, n := 1 } })] }, 63, { desc := 0, seq := 1, safe := false, late := false, skip := false, evp := false, occ := 0, lag := 0, cmds := [], sent := true, tick := 0, entry := 0, header := [], d := 0, u := 2, ubase := 0, n := 1 }, by decide +kernel⟩,
   ⟨{ dev with tick := 320000, ports := [(63, { ChPort.reset with train := some { desc := 0, seq := 1, safe := false, late := false, skip := false, evp := false, occ := 0, lag := 0, cmds := [], sent := false, tick := 0, entry := 0, header := [], d := 0, u := 2, ubase := 0, n := 1 } })] }, 63, { desc := 0, seq := 1, safe := false, late := false, skip := false, evp := false, occ := 0, lag := 0, cmds := [], sent := false, tick := 0, entry := 0, header := [], d := 0, u := 2, ubase := 0, n := 1 }, by decide +kernel⟩,
   ⟨{ dev with ports := [(62, { ChPort.reset with dualNow := true, train := some { desc := 0, seq := 1, safe := false, late := false, skip := false, evp := false, occ := 0, lag := 0, cmds := [], sent := false, tick := 0, entry := 0, header := [], d := 0, u := 2, ubase := 0, n := 1 } })] }, 62, { desc := 0, seq := 1, safe := false, late := false, skip := false, evp := false, occ := 0, lag := 0, cmds := [], sent := false, tick := 0, entry := 0, header := [], d := 0, u := 2, ubase := 0, n := 1 }, by decide +kernel⟩,
   ⟨{ dev with tick := 320000, ports := [(63, { ChPort.reset with train := some { desc := 0, seq := 1, safe := false, late := false, skip := false, evp := false, occ := 0, lag := 0, cmds := [], sent := true, tick := 0, entry := 0, header := [], d := 0, u := 2, ubase := 0, n := 1 } })] }, 63, { desc := 0, seq := 1, safe := false, late := false, skip := false, evp := false, occ := 0, lag := 0, cmds := [], sent := true, tick := 0, entry := 0, header := [], d := 0, u := 2, ubase := 0, n := 1 }, [], by decide +kernel⟩,
   ⟨{ dev with tick := 320000, ports := [(63, { ChPort.reset with train := some { desc := 0, seq := 1, safe := false, late := false, skip := false, evp := false, occ := 0, lag := 0, cmds := [], sent := true, tick := 0, entry := 0, header := [], d := 0, u := 2, ubase := 0, n := 1 }, wire := List.replicate 19 PChar.idle ++ dataChars ([1, 2] ++ crcField [1, 2] false) ++ [.eot] })] }, 63, { desc := 0, seq := 1, safe := false, late := false, skip := false, evp := false, occ := 0, lag := 0, cmds := [], sent := true, tick := 0, entry := 0, header := [], d := 0, u := 2, ubase := 0, n := 1 }, [], clean_of (by decide +kernel), fun k hk => by
      obtain rfl : k = 0 := Nat.lt_one_iff.mp hk
      exact ⟨{ present := true, crcOk := true, fromB := false, data := [1, 2] }, by decide +kernel⟩, by decide +kernel⟩,
   ⟨{ dev with tick := 320000, ports := [(63, { ChPort.reset with train := some { desc := 0, seq := 1, safe := false, late := false, skip := false, evp := false, occ := 0, lag := 0, cmds := [], sent := true, tick := 0, entry := 0, header := [], d := 0, u := 2, ubase := 0, n := 1 } })] }, 63, { desc := 0, seq := 1, safe := false, late := false, skip := false, evp := false, occ := 0, lag := 0, cmds := [], sent := true, tick := 0, entry := 0, header := [], d := 0, u := 2, ubase := 0, n := 1 }, clean_of (by decide +kernel), by decide +kernel⟩⟩

theorem test_witness_ChainPorts_2 :
    (∃ (s : State) (n : Fin 64) (a : Option Byte) (got : Option Byte) (loc : Nat), ((s.port ↑n).sync = false ∧ got = a ∨   (s.port ↑n).sync = true ∧       (∀ k < (s.ringNodes ↑n).length, ¬((s.node (↑n) k).sync = false ∨ (s.node (↑n) k).brk = true)) ∧         got = a ∧ a ≠ none ∨     (s.port ↑n).sync = true ∧       ∃ k < (s.ringNodes ↑n).length,         ((s.node (↑n) k).sync = false ∨ (s.node (↑n) k).brk = true) ∧           (∀ i < (s.ringNodes ↑n).length, k < i → ¬((s.node (↑n) i).sync = false ∨ (s.node (↑n) i).brk = true)) ∧             got = some (if (s.node (↑n) k).st = NodeSt.unaddressed then 63 else BitVec.ofNat 8 (s.node (↑n) k).addr)) ∧ (got = none ∧ loc = 32 ∨ got = some (BitVec.ofNat 8 loc) ∧ loc ≤ 31 ∨ got = some 63 ∧ loc = 62) ∧ s.dualPair ↑n = false ∧ (s.port ↑n).en = true ∧ (s.port ↑n).st = 2 ∧ (s.port ↑n).broken = false) ∧
    (∃ (s : State) (n : Fin 64) (a : Option Byte) (got : Option Byte) (loc : Nat), ((s.port ↑n).sync = false ∧ got = a ∨   (s.port ↑n).sync = true ∧       (∀ k < (s.ringNodes ↑n).length, ¬((s.node (↑n) k).sync = false ∨ (s.node (↑n) k).brk = true)) ∧         got = a ∧ a ≠ none ∨     (s.port ↑n).sync = true ∧       ∃ k < (s.ringNodes ↑n).length,         ((s.node (↑n) k).sync = false ∨ (s.node (↑n) k).brk = true) ∧           (∀ i < (s.ringNodes ↑n).length, k < i → ¬((s.node (↑n) i).sync = false ∨ (s.node (↑n) i).brk = true)) ∧             got = some (if (s.node (↑n) k).st = NodeSt.unaddressed then 63 else BitVec.ofNat 8 (s.node (↑n) k).addr)) ∧ (got = none ∧ loc = 32 ∨ got = some (BitVec.ofNat 8 loc) ∧ loc ≤ 31 ∨ got = some 63 ∧ loc = 62) ∧ s.dualPair ↑n = false ∧ (s.port ↑n).en = true ∧ ((s.port ↑n).st = 1 ∨ (s.port ↑n).st = 4) ∧ (s.port ↑n).broken = false) ∧
    (∃ (s : State) (n : Fin 64) (a : Option Byte) (got : Option Byte) (loc : Nat), ((s.port ↑n).sync = false ∧ got = a ∨   (s.port ↑n).sync = true ∧       (∀ k < (s.ringNodes ↑n).length, ¬((s.node (↑n) k).sync = false ∨ (s.node (↑n) k).brk = true)) ∧         got = a ∧ a ≠ none ∨     (s.port ↑n).sync = true ∧       ∃ k < (s.ringNodes ↑n).length,         ((s.node (↑n) k).sync = false ∨ (s.node (↑n) k).brk = true) ∧           (∀ i < (s.ringNodes ↑n).length, k < i → ¬((s.node (↑n) i).sync = false ∨ (s.node (↑n) i).brk = true)) ∧             got = some (if (s.node (↑n) k).st = NodeSt.unaddressed then 63 else BitVec.ofNat 8 (s.node (↑n) k).addr)) ∧ (got = none ∧ loc = 32 ∨ got = some (BitVec.ofNat 8 loc) ∧ loc ≤ 31 ∨ got = some 63 ∧ loc = 62) ∧ s.dualPair ↑n = false ∧ (s.port ↑n).en = true ∧ (s.port ↑n).broken = true) ∧
    (∃ (s : State) (n : Fin 64), s.dualPair ↑n = false ∧ (s.port ↑n).en = false) ∧
    (∃ (s : State) (n : Fin 64), s.dualPair ↑n = false ∧ (s.port ↑n).sync = true ∧ (∀ k < (s.ringNodes ↑n).length, ¬((s.node (↑n) k).sync = false ∨ (s.node (↑n) k).brk = true))) ∧
    (∃ (s : State) (n : Fin 64) (b : Byte), s.dualPair ↑n = false ∧ (s.port ↑n).sync = false ∧ 31 < b.toNat ∧ b ≠ 63) :=
  ⟨⟨{ dev with tick := 320000, ports := [(63, { ChPort.reset with en := true, st := 2 })] }, 63, some 31, some 31, 31, .inl ⟨by decide +kernel, rfl⟩, .inr (.inl (by decide +kernel)), by decide +kernel⟩,
   ⟨{ dev with tick := 320000, ports := [(63, { ChPort.reset with en := true, st := 1 })] }, 63, none, none, 32, .inl ⟨by decide +kernel, rfl⟩, .inl (by decide +kernel), by decide +kernel⟩,
   ⟨{ dev with nodes := [(63 * 64, Node.reset)], tick := 320000, ports := [(63, { ChPort.reset with en := true, st := 3, sync := true, broken := true })] }, 63, none, some 63, 62, .inr (.inr ⟨by decide +kernel, 0, by decide +kernel, .inl (by decide +kernel),
      fun i h1 h2 => absurd (Nat.lt_of_lt_of_le h2 (Nat.le_of_lt_succ (show i < 1 from h1))) (Nat.lt_irrefl 0), by decide +kernel⟩), .inr (.inr (by decide +kernel)), by decide +kernel⟩,
   ⟨{ dev with tick := 320000, ports := [(63, { ChPort.reset with st := 0 })] }, 63, by decide +kernel⟩,
   ⟨{ dev with tick := 320000, ports := [(63, { ChPort.reset with sync := true, en := true })] }, 63, by decide +kernel⟩,
   ⟨{ dev with tick := 320000, ports := [(63, { ChPort.reset with st := 0 })] }, 63, 32, by decide +kernel⟩⟩

theorem test_witness_ChainPorts_3 :
    (∃ (s : State) (n : Fin 64) (t : Nat), s.dualPair ↑n = false ∧ (s.port ↑n).syncAt = some t ∧ t + 320000 ≤ s.tick ∧ (s.port ↑n).eotOk = true ∧ (s.port ↑n).broken = true ∧ (s.port ↑n).st = 3) ∧
    (∃ (s : State) (n : Fin 64), s.pwr.st ≠ PState.off ∧ (s.port ↑n).sync = false) ∧
    (∃ (s : State), s.pwr.st = PState.off) :=
  ⟨⟨{ dev with tick := 320000, ports := [(63, { ChPort.reset with st := 3, eotOk := true, broken := true, syncAt := some 0 })] }, 63, 0, by decide +kernel⟩,
   ⟨{ dev with tick := 320000, ports := [(63, { ChPort.reset with st := 0 })] }, 63, by decide +kernel⟩,
   ⟨{ dev with pwr := { dev.pwr with st := .off } }, by decide +kernel⟩⟩

theorem test_witness_ChainNodes :
    (∃ (s : State) (n : Fin 64) (k : Fin 64) (t : Train), s.dualPair ↑n = false ∧ s.fitted ↑n ↑k = true ∧ (s.port ↑n).train = some t ∧ t.sent = true ∧ (s.node ↑n ↑k).sync = false) ∧
    (∃ (s : State) (n : Fin 64) (k : Fin 64) (t : Train) (bad : List Nat) (other : List (Nat × Bool × Byte)), s.dualPair ↑n = false ∧ s.fitted ↑n ↑k = true ∧ (s.port ↑n).train = some t ∧ t.sent = true ∧ (s.node ↑n ↑k).sync = true ∧ ((s.node ↑n ↑k).st ≠ NodeSt.operational ∨ fieldAt (received (s.port ↑n).wire (linkErrors bad other)) 1 10 = none)) ∧
    (∃ (s : State) (n : Fin 64) (k : Fin 64) (t : Train) (bad : List Nat) (other : List (Nat × Bool × Byte)) (h : List Byte) (c : List Byte) (d : Nat) (u : Nat), s.dualPair ↑n = false ∧ s.fitted ↑n ↑k = true ∧ (s.port ↑n).train = some t ∧ t.sent = true ∧ (s.node ↑n ↑k).sync = true ∧ (s.node ↑n ↑k).st = NodeSt.operational ∧ fieldAt (received (s.port ↑n).wire (linkErrors bad other)) 1 10 = some h ∧ (s.node ↑n ↑k).conf = some c ∧ confDesc c (field h 0 1 % 16) = (true, d, u) ∧ (s.node ↑n ↑k).armed = false) ∧
    (∃ (s : State) (n : Fin 64) (k : Fin 64) (t : Train) (l : List PChar) (r : List PChar), s.dualPair ↑n = false ∧ s.fitted ↑n ↑k = true ∧ (s.node ↑n ↑k).armed = true ∧ (s.port ↑n).train = some t ∧ t.sent = true ∧ t.seq = field (s.node ↑n ↑k).slot 1 1 ∧ (s.node ↑n ↑k).filledA = true ∧ (s.node ↑n ↑k).slot.length = t.u ∧ (s.port ↑n).wire = l ++ slotChars (s.node ↑n ↑k).slot ++ r ∧ l.length = 15 + t.n * (t.d + 4) + (s.node ↑n ↑k).addr * (t.u + 4)) ∧
    (∃ (s : State) (n : Fin 64) (k : Fin 64), s.dualPair ↑n = false ∧ s.fitted ↑n ↑k = true ∧ (s.node ↑n ↑k).armed = true ∧ (s.node ↑n ↑k).applySafe = true) ∧
    (∃ (s : State) (n : Fin 64) (k : Fin 64) (c : List Byte), s.dualPair ↑n = false ∧ s.fitted ↑n ↑k = true ∧ (s.node ↑n ↑k).armed = true ∧ (s.node ↑n ↑k).applySafe = false ∧ (s.node ↑n ↑k).cmd = some c) :=
  ⟨⟨{ dev with tick := 320001, ports := [(63, { ChPort.reset with train := some { desc := 0, seq := 1, safe := false, late := false, skip := false, evp := false, occ := 0, lag := 0, cmds := [([7], false)], sent := true, tick := 0, entry := 0, header := [0, 9, 0, 0, 0, 0, 0, 0, 0, 0], d := 1, u := 2, ubase := 0, n := 1 } })], nodes := [(63 * 64 + 63, { Node.reset with st := .unaddressed })] }, 63, 63, { desc := 0, seq := 1, safe := false, late := false, skip := false, evp := false, occ := 0, lag := 0, cmds := [([7], false)], sent := true, tick := 0, entry := 0, header := [0, 9, 0, 0, 0, 0, 0, 0, 0, 0], d := 1, u := 2, ubase := 0, n := 1 }, by decide +kernel⟩,
   ⟨{ dev with tick := 320001, ports := [(63, { ChPort.reset with train := some { desc := 0, seq := 1, safe := false, late := false, skip := false, evp := false, occ := 0, lag := 0, cmds := [([7], false)], sent := true, tick := 0, entry := 0, header := [0, 9, 0, 0, 0, 0, 0, 0, 0, 0], d := 1, u := 2, ubase := 0, n := 1 } })], nodes := [(63 * 64 + 63, { Node.reset with sync := true })] }, 63, 63, { desc := 0, seq := 1, safe := false, late := false, skip := false, evp := false, occ := 0, lag := 0, cmds := [([7], false)], sent := true, tick := 0, entry := 0, header := [0, 9, 0, 0, 0, 0, 0, 0, 0, 0], d := 1, u := 2, ubase := 0, n := 1 }, [], [], by decide +kernel⟩,
   ⟨{ dev with tick := 320001, ports := [(63, { ChPort.reset with train := some { desc := 0, seq := 1, safe := false, late := false, skip := false, evp := false, occ := 0, lag := 0, cmds := [([7], false)], sent := true, tick := 0, entry := 0, header := [0, 9, 0, 0, 0, 0, 0, 0, 0, 0], d := 1, u := 2, ubase := 0, n := 1 }, wire := .sot :: dataChars ([0, 9, 0, 0, 0, 0, 0, 0, 0, 0] ++ crcField [0, 9, 0, 0, 0, 0, 0, 0, 0, 0] false) })], nodes := [(63 * 64 + 63, { Node.reset with sync := true, st := .operational, addr := 0, conf := some (List.replicate 6 0 ++ [0x81, 2] ++ List.replicate 94 0) })] }, 63, 63, { desc := 0, seq := 1, safe := false, late := false, skip := false, evp := false, occ := 0, lag := 0, cmds := [([7], false)], sent := true, tick := 0, entry := 0, header := [0, 9, 0, 0, 0, 0, 0, 0, 0, 0], d := 1, u := 2, ubase := 0, n := 1 }, [], [], [0, 9, 0, 0, 0, 0, 0, 0, 0, 0], List.replicate 6 0 ++ [0x81, 2] ++ List.replicate 94 0, 1, 2, by decide +kernel⟩,
   ⟨{ dev with tick := 320001, ports := [(63, { ChPort.reset with train := some { desc := 0, seq := 1, safe := false, late := false, skip := false, evp := false, occ := 0, lag := 0, cmds := [([7], false)], sent := true, tick := 0, entry := 0, header := [0, 9, 0, 0, 0, 0, 0, 0, 0, 0], d := 1, u := 2, ubase := 0, n := 1 }, wire := List.replicate 20 PChar.idle ++ slotChars [3, 1] ++ [.eot] })], nodes := [(63 * 64 + 63, { Node.reset with st := .operational, armed := true, filledA := true, slot := [3, 1] })] }, 63, 63, { desc := 0, seq := 1, safe := false, late := false, skip := false, evp := false, occ := 0, lag := 0, cmds := [([7], false)], sent := true, tick := 0, entry := 0, header := [0, 9, 0, 0, 0, 0, 0, 0, 0, 0], d := 1, u := 2, ubase := 0, n := 1 }, List.replicate 20 PChar.idle, [.eot], by decide +kernel⟩,
   ⟨{ dev with tick := 320001, ports := [(63, ChPort.reset)], nodes := [(63 * 64 + 63, { Node.reset with armed := true, applySafe := true })] }, 63, 63, by decide +kernel⟩,
   ⟨{ dev with tick := 320001, ports := [(63, ChPort.reset)], nodes := [(63 * 64 + 63, { Node.reset with armed := true, cmd := some [1] })] }, 63, 63, [1], by decide +kernel⟩⟩

theorem test_witness_ChainNodes_2 :
    (∃ (s : State) (n : Fin 64) (k : Fin 64), s.dualPair ↑n = false ∧ s.fitted ↑n ↑k = true ∧ (s.node ↑n ↑k).armed = true ∧ (s.node ↑n ↑k).applySafe = false ∧ (s.node ↑n ↑k).cmd = none) ∧
    (∃ (s : State) (n : Fin 64) (k : Fin 64), s.dualPair ↑n = false ∧ s.fitted ↑n ↑k = true ∧ (s.node ↑n ↑k).st = NodeSt.operational) ∧
    (∃ (s : State) (n : Fin 64) (k : Fin 64) (h : MgmtTrain), s.dualPair ↑n = false ∧ s.fitted ↑n ↑k = true ∧ (s.node ↑n ↑k).sync = true ∧ (s.node ↑n ↑k).brk = false ∧ mgmtOk h = true ∧ (h.addr = 255 ∨ (s.node ↑n ↑k).st ≠ NodeSt.unaddressed ∧ (s.node ↑n ↑k).addr = BitVec.toNat h.addr) ∧ h.mcmd = 1 ∧ BitVec.toNat h.cnt ≤ 31) ∧
    (∃ (s : State) (n : Fin 64) (k : Fin 64) (h : MgmtTrain), s.dualPair ↑n = false ∧ s.fitted ↑n ↑k = true ∧ (s.node ↑n ↑k).sync = true ∧ (s.node ↑n ↑k).brk = false ∧ mgmtOk h = true ∧ (h.addr = 255 ∨ (s.node ↑n ↑k).st ≠ NodeSt.unaddressed ∧ (s.node ↑n ↑k).addr = BitVec.toNat h.addr) ∧ h.mcmd = 1 ∧ 32 ≤ BitVec.toNat h.cnt) ∧
    (∃ (s : State) (n : Fin 64) (k : Fin 64) (h : MgmtTrain), s.dualPair ↑n = false ∧ s.fitted ↑n ↑k = true ∧ (s.node ↑n ↑k).sync = true ∧ (s.node ↑n ↑k).brk = false ∧ mgmtOk h = true ∧ (h.addr = 255 ∨ (s.node ↑n ↑k).st ≠ NodeSt.unaddressed ∧ (s.node ↑n ↑k).addr = BitVec.toNat h.addr) ∧ h.mcmd = 2 ∧ (s.node ↑n ↑k).st ≠ NodeSt.unaddressed) ∧
    (∃ (s : State) (n : Fin 64) (k : Fin 64) (h : MgmtTrain), s.dualPair ↑n = false ∧ s.fitted ↑n ↑k = true ∧ (s.node ↑n ↑k).sync = true ∧ (s.node ↑n ↑k).brk = false ∧ mgmtOk h = true ∧ (h.addr = 255 ∨ (s.node ↑n ↑k).st ≠ NodeSt.unaddressed ∧ (s.node ↑n ↑k).addr = BitVec.toNat h.addr) ∧ h.mcmd = 3 ∧ (s.node ↑n ↑k).st ≠ NodeSt.unaddressed ∧ mgmtPayloadOk h = true ∧ (s.node ↑n ↑k).accepts h.payload = true ∧ (s.node ↑n ↑k).fitsB h.slots.length = true) :=
  ⟨⟨{ dev with tick := 320001, ports := [(63, ChPort.reset)], nodes := [(63 * 64 + 63, { Node.reset with armed := true })] }, 63, 63, by decide +kernel⟩,
   ⟨{ dev with tick := 320001, ports := [(63, ChPort.reset)], nodes := [(63 * 64 + 63, { Node.reset with st := .operational })] }, 63, 63, by decide +kernel⟩,
   ⟨{ dev with tick := 320001, ports := [(63, ChPort.reset)], nodes := [(63 * 64 + 63, { Node.reset with sync := true, st := .addressed, addr := 31 })] }, 63, 63, mgmtSeal { mcmd := 1, addr := 31, cnt := 31, rlen := 0, plen := BitVec.ofNat 16 ([] : List Byte).length, hcrc := 0, payload := [], pcrc := BitVec.ofNat 32 (crc32c ([])), slots := [] }, by decide +kernel⟩,
   ⟨{ dev with tick := 320001, ports := [(63, ChPort.reset)], nodes := [(63 * 64 + 63, { Node.reset with sync := true, st := .addressed, addr := 31 })] }, 63, 63, mgmtSeal { mcmd := 1, addr := 31, cnt := 32, rlen := 0, plen := BitVec.ofNat 16 ([] : List Byte).length, hcrc := 0, payload := [], pcrc := BitVec.ofNat 32 (crc32c ([])), slots := [] }, by decide +kernel⟩,
   ⟨{ dev with tick := 320001, ports := [(63, ChPort.reset)], nodes := [(63 * 64 + 63, { Node.reset with sync := true, st := .addressed, addr := 31 })] }, 63, 63, mgmtSeal { mcmd := 2, addr := 255, cnt := 0, rlen := 0, plen := BitVec.ofNat 16 ([] : List Byte).length, hcrc := 0, payload := [], pcrc := BitVec.ofNat 32 (crc32c ([])), slots := [] }, by decide +kernel⟩,
   ⟨{ dev with tick := 320001, ports := [(63, ChPort.reset)], nodes := [(63 * 64 + 63, { Node.reset with sync := true, st := .addressed, addr := 31 })] }, 63, 63, mgmtSeal { mcmd := 3, addr := 31, cnt := 0, rlen := 0, plen := BitVec.ofNat 16 ([] : List Byte).length, hcrc := 0, payload := [], pcrc := BitVec.ofNat 32 (crc32c ([])), slots := [] }, by decide +kernel⟩⟩

theorem test_witness_ChainNodes_3 :
    (∃ (s : State) (n : Fin 64) (k : Fin 64) (h : MgmtTrain), s.dualPair ↑n = false ∧ s.fitted ↑n ↑k = true ∧ (s.node ↑n ↑k).sync = true ∧ (s.node ↑n ↑k).brk = false ∧ mgmtOk h = true ∧ (h.addr = 255 ∨ (s.node ↑n ↑k).st ≠ NodeSt.unaddressed ∧ (s.node ↑n ↑k).addr = BitVec.toNat h.addr) ∧ h.mcmd = 3 ∧ (s.node ↑n ↑k).st ≠ NodeSt.unaddressed ∧ mgmtPayloadOk h = true ∧ ((s.node ↑n ↑k).accepts h.payload = false ∨ (s.node ↑n ↑k).fitsB h.slots.length = false)) ∧
    (∃ (s : State) (n : Fin 64) (k : Fin 64) (h : MgmtTrain), s.dualPair ↑n = false ∧ s.fitted ↑n ↑k = true ∧ (s.node ↑n ↑k).sync = true ∧ (s.node ↑n ↑k).brk = false ∧ mgmtOk h = true ∧ (h.addr = 255 ∨ (s.node ↑n ↑k).st ≠ NodeSt.unaddressed ∧ (s.node ↑n ↑k).addr = BitVec.toNat h.addr) ∧ h.mcmd = 4 ∧ (s.node ↑n ↑k).st = NodeSt.configured) ∧
    (∃ (s : State) (n : Fin 64) (k : Fin 64) (h : MgmtTrain), s.dualPair ↑n = false ∧ s.fitted ↑n ↑k = true ∧ (s.node ↑n ↑k).sync = true ∧ (s.node ↑n ↑k).brk = false ∧ mgmtOk h = true ∧ (h.addr = 255 ∨ (s.node ↑n ↑k).st ≠ NodeSt.unaddressed ∧ (s.node ↑n ↑k).addr = BitVec.toNat h.addr) ∧ h.mcmd = 5) ∧
    (∃ (s : State) (n : Fin 64) (k : Fin 64) (h : MgmtTrain), s.dualPair ↑n = false ∧ s.fitted ↑n ↑k = true ∧ (s.node ↑n ↑k).sync = true ∧ (s.node ↑n ↑k).brk = false ∧ (mgmtOk h = false ∨ h.addr ≠ 255 ∧ ((s.node ↑n ↑k).st = NodeSt.unaddressed ∨ (s.node ↑n ↑k).addr ≠ BitVec.toNat h.addr)) ∧ h.mcmd = 1) ∧
    (∃ (s : State) (n : Fin 64) (k : Fin 64) (h : MgmtTrain), s.dualPair ↑n = false ∧ s.fitted ↑n ↑k = true ∧ (s.node ↑n ↑k).sync = true ∧ (s.node ↑n ↑k).brk = false ∧ (mgmtOk h = false ∨ h.addr ≠ 255 ∧ ((s.node ↑n ↑k).st = NodeSt.unaddressed ∨ (s.node ↑n ↑k).addr ≠ BitVec.toNat h.addr)) ∧ h.mcmd = 2) ∧
    (∃ (s : State) (n : Fin 64) (k : Fin 64) (h : MgmtTrain), s.dualPair ↑n = false ∧ s.fitted ↑n ↑k = true ∧ (s.node ↑n ↑k).sync = true ∧ (s.node ↑n ↑k).brk = false ∧ (mgmtOk h = false ∨ h.addr ≠ 255 ∧ ((s.node ↑n ↑k).st = NodeSt.unaddressed ∨ (s.node ↑n ↑k).addr ≠ BitVec.toNat h.addr)) ∧ h.mcmd = 3) :=
  ⟨⟨{ dev with tick := 320001, ports := [(63, ChPort.reset)], nodes := [(63 * 64 + 63, { Node.reset with sync := true, st := .addressed, addr := 31 })] }, 63, 63, mgmtSeal { mcmd := 3, addr := 31, cnt := 0, rlen := 0, plen := BitVec.ofNat 16 (List.replicate 6 0 ++ [0xBF, 0] : List Byte).length, hcrc := 0, payload := List.replicate 6 0 ++ [0xBF, 0], pcrc := BitVec.ofNat 32 (crc32c (List.replicate 6 0 ++ [0xBF, 0])), slots := [] }, by decide +kernel⟩,
   ⟨{ dev with tick := 320001, ports := [(63, ChPort.reset)], nodes := [(63 * 64 + 63, { Node.reset with sync := true, st := .configured, addr := 31 })] }, 63, 63, mgmtSeal { mcmd := 4, addr := 31, cnt := 0, rlen := 0, plen := BitVec.ofNat 16 ([] : List Byte).length, hcrc := 0, payload := [], pcrc := BitVec.ofNat 32 (crc32c ([])), slots := [] }, by decide +kernel⟩,
   ⟨{ dev with tick := 320001, ports := [(63, ChPort.reset)], nodes := [(63 * 64 + 63, { Node.reset with sync := true, st := .addressed, addr := 31 })] }, 63, 63, mgmtSeal { mcmd := 5, addr := 255, cnt := 0, rlen := 0, plen := BitVec.ofNat 16 ([] : List Byte).length, hcrc := 0, payload := [], pcrc := BitVec.ofNat 32 (crc32c ([])), slots := [] }, by decide +kernel⟩,
   ⟨{ dev with tick := 320001, ports := [(63, ChPort.reset)], nodes := [(63 * 64 + 63, { Node.reset with sync := true, st := .addressed, addr := 30 })] }, 63, 63, mgmtSeal { mcmd := 1, addr := 31, cnt := 0, rlen := 0, plen := BitVec.ofNat 16 ([] : List Byte).length, hcrc := 0, payload := [], pcrc := BitVec.ofNat 32 (crc32c ([])), slots := [] }, by decide +kernel⟩,
   ⟨{ dev with tick := 320001, ports := [(63, ChPort.reset)], nodes := [(63 * 64 + 63, { Node.reset with sync := true, st := .addressed, addr := 30 })] }, 63, 63, mgmtSeal { mcmd := 2, addr := 31, cnt := 0, rlen := 0, plen := BitVec.ofNat 16 ([] : List Byte).length, hcrc := 0, payload := [], pcrc := BitVec.ofNat 32 (crc32c ([])), slots := [] }, by decide +kernel⟩,
   ⟨{ dev with tick := 320001, ports := [(63, ChPort.reset)], nodes := [(63 * 64 + 63, { Node.reset with sync := true, st := .addressed, addr := 30 })] }, 63, 63, mgmtSeal { mcmd := 3, addr := 31, cnt := 0, rlen := 0, plen := BitVec.ofNat 16 ([] : List Byte).length, hcrc := 0, payload := [], pcrc := BitVec.ofNat 32 (crc32c ([])), slots := [] }, by decide +kernel⟩⟩

theorem test_witness_ChainNodes_4 :
    (∃ (s : State) (n : Fin 64) (k : Fin 64) (h : MgmtTrain), s.dualPair ↑n = false ∧ s.fitted ↑n ↑k = true ∧ (s.node ↑n ↑k).sync = true ∧ (s.node ↑n ↑k).brk = false ∧ (mgmtOk h = false ∨ h.addr ≠ 255 ∧ ((s.node ↑n ↑k).st = NodeSt.unaddressed ∨ (s.node ↑n ↑k).addr ≠ BitVec.toNat h.addr)) ∧ h.mcmd = 4) ∧
    (∃ (s : State) (n : Fin 64) (k : Fin 64) (h : MgmtTrain), s.dualPair ↑n = false ∧ s.fitted ↑n ↑k = true ∧ (s.node ↑n ↑k).sync = true ∧ (s.node ↑n ↑k).brk = false ∧ (mgmtOk h = false ∨ h.addr ≠ 255 ∧ ((s.node ↑n ↑k).st = NodeSt.unaddressed ∨ (s.node ↑n ↑k).addr ≠ BitVec.toNat h.addr)) ∧ h.mcmd = 5) ∧
    (∃ (h : MgmtTrain), h.mcmd ≠ 1) ∧
    (∃ (h : MgmtTrain), h.mcmd ≠ 2) ∧
    (∃ (h : MgmtTrain), h.mcmd ≠ 3) ∧
    (∃ (h : MgmtTrain), h.mcmd ≠ 4) :=
  ⟨⟨{ dev with tick := 320001, ports := [(63, ChPort.reset)], nodes := [(63 * 64 + 63, { Node.reset with sync := true, st := .addressed, addr := 31 })] }, 63, 63, { mcmd := 4, addr := 31, cnt := 0, rlen := 0, plen := BitVec.ofNat 16 ([] : List Byte).length, hcrc := 0, payload := [], pcrc := BitVec.ofNat 32 (crc32c ([])), slots := [] }, by decide +kernel⟩,
   ⟨{ dev with tick := 320001, ports := [(63, ChPort.reset)], nodes := [(63 * 64 + 63, { Node.reset with sync := true, st := .addressed, addr := 30 })] }, 63, 63, mgmtSeal { mcmd := 5, addr := 31, cnt := 0, rlen := 0, plen := BitVec.ofNat 16 ([] : List Byte).length, hcrc := 0, payload := [], pcrc := BitVec.ofNat 32 (crc32c ([])), slots := [] }, by decide +kernel⟩,
   ⟨mgmtSeal { mcmd := 6, addr := 255, cnt := 0, rlen := 0, plen := BitVec.ofNat 16 ([] : List Byte).length, hcrc := 0, payload := [], pcrc := BitVec.ofNat 32 (crc32c ([])), slots := [] }, by decide +kernel⟩,
   ⟨mgmtSeal { mcmd := 6, addr := 255, cnt := 0, rlen := 0, plen := BitVec.ofNat 16 ([] : List Byte).length, hcrc := 0, payload := [], pcrc := BitVec.ofNat 32 (crc32c ([])), slots := [] }, by decide +kernel⟩,
   ⟨mgmtSeal { mcmd := 6, addr := 255, cnt := 0, rlen := 0, plen := BitVec.ofNat 16 ([] : List Byte).length, hcrc := 0, payload := [], pcrc := BitVec.ofNat 32 (crc32c ([])), slots := [] }, by decide +kernel⟩,
   ⟨mgmtSeal { mcmd := 6, addr := 255, cnt := 0, rlen := 0, plen := BitVec.ofNat 16 ([] : List Byte).length, hcrc := 0, payload := [], pcrc := BitVec.ofNat 32 (crc32c ([])), slots := [] }, by decide +kernel⟩⟩

theorem test_witness_ChainNodes_5 :
    (∃ (h : MgmtTrain), h.mcmd ≠ 5) ∧
    (∃ (s : State) (n : Fin 64) (k : Fin 64) (h : MgmtTrain), s.dualPair ↑n = true ∧ ↑n % 2 = 1 ∧ ↑k < (s.ringNodes (↑n - 1)).length ∧ s.fitted (↑n - 1) ((s.ringNodes (↑n - 1)).length - 1 - ↑k) = true ∧ (s.node (↑n - 1) ((s.ringNodes (↑n - 1)).length - 1 - ↑k)).syncB = true ∧ (s.node (↑n - 1) ((s.ringNodes (↑n - 1)).length - 1 - ↑k)).brkB = false ∧ mgmtOk h = true ∧ h.mcmd = 1 ∧ h.addr = 255) ∧
    (∃ (s : State) (n : Fin 64) (k : Fin 64), s.dualPair ↑n = false ∧ s.fitted ↑n ↑k = false) ∧
    (∃ (s : State) (n : Fin 64) (k : Fin 64), s.dualPair ↑n = false ∧ s.fitted ↑n ↑k = true ∧ (s.node ↑n ↑k).sync = false ∧ (s.node ↑n ↑k).syncAt + 320001 ≤ s.tick) ∧
    (∃ (s : State) (n : Fin 64) (k : Fin 64), s.dualPair ↑n = false ∧ s.fitted ↑n ↑k = true ∧ (s.node ↑n ↑k).sync = true ∧ (s.node ↑n ↑k).brk = true ∧ (s.node ↑n ↑k).syncAt + 320000 ≤ s.tick) :=
  ⟨⟨mgmtSeal { mcmd := 6, addr := 255, cnt := 0, rlen := 0, plen := BitVec.ofNat 16 ([] : List Byte).length, hcrc := 0, payload := [], pcrc := BitVec.ofNat 32 (crc32c ([])), slots := [] }, by decide +kernel⟩,
   ⟨{ dev with ports := [(62, { ChPort.reset with dualNow := true })], nodes := [(62 * 64, Node.reset), (62 * 64 + 1, { Node.reset with syncB := true })] }, 63, 0, mgmtSeal { mcmd := 1, addr := 255, cnt := 31, rlen := 0, plen := BitVec.ofNat 16 ([] : List Byte).length, hcrc := 0, payload := [], pcrc := BitVec.ofNat 32 (crc32c ([])), slots := [] }, by decide +kernel⟩,
   ⟨dev, 63, 63, by decide +kernel⟩,
   ⟨{ dev with tick := 320001, ports := [(63, ChPort.reset)], nodes := [(63 * 64 + 63, { Node.reset with st := .unaddressed, syncAt := 0 })] }, 63, 63, by decide +kernel⟩,
   ⟨{ dev with tick := 320001, ports := [(63, ChPort.reset)], nodes := [(63 * 64 + 63, { Node.reset with sync := true, brk := true, syncAt := 1 })] }, 63, 63, by decide +kernel⟩⟩

theorem test_witness_EthernetPorts :
    (∃ (s : State) (p : Fin 4) (f : Frame), s.netRuns = true ∧ (s.eth ↑p).en = true ∧ (s.eth ↑p).link = true ∧ (f.fcsOk = false ∨ f.bytes.length + 4 < 64 ∨ 1528 < f.bytes.length + 4)) ∧
    (∃ (s : State) (p : Fin 4) (f : Frame) (k : Nat) (w : Nat), s.Clean 135 ∧ s.netRuns = true ∧ (s.eth ↑p).en = true ∧ (s.eth ↑p).link = true ∧ f.fcsOk = true ∧ 64 ≤ f.bytes.length + 4 ∧ f.bytes.length + 4 ≤ 1528 ∧ s.redOf ↑p = 0 ∧ s.isJikar f.bytes = false ∧ isArpOrEcho f.bytes = false ∧ s.matchRule (↑p) f.bytes = some (k, w) ∧ bitsOf w 22 21 = 0 ∧ k < 256 ∧ (s.queue (↑p) (bitsOf w 19 16)).en = true ∧ (s.queue (↑p) (bitsOf w 19 16)).held < 2 * (s.queue (↑p) (bitsOf w 19 16)).npage) ∧
    (∃ (s : State) (p : Fin 4) (f : Frame) (k : Nat) (w : Nat), s.netRuns = true ∧ (s.eth ↑p).en = true ∧ (s.eth ↑p).link = true ∧ f.fcsOk = true ∧ 64 ≤ f.bytes.length + 4 ∧ f.bytes.length + 4 ≤ 1528 ∧ s.redOf ↑p = 0 ∧ s.isJikar f.bytes = false ∧ isArpOrEcho f.bytes = false ∧ s.matchRule (↑p) f.bytes = some (k, w) ∧ bitsOf w 22 21 = 0 ∧ k < 256 ∧ (s.queue (↑p) (bitsOf w 19 16)).en = true ∧ 2 * (s.queue (↑p) (bitsOf w 19 16)).npage ≤ (s.queue (↑p) (bitsOf w 19 16)).held) ∧
    (∃ (s : State) (p : Fin 4) (f : Frame), s.netRuns = true ∧ (s.eth ↑p).en = true ∧ (s.eth ↑p).link = true ∧ f.fcsOk = true ∧ 64 ≤ f.bytes.length + 4 ∧ f.bytes.length + 4 ≤ 1528 ∧ s.redOf ↑p = 0 ∧ s.isJikar f.bytes = false ∧ isArpOrEcho f.bytes = false ∧ s.matchRule (↑p) f.bytes = none) ∧
    (∃ (s : State) (p : Fin 4) (j : Nat) (len : Nat), s.Clean 135 ∧ s.netSends = true ∧ s.redOf ↑p = 0 ∧ (s.eth ↑p).en = true ∧ (s.eth ↑p).link = true ∧ s.nextTx ↑p = some j ∧ j < 8 ∧ 0 < (s.queue (↑p) (16 + j)).npage ∧ s.memByte 135 ((s.queue (↑p) (16 + j)).slotAt (s.queue (↑p) (16 + j)).head) = BitVec.ofNat 8 len ∧ s.memByte 135 ((s.queue (↑p) (16 + j)).slotAt (s.queue (↑p) (16 + j)).head + 1) = BitVec.ofNat 8 (len / 256) ∧ 14 ≤ len ∧ len ≤ 1524 ∧ s.memByte 135 ((s.queue (↑p) (16 + j)).slotAt (s.queue (↑p) (16 + j)).head + 2) = 0) ∧
    (∃ (s : State) (p : Fin 4), (s.eth ↑p).link = true) :=
  ⟨⟨{ dev with eths := [(3, { Eth.reset with en := true, link := true, bad := 0 })] }, 3, { bytes := List.replicate 59 0, fcsOk := true }, by decide⟩,
   ⟨{ dev with eths := [(3, { Eth.reset with en := true, link := true, rxq := [(0, { Queue.reset with en := true, npage := 1, head := 1, held := 1 })] })], rules := [(8, (0xC0000000, 0, 0, 0))] }, 3, { bytes := List.replicate 60 0, fcsOk := true }, 8, ruleW, clean_of (by decide), by decide⟩,
   ⟨{ dev with eths := [(3, { Eth.reset with en := true, link := true, rxq := [(0, { Queue.reset with en := true, npage := 1, held := 2 })] })], rules := [(8, (0xC0000000, 0, 0, 0))] }, 3, { bytes := List.replicate 60 0, fcsOk := true }, 8, ruleW, by decide⟩,
   ⟨{ dev with eths := [(3, { Eth.reset with en := true, link := true, bad := 0 })] }, 3, { bytes := List.replicate 60 0, fcsOk := true }, by decide⟩,
   ⟨txDev, 3, 7, 14, clean_of (by decide), by decide⟩,
   ⟨{ dev with eths := [(3, { Eth.reset with en := true, link := true, bad := 0 })] }, 3, by decide⟩⟩

theorem test_witness_EthernetPorts_2 :
    (∃ (s : State) (p : Fin 4) (f : Frame) (g : BitVec 16), s.netSends = true ∧ s.redOf ↑p = 2 ∧ f.fcsOk = true ∧ 64 ≤ f.bytes.length + 4 ∧ f.bytes.length + 4 ≤ 1528 ∧ (s.eth ↑p).en = true ∧ (s.eth ↑p).link = true ∧ (s.eth (2 * (↑p / 2 * 2) + 1 - ↑p)).en = true ∧ (s.eth (2 * (↑p / 2 * 2) + 1 - ↑p)).link = true ∧ redSeq 2 f.bytes = some g ∧ (s.eth (↑p / 2 * 2)).mine.contains (srcMac f.bytes, g) = false ∧ (s.eth (↑p / 2 * 2)).fwdSeen.contains (srcMac f.bytes, g) = false) ∧
    (∃ (s : State) (p : Fin 4) (f : Frame) (g : BitVec 16), s.netSends = true ∧ s.redOf ↑p = 2 ∧ f.fcsOk = true ∧ 64 ≤ f.bytes.length + 4 ∧ f.bytes.length + 4 ≤ 1528 ∧ (s.eth ↑p).en = true ∧ (s.eth ↑p).link = true ∧ (s.eth (2 * (↑p / 2 * 2) + 1 - ↑p)).en = true ∧ (s.eth (2 * (↑p / 2 * 2) + 1 - ↑p)).link = true ∧ redSeq 2 f.bytes = some g ∧ (s.eth (↑p / 2 * 2)).fwdSeen.contains (srcMac f.bytes, g) = true) ∧
    (∃ (s : State) (pair : Fin 2) (k : BitVec 48 × BitVec 16) (rest : List (BitVec 48 × BitVec 16)), (s.eth (2 * ↑pair)).dups = k :: rest) :=
  ⟨⟨{ dev with eths := [(2, { Eth.reset with en := true, link := true, red := 2 }), (3, { Eth.reset with en := true, link := true })] }, 3, hsrFrame, 5, by decide⟩,
   ⟨{ dev with eths := [(2, { Eth.reset with en := true, link := true, red := 2, fwdSeen := [(0, 5)] }), (3, { Eth.reset with en := true, link := true })] }, 3, hsrFrame, 5, by decide⟩,
   ⟨{ dev with eths := [(2, { Eth.reset with dups := [(1, 5)] })] }, 1, (1, 5), [], by decide⟩⟩

theorem test_witness_StationRing :
    (∃ (s : State) (f : RingFrame), s.netRuns = true ∧ s.ring.st ≠ 0 ∧ ringOk f = true ∧ f.typ ≠ 3 ∧ s.ring.ownFrame f = true) ∧
    (∃ (s : State) (f : RingFrame), s.netRuns = true ∧ s.ring.st ≠ 0 ∧ ringOk f = true ∧ f.typ = 3 ∧ f.b5 = 0 ∧ s.ring.out.contains f = true) ∧
    (∃ (s : State) (f : RingFrame), s.netRuns = true ∧ s.ring.st ≠ 0 ∧ ringOk f = false ∧ s.ring.ownFrame f = true) ∧
    (∃ (s : State) (f : RingFrame), s.netRuns = true ∧ s.ring.st ≠ 0 ∧ ringOk f = false ∧ s.ring.ownFrame f = false ∧ s.netSends = true) ∧
    (∃ (s : State) (f : RingFrame), s.netRuns = true ∧ s.ring.st ≠ 0 ∧ ringOk f = true ∧ f.typ.toNat < 2 ∧ s.ring.ownFrame f = false ∧ f.dst.toNat ≠ s.ring.addr ∧ s.netSends = true) ∧
    (∃ (s : State) (f : RingFrame) (dirB : Bool), s.netRuns = true ∧ s.ring.st ≠ 0 ∧ ringOk f = true ∧ f.typ = 3 ∧ f.b5 ≠ 0 ∧ dirB = false ∧ s.ring.master = false ∧ s.ring.st = 1 ∧ s.netSends = true) :=
  ⟨⟨{ dev with ring := { SRing.reset with st := 2, addr := 1, out := [ringSeal { typ := 0, src := 1, dst := 64, seq := 1, b5 := 1, payload := [], len := 0, crc := 0 }] } }, ringSeal { typ := 0, src := 1, dst := 64, seq := 1, b5 := 1, payload := [], len := 0, crc := 0 }, by decide +kernel⟩,
   ⟨{ dev with ring := { SRing.reset with st := 2, out := [ringSeal { typ := 3, src := 1, dst := 64, seq := 1, b5 := 0, payload := [], len := 0, crc := 0 }] } }, ringSeal { typ := 3, src := 1, dst := 64, seq := 1, b5 := 0, payload := [], len := 0, crc := 0 }, by decide +kernel⟩,
   ⟨{ dev with ring := { SRing.reset with st := 2, addr := 1 } }, { typ := 3, src := 1, dst := 64, seq := 1, b5 := 1, payload := [], len := 0, crc := 0 }, by decide +kernel⟩,
   ⟨{ dev with ring := { SRing.reset with st := 2 } }, { typ := 3, src := 1, dst := 64, seq := 1, b5 := 1, payload := [], len := 0, crc := 0 }, by decide +kernel⟩,
   ⟨{ dev with ring := { SRing.reset with st := 2, addr := 1 } }, ringSeal { typ := 1, src := 2, dst := 3, seq := 1, b5 := 1, payload := [], len := 0, crc := 0 }, by decide +kernel⟩,
   ⟨{ dev with ring := { SRing.reset with st := 1 } }, ringSeal { typ := 3, src := 1, dst := 64, seq := 1, b5 := 63, payload := [], len := 0, crc := 0 }, false, by decide +kernel⟩⟩

theorem test_witness_StationRing_2 :
    (∃ (s : State) (f : RingFrame) (dirB : Bool), s.netRuns = true ∧ s.ring.st ≠ 0 ∧ ringOk f = true ∧ f.typ = 3 ∧ f.b5 ≠ 0 ∧ dirB = false ∧ s.ring.master = true ∧ s.ring.st = 1 ∧ f.src.toNat = s.ring.addr ∧ BitVec.toNat f.seq = s.ring.enumSeq) ∧
    (∃ (s : State) (f : RingFrame) (dirB : Bool), s.netRuns = true ∧ s.ring.st ≠ 0 ∧ ringOk f = true ∧ f.typ = 3 ∧ f.b5 ≠ 0 ∧ dirB = false ∧ s.ring.master = true ∧ (s.ring.st = 1 ∨ s.ring.st = 2) ∧ f.src.toNat ≠ s.ring.addr ∧ s.fcu.injArm = false) ∧
    (∃ (s : State), s.ringSends = true ∧ s.ring.out.length ≤ 126) ∧
    (∃ (s : State), s.ring.st = 1 ∧ s.ring.heard = true ∧ s.ring.master = false ∧ s.ring.strap ≠ 63 ∧ s.ring.strapSeen = false) ∧
    (∃ (s : State), s.ring.st = 1 ∧ s.ring.heard = true ∧ s.ring.master = false ∧ s.ring.strap ≠ 63 ∧ s.ring.strapSeen = true ∧ s.fcu.injArm = false) ∧
    (∃ (s : State), s.ring.st = 1 ∧ (s.ring.heard = false ∨ s.ring.master = true ∨ s.ring.strap = 63)) :=
  ⟨⟨{ dev with ring := { SRing.reset with st := 1, master := true, addr := 0, enumSeq := 1 } }, ringSeal { typ := 3, src := 0, dst := 64, seq := 1, b5 := 127, payload := [], len := 0, crc := 0 }, false, by decide +kernel⟩,
   ⟨{ dev with ring := { SRing.reset with st := 1, master := true, addr := 0 } }, ringSeal { typ := 3, src := 1, dst := 64, seq := 1, b5 := 1, payload := [], len := 0, crc := 0 }, false, by decide +kernel⟩,
   ⟨{ dev with ring := { SRing.reset with st := 2 } }, by decide +kernel⟩,
   ⟨{ dev with ring := { SRing.reset with st := 1, heard := true, strap := 5 } }, by decide +kernel⟩,
   ⟨{ dev with ring := { SRing.reset with st := 1, heard := true, strap := 5, strapSeen := true } }, by decide +kernel⟩,
   ⟨{ dev with ring := { SRing.reset with st := 1, strap := 5 } }, by decide +kernel⟩⟩

theorem test_witness_StationRing_3 :
    (∃ (s : State) (src : BitVec 6) (line : BitVec 4) (seq : Byte), s.ringRunning = true ∧ (Tbl.get [] s.ring.mseen (src.toNat * 16 + line.toNat)).contains (seq.toNat) = true) ∧
    (∃ (s : State) (src : BitVec 6) (line : BitVec 4) (seq : Byte) (k : Nat), s.ringRunning = true ∧ (Tbl.get [] s.ring.mseen (src.toNat * 16 + line.toNat)).contains (seq.toNat) = false ∧ k < 16 ∧ (∀ j < 16, Tbl.get (false, 0, 0) s.ring.min j = (true, src.toNat, line.toNat) ↔ j = k)) ∧
    (∃ (s : State) (m : Fin 16) (src : BitVec 6) (srcMb : BitVec 4) (seq : Byte) (msg : List Byte), s.ringSends = true ∧ ↑m < 15 ∧ (s.mbox ↑m).en = true ∧ 0 < msg.length ∧ msg.length ≤ 256 ∧ s.ring.out.length ≤ 126 ∧ (Tbl.get [] (s.mbox ↑m).taken (src.toNat * 16 + srcMb.toNat)).contains (seq.toNat) = true) ∧
    (∃ (s : State) (m : Fin 16) (src : BitVec 6) (srcMb : BitVec 4) (seq : Byte) (msg : List Byte), s.Clean 135 ∧ s.ringSends = true ∧ ↑m < 15 ∧ (s.mbox ↑m).en = true ∧ 0 < msg.length ∧ msg.length ≤ 256 ∧ s.ring.out.length ≤ 126 ∧ (Tbl.get [] (s.mbox ↑m).taken (src.toNat * 16 + srcMb.toNat)).contains (seq.toNat) = false ∧ (s.mbox ↑m).ihead < 7 ∧ (s.mbox ↑m).full.getLsbD (s.mbox ↑m).ihead = false) ∧
    (∃ (s : State) (m : Fin 16) (src : BitVec 6) (srcMb : BitVec 4) (seq : Byte) (msg : List Byte), s.ringSends = true ∧ ↑m < 15 ∧ (s.mbox ↑m).en = true ∧ 0 < msg.length ∧ msg.length ≤ 256 ∧ s.ring.out.length ≤ 126 ∧ (Tbl.get [] (s.mbox ↑m).taken (src.toNat * 16 + srcMb.toNat)).contains (seq.toNat) = false ∧ (∀ i < 7, (s.mbox ↑m).full.getLsbD i = true)) ∧
    (∃ (s : State) (m : Fin 16), (s.mbox ↑m).busy = true ∧ s.netRuns = true) :=
  ⟨⟨{ dev with ring := { SRing.reset with st := 2, mseen := [(16 * 63 + 15, [9])] } }, 63, 15, 9, by decide +kernel⟩,
   ⟨{ dev with ring := { SRing.reset with st := 2, min := [(15, (true, 63, 15))] } }, 63, 15, 9, 15, by decide +kernel⟩,
   ⟨{ dev with ring := { SRing.reset with st := 2, mbs := [(14, { Mbox.reset with en := true, taken := [(18, [9])] })] } }, 14, 1, 2, 9, List.replicate 256 0, by decide +kernel⟩,
   ⟨{ dev with ring := { SRing.reset with st := 2, mbs := [(14, { Mbox.reset with en := true, ihead := 6 })] } }, 14, 1, 2, 9, List.replicate 256 0, clean_of (by decide +kernel), by decide +kernel⟩,
   ⟨{ dev with ring := { SRing.reset with st := 2, mbs := [(14, { Mbox.reset with en := true, full := 127 })] } }, 14, 1, 2, 9, List.replicate 256 0, by decide +kernel⟩,
   ⟨{ dev with ring := { SRing.reset with mbs := [(15, { Mbox.reset with busy := true })] } }, 15, by decide +kernel⟩⟩

theorem test_witness_StationRing_4 :
    (∃ (s : State) (m : Fin 16), (s.mbox ↑m).busy = true ∧ s.netRuns = false) :=
  ⟨{ dev with pwr := { dev.pwr with st := .brownout }, ring := { SRing.reset with mbs := [(15, { Mbox.reset with busy := true })] } }, 15, by decide +kernel⟩

theorem test_witness_HostPortCommands :
    (∃ (s : State) (len : BitVec 16) (pkt : List Byte), s.netRuns = true ∧ (s.txFree = false ∨ 4128 < len.toNat ∨ pkt.length ≠ len.toNat)) ∧
    (∃ (s : State) (len : BitVec 16) (pkt : List Byte) (crc : Word), s.netRuns = true ∧ len.toNat ≤ 4128 ∧ pkt.length = len.toNat ∧ s.txFree = true ∧ crc.toNat = crc32c (bytesBE 2 len.toNat ++ pkt)) ∧
    (∃ (s : State) (len : BitVec 16) (pkt : List Byte) (crc : Word), s.netRuns = true ∧ len.toNat ≤ 4128 ∧ pkt.length = len.toNat ∧ s.txFree = true ∧ crc.toNat ≠ crc32c (bytesBE 2 len.toNat ++ pkt)) ∧
    (∃ (s : State) (r : List Byte) (rest : List (List Byte)), s.netRuns = true ∧ s.host.replies = r :: rest) ∧
    (∃ (s : State) (b : List Byte), s.netRuns = true ∧ s.host.inp = some b ∧ s.cairn.queue.length < 32 ∧ s.cairn.ready = true) :=
  ⟨⟨dev, 4129, [], by decide⟩,
   ⟨dev, 2, [1, 2], BitVec.ofNat 32 (crc32c [0, 2, 1, 2]), by decide⟩,
   ⟨dev, 2, [1, 2], 0, by decide⟩,
   ⟨{ dev with host := { HostPort.reset with replies := [[1]] } }, [1], [], by decide⟩,
   ⟨{ dev with host := { HostPort.reset with inp := some [1] } }, [1], by decide⟩⟩

theorem test_witness_JikarSessions :
    (∃ (s : State) (sid : BitVec 32) (x : Session) (data : List Byte), s.session sid = some x ∧ x.dseq < 2 ^ 32 ∧ s.host.replies.length < 4 ∧ data.length ≤ 4088) ∧
    (∃ (s : State), s.cairn.ready = true ∧ s.cairn.queue.length < 32) ∧
    (∃ (s : State) (p : Packet), s.cairn.ready = true ∧ 32 ≤ s.cairn.queue.length ∧ p.via ≠ Transport.host) ∧
    (∃ (s : State) (p : Packet) (rest : List Packet), s.cairn.queue = p :: rest ∧ s.cairnServes = true ∧ s.cairnWaits = false ∧ packetWellFormed p = false) ∧
    (∃ (s : State) (p : Packet) (rest : List Packet), s.cairn.queue = p :: rest ∧ s.cairnServes = true ∧ s.cairnWaits = false ∧ packetWellFormed p = true ∧ field p.bytes 12 2 ≠ 1 ∧ s.session (BitVec.ofNat 32 (field p.bytes 4 4)) = none) ∧
    (∃ (s : State) (p : Packet) (rest : List Packet) (x : Session), s.cairn.queue = p :: rest ∧ gcmTagBytes x.kc (packetNonce x.sc (field p.bytes 8 4)) (List.take 16 p.bytes)     (List.take (field p.bytes 14 2) (List.drop 16 p.bytes)) ≠   List.drop (16 + field p.bytes 14 2) p.bytes ∧ s.cairnServes = true ∧ s.cairnWaits = false ∧ packetWellFormed p = true ∧ field p.bytes 12 2 ≠ 1 ∧ s.session (BitVec.ofNat 32 (field p.bytes 4 4)) = some x) :=
  ⟨⟨devJ, 7, user, [], by decide⟩,
   ⟨dev, by decide⟩,
   ⟨{ dev with cairn := { dev.cairn with queue := List.replicate 32 pkt0 } }, pkt0, by decide⟩,
   ⟨{ dev with cairn := { dev.cairn with queue := [pkt0] } }, pkt0, [], by decide⟩,
   ⟨{ dev with cairn := { dev.cairn with queue := [pktS] } }, pktS, [], rfl, by decide⟩,
   ⟨{ devJ with cairn := { devJ.cairn with queue := [pktBad] } }, pktBad, [], user, rfl, fun h => map_not_ne (l := gcmTagBytes [] (packetNonce [] 5) hdrS []) (by decide) h, by decide⟩⟩

theorem test_witness_JikarSessions_2 (h : Config.ecdsaOk [] (Config.sha384 (pktHello.bytes.take 16 ++
    ((pktHello.bytes.drop 16).take 213).take 117)) (((pktHello.bytes.drop 16).take 213).drop 117) = true)
    (h2 : Config.pointOk ((((pktHello.bytes.drop 16).take 213).drop 20).take 97) = true) :
    (∃ (s : State) (p : Packet) (rest : List Packet) (x : Session) (e : Nat × List Byte), s.cairn.queue = p :: rest ∧ gcmTagBytes x.kc (packetNonce x.sc (field p.bytes 8 4)) (List.take 16 p.bytes)     (List.take (field p.bytes 14 2) (List.drop 16 p.bytes)) =   List.drop (16 + field p.bytes 14 2) p.bytes ∧ s.cairnServes = true ∧ s.cairnWaits = false ∧ packetWellFormed p = true ∧ field p.bytes 12 2 ≠ 1 ∧ s.session (BitVec.ofNat 32 (field p.bytes 4 4)) = some x ∧ x.isNew (field p.bytes 8 4) = false ∧ List.find? (fun e ↦ e.1 == field p.bytes 8 4) x.kept = some e) ∧
    (∃ (s : State) (p : Packet) (rest : List Packet) (x : Session), s.cairn.queue = p :: rest ∧ gcmTagBytes x.kc (packetNonce x.sc (field p.bytes 8 4)) (List.take 16 p.bytes)     (List.take (field p.bytes 14 2) (List.drop 16 p.bytes)) =   List.drop (16 + field p.bytes 14 2) p.bytes ∧ s.cairnServes = true ∧ s.cairnWaits = false ∧ packetWellFormed p = true ∧ field p.bytes 12 2 ≠ 1 ∧ s.session (BitVec.ofNat 32 (field p.bytes 4 4)) = some x ∧ x.isNew (field p.bytes 8 4) = true) ∧
    (∃ (s : State) (p : Packet) (rest : List Packet) (x : Session), s.cairn.queue = p :: rest ∧ gcmTagBytes x.kc (packetNonce x.sc (field p.bytes 8 4)) (List.take 16 p.bytes)     (List.take (field p.bytes 14 2) (List.drop 16 p.bytes)) =   List.drop (16 + field p.bytes 14 2) p.bytes ∧ s.cairnServes = true ∧ s.cairnWaits = false ∧ packetWellFormed p = true ∧ field p.bytes 12 2 ≠ 1 ∧ s.session (BitVec.ofNat 32 (field p.bytes 4 4)) = some x ∧ x.isNew (field p.bytes 8 4) = false ∧ (∀ e ∈ x.kept, e.1 ≠ field p.bytes 8 4)) ∧
    (∃ (s : State) (p : Packet), s.cairnServes = true ∧ helloWellFormed p = false) ∧
    (∃ (s : State) (p : Packet), helloWellFormed p = true ∧ s.helloRefusal p = none ∧ s.cairnServes = true) ∧
    (∃ (s : State) (o : Origin) (x : Session), s.Admits o 2 x) :=
  ⟨⟨{ devJ with cairn := { devJ.cairn with sessions := [{ user with h := 5, kept := [(5, [1])] }], queue := [pktS] } }, pktS, [], { user with h := 5, kept := [(5, [1])] }, (5, [1]), rfl, rfl, by decide⟩,
   ⟨{ devJ with cairn := { devJ.cairn with queue := [pktS] } }, pktS, [], user, rfl, rfl, by decide⟩,
   ⟨{ devJ with cairn := { devJ.cairn with sessions := [{ user with h := 5 }], queue := [pktS] } }, pktS, [], { user with h := 5 }, rfl, rfl, by decide⟩,
   ⟨dev, pkt0, by decide⟩,
   ⟨devJ, pktHello, helloWf, helloNone_of (by decide) (by decide) rfl h h2 (by decide) (by decide), by decide⟩,
   ⟨{ devJ with cairn := { devJ.cairn with sessions := [{ user with open_ := false }] } }, org, { user with open_ := false }, admits_of (by decide)⟩⟩

theorem test_witness_JikarSessions_3 :
    (∃ (s : State) (o : Origin) (x : Session), s.Admits o 3 x) ∧
    (∃ (s : State) (o : Origin) (x : Session), s.Admits o 4 x) ∧
    (∃ (s : State) (o : Origin) (x : Session), s.Admits o 5 x) ∧
    (∃ (s : State) (o : Origin) (x : Session) (job : Byte) (j : Job), s.Admits o 6 x ∧ List.find? (fun j ↦ j.num == job.toNat) s.cairn.jobs = none ∧ List.find? (fun j ↦ j.num == job.toNat) s.cairn.finished = some j) ∧
    (∃ (s : State) (o : Origin) (x : Session) (data : List Byte), s.Admits o 7 x ∧ data.length ≤ 64) ∧
    (∃ (s : State) (o : Origin) (x : Session) (e : Nat), s.cairnServes = true ∧ s.session o.session = some x ∧ s.gateOp x 7 = some e) :=
  ⟨⟨devJ, org, user, admits_of (by decide)⟩,
   ⟨devJ, org, user, admits_of (by decide)⟩,
   ⟨devJ, org, user, admits_of (by decide)⟩,
   ⟨{ devJ with cairn := { devJ.cairn with finished := [job1] } }, org, user, 3, job1, admits_of (by decide), by decide⟩,
   ⟨devJ, org, user, List.replicate 64 0, admits_of (by decide), by decide⟩,
   ⟨{ devJ with cairn := { devJ.cairn with sessions := [{ user with open_ := false }] } }, org, { user with open_ := false }, 0x0103, by decide⟩⟩

theorem test_witness_JikarSessions_4 :
    (∃ (s : State) (sid : BitVec 32) (x : Session), s.session sid = some x ∧ s.ast.batch = none ∧ x.open_ = false) ∧
    (∃ (s : State) (sid : BitVec 32) (x : Session), s.session sid = some x ∧ s.ast.batch = none ∧ x.open_ = true) ∧
    (∃ (s : State) (num : Byte) (j : Job) (slot : Byte), s.cairnServes = true ∧ List.find? (fun j ↦ j.num == num.toNat) s.cairn.jobs = some j ∧ j.work = JobWork.imgErase slot) ∧
    (∃ (s : State) (num : Byte) (j : Job) (slot : Byte) (pm : Nat) (dm : Nat) (dig : BitVec 384) (sid : BitVec 32) (l : List Byte), List.find? (fun j ↦ j.num == num.toNat) s.cairn.jobs = some j ∧ s.cairn.img = some (slot.toNat, pm, dm, dig, sid) ∧ Config.sha384 l = dig ∧ s.cairnServes = true ∧ j.work = JobWork.imgEnd slot ∧ bufBytes s.cairn.imgBuf (pm + dm) = some l) ∧
    (∃ (s : State) (num : Byte) (j : Job) (slot : Byte) (pm : Nat) (dm : Nat) (dig : BitVec 384) (sid : BitVec 32), s.cairnServes = true ∧ List.find? (fun j ↦ j.num == num.toNat) s.cairn.jobs = some j ∧ j.work = JobWork.imgEnd slot ∧ s.cairn.img = some (slot.toNat, pm, dm, dig, sid) ∧ bufBytes s.cairn.imgBuf (pm + dm) = none) ∧
    (∃ (s : State) (num : Byte) (j : Job) (ridge : Byte) (kind : Byte) (c0 : Byte) (c1 : Byte) (c2 : Byte) (attr : Byte) (policy : Byte) (slot : Byte) (start : Word) (e : Nat), s.cairnServes = true ∧ List.find? (fun j ↦ j.num == num.toNat) s.cairn.jobs = some j ∧ j.work = JobWork.form ridge kind c0 c1 c2 attr policy slot start ∧ j.status = some e) :=
  ⟨⟨{ devJ with cairn := { devJ.cairn with sessions := [{ user with open_ := false }] } }, 7, { user with open_ := false }, by decide⟩,
   ⟨devJ, 7, user, by decide⟩,
   ⟨{ devJ with cairn := { devJ.cairn with jobs := [{ job1 with work := .imgErase 63, status := none }] } }, 3, { job1 with work := .imgErase 63, status := none }, 63, by decide⟩,
   ⟨{ devJ with cairn := { devJ.cairn with jobs := [{ job1 with work := .imgEnd 63, status := none }], img := some (63, 0, 0, Config.sha384 [], 7) } }, 3, { job1 with work := .imgEnd 63, status := none }, 63, 0, 0, Config.sha384 [], 7, [], rfl, rfl, rfl, by decide⟩,
   ⟨{ devJ with cairn := { devJ.cairn with jobs := [{ job1 with work := .imgEnd 63, status := none }], img := some (63, 1, 0, 0, 7) } }, 3, { job1 with work := .imgEnd 63, status := none }, 63, 1, 0, 0, 7, by decide⟩,
   ⟨{ devJ with cairn := { devJ.cairn with jobs := [{ job1 with work := .form 3 1 9 0 0 0 0 63 0x1000, status := some 8 }] } }, 3, { job1 with work := .form 3 1 9 0 0 0 0 63 0x1000, status := some 8 }, 3, 1, 9, 0, 0, 0, 0, 63, 0x1000, 8, by decide⟩⟩

theorem test_witness_JikarSessions_5 :
    (∃ (s : State) (num : Byte) (j : Job) (ridge : Byte) (kind : Byte) (c0 : Byte) (c1 : Byte) (c2 : Byte) (attr : Byte) (policy : Byte) (slot : Byte) (start : Word), s.cairnServes = true ∧ List.find? (fun j ↦ j.num == num.toNat) s.cairn.jobs = some j ∧ j.work = JobWork.form ridge kind c0 c1 c2 attr policy slot start ∧ j.status = none ∧ (s.ridge (ridge.toNat)).st ≠ RidgeSt.loading) ∧
    (∃ (s : State) (num : Byte) (j : Job) (ridge : Byte) (kind : Byte) (c0 : Byte) (c1 : Byte) (c2 : Byte) (attr : Byte) (policy : Byte) (slot : Byte) (start : Word), s.cairnServes = true ∧ List.find? (fun j ↦ j.num == num.toNat) s.cairn.jobs = some j ∧ j.work = JobWork.form ridge kind c0 c1 c2 attr policy slot start ∧ j.status = none ∧ (s.ridge (ridge.toNat)).st = RidgeSt.loading) ∧
    (∃ (s : State) (num : Byte) (j : Job) (ridge : Byte) (slot : Byte) (start : Word), s.cairnServes = true ∧ List.find? (fun j ↦ j.num == num.toNat) s.cairn.jobs = some j ∧ j.work = JobWork.reload ridge slot start ∧ j.status = none ∧ (s.ridge (ridge.toNat)).st ≠ RidgeSt.ready ∧ (s.ridge (ridge.toNat)).st ≠ RidgeSt.halted) ∧
    (∃ (s : State) (num : Byte) (j : Job) (ridge : Byte) (slot : Byte) (start : Word), s.cairnServes = true ∧ List.find? (fun j ↦ j.num == num.toNat) s.cairn.jobs = some j ∧ j.work = JobWork.reload ridge slot start ∧ j.status = none ∧ ((s.ridge (ridge.toNat)).st = RidgeSt.ready ∨ (s.ridge (ridge.toNat)).st = RidgeSt.halted)) ∧
    (∃ (s : State) (num : Byte) (j : Job) (ridge : Byte), s.cairnServes = true ∧ List.find? (fun j ↦ j.num == num.toNat) s.cairn.jobs = some j ∧ j.work = JobWork.dissolve ridge ∧ (s.ridge (ridge.toNat)).st = RidgeSt.free) ∧
    (∃ (s : State) (num : Byte) (j : Job) (ridge : Byte), s.cairnServes = true ∧ List.find? (fun j ↦ j.num == num.toNat) s.cairn.jobs = some j ∧ j.work = JobWork.dissolve ridge ∧ (s.ridge (ridge.toNat)).st ≠ RidgeSt.free) :=
  ⟨⟨{ devJ with cairn := { devJ.cairn with jobs := [{ job1 with work := .form 3 1 9 0 0 0 0 63 0x1000, status := none }] } }, 3, { job1 with work := .form 3 1 9 0 0 0 0 63 0x1000, status := none }, 3, 1, 9, 0, 0, 0, 0, 63, 0x1000, by decide⟩,
   ⟨{ devJ with cairn := { devJ.cairn with jobs := [{ job1 with work := .form 3 1 9 0 0 0 0 63 0x1000, status := none }] }, ridges := [(3, { dev.ridge 3 with st := .loading })] }, 3, { job1 with work := .form 3 1 9 0 0 0 0 63 0x1000, status := none }, 3, 1, 9, 0, 0, 0, 0, 63, 0x1000, by decide⟩,
   ⟨{ devJ with cairn := { devJ.cairn with jobs := [{ job1 with work := .reload 3 63 0, status := none }] } }, 3, { job1 with work := .reload 3 63 0, status := none }, 3, 63, 0, by decide⟩,
   ⟨{ devJ with cairn := { devJ.cairn with jobs := [{ job1 with work := .reload 3 63 0, status := none }] }, ridges := [(3, { dev.ridge 3 with st := .halted })] }, 3, { job1 with work := .reload 3 63 0, status := none }, 3, 63, 0, by decide⟩,
   ⟨{ devJ with cairn := { devJ.cairn with jobs := [{ job1 with work := .dissolve 63, status := none }] } }, 3, { job1 with work := .dissolve 63, status := none }, 63, by decide⟩,
   ⟨{ devJ with cairn := { devJ.cairn with jobs := [{ job1 with work := .dissolve 3, status := none }] } }, 3, { job1 with work := .dissolve 3, status := none }, 3, by decide⟩⟩

theorem test_witness_JikarSessions_6 :
    (∃ (s : State) (num : Byte) (j : Job) (d : Nat) (x : Nat) (added : List Nat) (old : List (Nat × AstLink)) (e : Nat), s.cairnServes = true ∧ List.find? (fun j ↦ j.num == num.toNat) s.cairn.jobs = some j ∧ j.work = JobWork.astCommit d x added old ∧ j.status = some e) ∧
    (∃ (s : State) (num : Byte) (j : Job) (port : Byte) (learn : Byte), s.cairnServes = true ∧ List.find? (fun j ↦ j.num == num.toNat) s.cairn.jobs = some j ∧ j.work = JobWork.chpEnum port learn) ∧
    (∃ (s : State) (num : Byte) (j : Job) (n : Nat), s.cairnServes = true ∧ List.find? (fun j ↦ j.num == num.toNat) s.cairn.jobs = some j ∧ j.work = JobWork.checkerTest n ∧ s.injDone j = true) ∧
    (∃ (s : State) (num : Byte) (j : Job) (n : Nat), s.cairnServes = true ∧ List.find? (fun j ↦ j.num == num.toNat) s.cairn.jobs = some j ∧ j.work = JobWork.checkerTest n ∧ s.injDone j = false) ∧
    (∃ (s : State) (num : Byte) (j : Job) (core : Byte), s.cairnServes = true ∧ List.find? (fun j ↦ j.num == num.toNat) s.cairn.jobs = some j ∧ j.work = JobWork.coreTest core ∧ j.status ≠ none) ∧
    (∃ (s : State) (num : Byte) (j : Job) (core : Byte), s.cairnServes = true ∧ List.find? (fun j ↦ j.num == num.toNat) s.cairn.jobs = some j ∧ j.work = JobWork.coreTest core ∧ j.status = none) :=
  ⟨⟨{ devJ with cairn := { devJ.cairn with jobs := [{ job1 with work := .astCommit 7 1 [5] [], status := some 8 }] } }, 3, { job1 with work := .astCommit 7 1 [5] [], status := some 8 }, 7, 1, [5], [], 8, by decide⟩,
   ⟨{ devJ with cairn := { devJ.cairn with jobs := [{ job1 with work := .chpEnum 63 0, status := none }] } }, 3, { job1 with work := .chpEnum 63 0, status := none }, 63, 0, by decide⟩,
   ⟨{ devJ with cairn := { devJ.cairn with jobs := [{ job1 with work := .checkerTest 0xF71, status := none }] }, fcu := { dev.fcu with injJobs := [(3, (0, some 1))] } }, 3, { job1 with work := .checkerTest 0xF71, status := none }, 0xF71, by decide⟩,
   ⟨{ devJ with cairn := { devJ.cairn with jobs := [{ job1 with work := .checkerTest 0xF71, status := none }] }, fcu := { dev.fcu with injJobs := [(3, (0, none))] } }, 3, { job1 with work := .checkerTest 0xF71, status := none }, 0xF71, by decide⟩,
   ⟨{ devJ with cairn := { devJ.cairn with jobs := [{ job1 with work := .coreTest 63, status := some 0 }] } }, 3, { job1 with work := .coreTest 63, status := some 0 }, 63, by decide⟩,
   ⟨{ devJ with cairn := { devJ.cairn with jobs := [{ job1 with work := .coreTest 63, status := none }] } }, 3, { job1 with work := .coreTest 63, status := none }, 63, by decide⟩⟩

theorem test_witness_JikarSessions_7 (h : Config.fwSigned [] = true) :
    (∃ (s : State) (num : Byte) (j : Job) (len : Nat) (dig : BitVec 384), s.cairnServes = true ∧ List.find? (fun j ↦ j.num == num.toNat) s.cairn.jobs = some j ∧ j.work = JobWork.fwEnd ∧ s.cairn.fw = some (len, dig) ∧ (List.filterMap (chunkByte s.cairn.fwBuf) (List.range len)).length ≠ len) ∧
    (∃ (s : State) (num : Byte) (j : Job) (len : Nat) (dig : BitVec 384), List.find? (fun j ↦ j.num == num.toNat) s.cairn.jobs = some j ∧ s.cairn.fw = some (len, dig) ∧ Config.sha384 (List.filterMap (chunkByte s.cairn.fwBuf) (List.range len)) = dig ∧ Config.fwSigned (List.filterMap (chunkByte s.cairn.fwBuf) (List.range len)) = true ∧ s.cairnServes = true ∧ j.work = JobWork.fwEnd ∧ (List.filterMap (chunkByte s.cairn.fwBuf) (List.range len)).length = len) ∧
    (∃ (s : State) (num : Byte) (j : Job) (e : Nat), s.cairnServes = true ∧ List.find? (fun j ↦ j.num == num.toNat) s.cairn.jobs = some j ∧ j.work = JobWork.fwActivate ∧ j.status = some e) ∧
    (∃ (s : State) (num : Byte) (j : Job), s.cairnServes = true ∧ List.find? (fun j ↦ j.num == num.toNat) s.cairn.jobs = some j ∧ j.work = JobWork.fwActivate ∧ j.status = none) ∧
    (∃ (s : State) (num : Byte) (j : Job) (target : Byte), s.cairnServes = true ∧ List.find? (fun j ↦ j.num == num.toNat) s.cairn.jobs = some j ∧ j.work = JobWork.lcAdvance target ∧ s.nvm.lc < target.toNat ∧ s.pwr.st = PState.run) ∧
    (∃ (s : State) (num : Byte) (j : Job) (target : Byte), s.cairnServes = true ∧ List.find? (fun j ↦ j.num == num.toNat) s.cairn.jobs = some j ∧ j.work = JobWork.lcAdvance target ∧ s.nvm.lc = target.toNat ∧ s.pwr.wipeBusy = true) :=
  ⟨⟨{ devJ with cairn := { devJ.cairn with jobs := [{ job1 with work := .fwEnd, status := none }], fw := some (1, 0) } }, 3, { job1 with work := .fwEnd, status := none }, 1, 0, by decide⟩,
   ⟨{ devJ with cairn := { devJ.cairn with jobs := [{ job1 with work := .fwEnd, status := none }], fw := some (0, Config.sha384 []) } }, 3, { job1 with work := .fwEnd, status := none }, 0, Config.sha384 [], rfl, rfl, rfl, h, by decide⟩,
   ⟨{ devJ with cairn := { devJ.cairn with jobs := [{ job1 with work := .fwActivate, status := some 8 }] } }, 3, { job1 with work := .fwActivate, status := some 8 }, 8, by decide⟩,
   ⟨{ devJ with cairn := { devJ.cairn with jobs := [{ job1 with work := .fwActivate, status := none }] } }, 3, { job1 with work := .fwActivate, status := none }, by decide⟩,
   ⟨{ devJ with cairn := { devJ.cairn with jobs := [{ job1 with work := .lcAdvance 2, status := none }] } }, 3, { job1 with work := .lcAdvance 2, status := none }, 2, by decide⟩,
   ⟨{ devJ with cairn := { devJ.cairn with jobs := [{ job1 with work := .lcAdvance 1, status := none }] }, pwr := { devJ.pwr with wipeBusy := true } }, 3, { job1 with work := .lcAdvance 1, status := none }, 1, by decide⟩⟩

theorem test_witness_JikarSessions_8 :
    (∃ (s : State) (num : Byte) (j : Job) (target : Byte), s.cairnServes = true ∧ List.find? (fun j ↦ j.num == num.toNat) s.cairn.jobs = some j ∧ j.work = JobWork.lcAdvance target ∧ s.nvm.lc = target.toNat ∧ s.pwr.wipeBusy = false) ∧
    (∃ (s : State) (num : Byte) (j : Job), s.cairnServes = true ∧ List.find? (fun j ↦ j.num == num.toNat) s.cairn.jobs = some j ∧ j.work = JobWork.vaultWipe ∧ s.pwr.wiped = true ∧ s.pwr.wipeBusy = false ∧ s.pwr.wipeDue = false) ∧
    (∃ (s : State) (num : Byte) (j : Job), s.cairnServes = true ∧ List.find? (fun j ↦ j.num == num.toNat) s.cairn.jobs = some j ∧ j.work = JobWork.vaultWipe ∧ s.pwr.wiped = false) :=
  ⟨⟨{ devJ with cairn := { devJ.cairn with jobs := [{ job1 with work := .lcAdvance 1, status := none }] } }, 3, { job1 with work := .lcAdvance 1, status := none }, 1, by decide⟩,
   ⟨{ devJ with cairn := { devJ.cairn with jobs := [{ job1 with work := .vaultWipe, status := none }] }, pwr := { devJ.pwr with wiped := true } }, 3, { job1 with work := .vaultWipe, status := none }, by decide⟩,
   ⟨{ devJ with cairn := { devJ.cairn with jobs := [{ job1 with work := .vaultWipe, status := none }] } }, 3, { job1 with work := .vaultWipe, status := none }, by decide⟩⟩

theorem test_witness_JikarRidgeCommands :
    (∃ (s : State) (o : Origin) (x : Session) (ridge : Byte) (kind : Byte) (c0 : Byte) (c1 : Byte) (c2 : Byte) (attr : Byte) (policy : Byte) (slot : Byte) (zero : Byte) (start : Word), s.Admits o 257 x ∧ s.formParamsOk ridge kind c0 c1 c2 attr policy slot zero start = false) :=
  ⟨devJ, org, user, 0, 0, 0, 0, 0, 0, 0, 0, 0, 0, admits_of (by decide +kernel), by decide +kernel⟩

theorem test_witness_JikarRidgeCommands_2 :
    (∃ (s : State) (u : State) (o : Origin) (x : Session) (ridge : Byte) (kind : Byte) (c0 : Byte) (c1 : Byte) (c2 : Byte) (attr : Byte) (policy : Byte) (slot : Byte) (zero : Byte) (start : Word), s.Admits o 257 x ∧ s.commit [JRec.form ridge kind c0 c1 c2 attr policy slot start] = (none, u) ∧ u.imageGood (slot.toNat) = true ∧ s.formParamsOk ridge kind c0 c1 c2 attr policy slot zero start = true ∧ s.pwr.st = PState.run ∧ s.nvm.identity = true ∧ s.check146 (ridge.toNat) (kind.toNat) (formCores kind c0 c1 c2) (BitVec.getLsbD attr 1) = none ∧ s.cairn.jobs = [] ∧ s.cairn.fwSwap = false) :=
  ⟨devJ, _, org, user, 63, 2, 0, 15, 0xFF, 1, 0xF1, 63, 0, 0x17FFC, admits_of (by decide +kernel), commit_ok (by decide +kernel), imageGood_of (by decide +kernel) rfl rfl, by decide +kernel⟩

theorem test_witness_JikarRidgeCommands_3 :
    (∃ (s : State) (u : State) (o : Origin) (x : Session) (ridge : Byte), s.Admits o 258 x ∧ s.commit [JRec.release ridge] = (none, u) ∧ (∀ m ∈ (s.ridge (ridge.toNat)).valid, s.Clean (64 + m.2)) ∧ ridge.toNat < 64 ∧ s.cairn.jobs = [] ∧ (s.ridge (ridge.toNat)).underTest = 0 ∧ s.pwr.st = PState.run ∧ s.fcu.fatal = false ∧ (s.ridge (ridge.toNat)).testFailed = false ∧ (s.ridge (ridge.toNat)).dissolve = false ∧ ((s.ridge (ridge.toNat)).st = RidgeSt.ready ∨ (s.ridge (ridge.toNat)).st = RidgeSt.halted) ∧ (s.ridge (ridge.toNat)).draining = false) :=
  ⟨devJR, _, org, user, 3, admits_of (by decide +kernel), commit_ok (by decide +kernel), fun m hm => by
      have h : m = (0, 9) := List.mem_singleton.mp hm
      subst h
      exact clean_of (by decide +kernel), by decide +kernel⟩

theorem test_witness_JikarRidgeCommands_4 :
    (∃ (s : State) (u : State) (o : Origin) (x : Session) (ridge : Byte), s.Admits o 259 x ∧ s.commit [JRec.halt ridge] = (none, u) ∧ ridge.toNat < 64 ∧ (s.ridge (ridge.toNat)).running = true) :=
  ⟨devJ, _, org, user, 3, admits_of (by decide +kernel), commit_ok (by decide +kernel), by decide +kernel⟩

theorem test_witness_JikarRidgeCommands_5 :
    (∃ (s : State) (u : State) (o : Origin) (x : Session) (ridge : Byte), s.Admits o 260 x ∧ s.commit [JRec.dissolve ridge] = (none, u) ∧ ridge.toNat < 64 ∧ s.cairn.jobs = [] ∧ s.cairn.fwSwap = false ∧ (s.ridge (ridge.toNat)).running = true) :=
  ⟨devJ, _, org, user, 3, admits_of (by decide +kernel), commit_ok (by decide +kernel), by decide +kernel⟩

theorem test_witness_JikarRidgeCommands_6 :
    (∃ (s : State) (u : State) (o : Origin) (x : Session) (ridge : Byte), s.Admits o 260 x ∧ s.commit [JRec.dissolve ridge] = (none, u) ∧ ridge.toNat < 64 ∧ s.cairn.jobs = [] ∧ s.cairn.fwSwap = false ∧ ((s.ridge (ridge.toNat)).st = RidgeSt.ready ∨ (s.ridge (ridge.toNat)).st = RidgeSt.halted) ∧ (s.ridge (ridge.toNat)).draining = false ∧ (s.ridge (ridge.toNat)).valid ≠ []) :=
  ⟨devJR, _, org, user, 3, admits_of (by decide +kernel), commit_ok (by decide +kernel), by decide +kernel⟩

theorem test_witness_JikarRidgeCommands_7 :
    (∃ (s : State) (o : Origin) (x : Session) (ridge : Byte), s.Admits o 261 x ∧ ridge.toNat < 64) :=
  ⟨devJ, org, user, 63, admits_of (by decide +kernel), by decide +kernel⟩

theorem test_witness_JikarRidgeCommands_8 :
    (∃ (s : State) (u : State) (o : Origin) (x : Session) (ridge : Byte) (policy : Byte), s.Admits o 262 x ∧ s.commit [JRec.policy ridge policy] = (none, u) ∧ ridge.toNat < 64 ∧ policy.toNat % 16 / 2 = 0 ∧ s.cairn.jobs = [] ∧ (s.ridge (ridge.toNat)).st ≠ RidgeSt.free) :=
  ⟨devJ, _, org, user, 3, 0xF1, admits_of (by decide +kernel), commit_ok (by decide +kernel), by decide +kernel⟩

theorem test_witness_JikarRidgeCommands_9 :
    (∃ (s : State) (u : State) (o : Origin) (x : Session) (ridge : Byte) (slot : Byte) (start : Word), s.Admits o 263 x ∧ s.commit [JRec.reload ridge slot start] = (none, u) ∧ u.imageGood (slot.toNat) = true ∧ ridge.toNat < 64 ∧ slot.toNat < 64 ∧ (Tbl.get none s.nvm.images (slot.toNat)).isSome = true ∧ start.toNat % 4 = 0 ∧ start.toNat ≤ 98303 ∧ s.cairn.jobs = [] ∧ s.cairn.fwSwap = false ∧ s.pwr.st = PState.run ∧ (s.ridge (ridge.toNat)).underTest = 0 ∧ (s.ridge (ridge.toNat)).testFailed = false ∧ (s.ridge (ridge.toNat)).dissolve = false ∧ ((s.ridge (ridge.toNat)).st = RidgeSt.ready ∨ (s.ridge (ridge.toNat)).st = RidgeSt.halted) ∧ (s.ridge (ridge.toNat)).draining = false) :=
  ⟨devJR, _, org, user, 3, 63, 0x17FFC, admits_of (by decide +kernel), commit_ok (by decide +kernel), imageGood_of (by decide +kernel) rfl rfl, by decide +kernel⟩

theorem test_witness_JikarRidgeCommands_10 :
    (∃ (s : State) (u : State) (o : Origin) (x : Session) (ridge : Byte) (kind : Byte) (index : BitVec 16), s.Admits o 264 x ∧ s.commit [JRec.assign kind index ridge] = (none, u) ∧ assignIndexOk (kind.toNat) index.toNat = true ∧ s.cairn.jobs = [] ∧ ridge.toNat < 64 ∧ (s.ridge (ridge.toNat)).st ≠ RidgeSt.free ∧ (kind.toNat = 4 → (s.ridge (ridge.toNat)).massif = index.toNat / 4) ∧ (kind.toNat = 6 →   s.queuePages (s.queue (index.toNat / 32) (index.toNat % 32)).page       (s.queue (index.toNat / 32) (index.toNat % 32)).npage (some (ridge.toNat)) =     true) ∧ s.ownerOf (kind.toNat) index.toNat = none) :=
  ⟨devJ, _, org, user, 3, 0, 255, admits_of (by decide +kernel), commit_ok (by decide +kernel), by decide +kernel⟩

theorem test_witness_JikarRidgeCommands_11 :
    (∃ (s : State) (u : State) (o : Origin) (x : Session) (ridge : Byte) (kind : Byte) (index : BitVec 16), s.Admits o 264 x ∧ s.commit [JRec.assign kind index ridge] = (none, u) ∧ assignIndexOk (kind.toNat) index.toNat = true ∧ s.cairn.jobs = [] ∧ ridge = 255) :=
  ⟨devJ, _, org, user, 0xFF, 0, 255, admits_of (by decide +kernel), commit_ok (by decide +kernel), by decide +kernel⟩

theorem test_witness_JikarRidgeCommands_12 :
    (∃ (s : State) (u : State) (o : Origin) (x : Session) (massif : Byte) (region : Byte) (cfg : Word) (rdlo : Word) (rdhi : Word) (wrlo : Word) (wrhi : Word), s.Admits o 265 x ∧ s.commit [JRec.memRegion massif region cfg rdlo rdhi wrlo wrhi] = (none, u) ∧ massif.toNat < 4 ∧ region.toNat < 32) :=
  ⟨devJ, _, org, user, 3, 31, 0x80FF0000, 8, 0, 8, 0, admits_of (by decide +kernel), commit_ok (by decide +kernel), by decide +kernel⟩

theorem test_witness_JikarRidgeCommands_13 :
    (∃ (s : State) (u : State) (o : Origin) (x : Session) (ridge : Byte) (massif : Byte) (bank : Byte) (en : Byte), s.Admits o 266 x ∧ s.commit [JRec.memBankown massif bank en ridge] = (none, u) ∧ massif.toNat < 4 ∧ bank.toNat < 32 ∧ en.toNat ≤ 1 ∧ ridge.toNat < 64) :=
  ⟨devJ, _, org, user, 63, 3, 31, 1, admits_of (by decide +kernel), commit_ok (by decide +kernel), by decide +kernel⟩

theorem test_witness_JikarTableCommands :
    (∃ (s : State) (o : Origin) (x : Session) (slot : Byte) (pm : Word) (dm : Word), s.Admits o 513 x ∧ slot.toNat < 64 ∧ pm.toNat ≤ 98304 ∧ dm.toNat ≤ 131072 ∧ s.slotUsed (slot.toNat) = false ∧ s.slotHeld (slot.toNat) = false ∧ s.cairn.img = none) ∧
    (∃ (s : State) (o : Origin) (x : Session) (slot : Byte) (off : Word) (data : List Byte) (pm : Nat) (dm : Nat) (dig : BitVec 384), s.Admits o 514 x ∧ s.cairn.img = some (slot.toNat, pm, dm, dig, o.session) ∧ off.toNat % 8 = 0 ∧ off.toNat + data.length ≤ pm + dm ∧ (data.length % 8 = 0 ∨ off.toNat + data.length = pm + dm)) ∧
    (∃ (s : State) (u : State) (o : Origin) (x : Session) (slot : Byte) (pm : Nat) (dm : Nat) (dig : BitVec 384), s.Admits o 515 x ∧ s.commit [JRec.other 515] = (none, u) ∧ s.cairn.img = some (slot.toNat, pm, dm, dig, o.session) ∧ s.cairn.jobs = [] ∧ s.cairn.fwSwap = false) ∧
    (∃ (s : State) (o : Origin) (x : Session), s.Admits o 516 x) ∧
    (∃ (s : State) (u : State) (o : Origin) (x : Session) (slot : Byte), s.Admits o 517 x ∧ s.commit [JRec.other 517] = (none, u) ∧ slot.toNat < 64 ∧ s.slotUsed (slot.toNat) = false ∧ s.cairn.jobs = [] ∧ s.cairn.img = none ∧ s.cairn.fwSwap = false) ∧
    (∃ (s : State) (u : State) (o : Origin) (x : Session) (d : Byte) (cfg : Word) (evpc : Word) (phase : Word) (offset : Word) (hold : Word) (fnom : Word) (ftol : Word) (lock : Word) (accept : Word) (ptp : Word), s.Admits o 769 x ∧ s.commit [JRec.adConfig d [cfg, evpc, phase, offset, hold, fnom, ftol, lock, accept, ptp]] = (none, u) ∧ d.toNat < 8 ∧ ((s.dom (d.toNat)).stg.ofWords [cfg, evpc, phase, offset, hold, fnom, ftol, lock, accept, ptp]).ok = true ∧ s.cairn.jobs = []) :=
  ⟨⟨devJ, org, user, 62, 98304, 131072, admits_of (by decide +kernel), by decide +kernel⟩,
   ⟨{ devJ with cairn := { devJ.cairn with img := some (62, 8, 5, 0, 7) } }, org, user, 62, 8, [1, 2, 3, 4, 5], 8, 5, 0, admits_of (by decide +kernel), by decide +kernel⟩,
   ⟨{ devJ with cairn := { devJ.cairn with img := some (62, 8, 5, 0, 7) } }, _, org, user, 62, 8, 5, 0, admits_of (by decide +kernel), commit_ok (by decide +kernel), by decide +kernel⟩,
   ⟨devJ, org, user, admits_of (by decide +kernel)⟩,
   ⟨devJ, _, org, user, 63, admits_of (by decide +kernel), commit_ok (by decide +kernel), by decide +kernel⟩,
   ⟨devJ, _, org, user, 7, 0x80000000, 0, 0, 0, 0x03000000, 0x00A7C5AC, 0x28F, 0x08000800, 0x40000, 0x00010001, admits_of (by decide +kernel), commit_ok (by decide +kernel), by decide +kernel⟩⟩

theorem test_witness_JikarTableCommands_2 :
    (∃ (s : State) (u : State) (o : Origin) (x : Session) (d : Byte) (off : BitVec 24), s.Admits o 770 x ∧ s.commit [JRec.adOffset d off] = (none, u) ∧ d.toNat < 8 ∧ s.cairn.jobs = []) ∧
    (∃ (s : State) (o : Origin) (x : Session) (d : Byte), s.Admits o 771 x ∧ d.toNat < 8) ∧
    (∃ (s : State) (o : Origin) (x : Session) (d : Byte), s.Admits o 772 x ∧ d.toNat < 8 ∧ s.ast.batch = none) ∧
    (∃ (s : State) (o : Origin) (x : Session) (d : Nat) (X : Nat) (l : List AstRec) (recs : List AstRec), s.Admits o 773 x ∧ s.ast.batch = some (o.session, d, X, l) ∧ l.length + recs.length ≤ 8192 ∧ recs.all AstRec.formOk = true) ∧
    (∃ (s : State) (u : State) (o : Origin) (x : Session) (d : Nat) (X : Nat) (recs : List AstRec), s.Admits o 774 x ∧ { s with ast := { s.ast with batch := none } }.commit     [JRec.astBatch d X recs] =   (none, u) ∧ s.ast.batch = some (o.session, d, X, recs) ∧ s.pwr.st = PState.run ∧ s.cairn.jobs = [] ∧ s.cairn.fwSwap = false ∧ s.checkBatch d X recs = none ∧ 2 ≤ (X + 2 ^ 16 - (s.dom d).cyc) % 2 ^ 16 ∧ (X + 2 ^ 16 - (s.dom d).cyc) % 2 ^ 16 ≤ 32767) ∧
    (∃ (s : State) (o : Origin) (x : Session) (b : Nat × Nat × List AstRec), s.Admits o 775 x ∧ s.batchOf o.session = some b) :=
  ⟨⟨devJ, _, org, user, 7, 5, admits_of (by decide +kernel), commit_ok (by decide +kernel), by decide +kernel⟩,
   ⟨devJ, org, user, 7, admits_of (by decide +kernel), by decide +kernel⟩,
   ⟨devJ, org, user, 7, admits_of (by decide +kernel), by decide +kernel⟩,
   ⟨{ devJ with ast := { Ast.reset with batch := some (7, 7, 2, []) } }, org, user, 7, 2, [], [{ op := 2, flags := 0, until_ := 0, index := 5, w0 := 0, w1 := 0, w3 := 0 }], admits_of (by decide +kernel), by decide +kernel⟩,
   ⟨{ devJ with ast := { Ast.reset with batch := some (7, 7, 2, []) } }, _, org, user, 7, 2, [], admits_of (by decide +kernel), commit_ok (by decide +kernel), by decide +kernel⟩,
   ⟨{ devJ with ast := { Ast.reset with batch := some (7, 7, 2, []) } }, org, user, (7, 2, []), admits_of (by decide +kernel), by decide +kernel⟩⟩

theorem test_witness_JikarTableCommands_3 :
    (∃ (s : State) (o : Origin) (x : Session) (first : Word) (count : Byte), s.Admits o 776 x ∧ s.Clean 132 ∧ s.pwr.st = PState.run ∧ 0 < count.toNat ∧ count.toNat ≤ 64 ∧ first.toNat + count.toNat ≤ 2 ^ 19) ∧
    (∃ (s : State) (o : Origin) (x : Session) (d : Byte), s.Admits o 777 x ∧ d.toNat < 8) ∧
    (∃ (s : State) (u : State) (o : Origin) (x : Session) (ch : Byte) (cfg : Word) (cons : Word), s.Admits o 1025 x ∧ s.commit [JRec.chConfig ch cfg cons] = (none, u) ∧ s.checkChannel (ch.toNat) cfg cons = none) ∧
    (∃ (s : State) (u : State) (o : Origin) (x : Session) (ch : Byte) (row : BitVec 512), s.Admits o 1026 x ∧ s.commit [JRec.chRow ch row] = (none, u) ∧ s.checkRow (s.chan (ch.toNat)).owner (s.chan (ch.toNat)).sec row = none) ∧
    (∃ (s : State) (o : Origin) (x : Session), s.Admits o 1027 x) :=
  ⟨⟨devJ, org, user, 524224, 64, admits_of (by decide +kernel), clean_of (by decide +kernel), by decide +kernel⟩,
   ⟨devJ, org, user, 7, admits_of (by decide +kernel), by decide +kernel⟩,
   ⟨devJ, _, org, user, 255, 0x80030001, 0x103F, admits_of (by decide +kernel), commit_ok (by decide +kernel), by decide +kernel⟩,
   ⟨devJ, _, org, user, 255, 1, admits_of (by decide +kernel), commit_ok (by decide +kernel), by decide +kernel⟩,
   ⟨devJ, org, user, admits_of (by decide +kernel)⟩⟩

theorem test_witness_JikarFaultCommands :
    (∃ (s : State) (u : State) (o : Origin) (x : Session) (port : Byte) (cfg : Word) (w : List Word), s.Admits o 1281 x ∧ s.commit [JRec.chpConfig port cfg w] = (none, u) ∧ port.toNat < 64 ∧ w.length = 48 ∧ s.cairn.jobs = [] ∧ s.descsOk (port.toNat) (bitsOf (cfg.toNat) 23 16) (bitOf (cfg.toNat) 30) w = true ∧ BitVec.getLsbD cfg 30 = false ∧ BitVec.getLsbD cfg 31 = false ∧ (s.port (port.toNat)).en = false ∧ (s.port (port.toNat)).st = 0) ∧
    (∃ (s : State) (o : Origin) (x : Session) (port : Byte), s.Admits o 1282 x ∧ port.toNat < 64 ∧ s.cairn.jobs = [] ∧ s.cairn.fwSwap = false ∧ (s.port (port.toNat)).en = true) ∧
    (∃ (s : State) (o : Origin) (x : Session) (port : Byte) (node : Byte), s.Admits o 1283 x ∧ port.toNat < 64 ∧ node.toNat < 32) ∧
    (∃ (s : State) (o : Origin) (x : Session) (port : Byte), s.Admits o 1284 x ∧ port.toNat < 64) ∧
    (∃ (s : State) (o : Origin) (x : Session), s.Admits o 1537 x) ∧
    (∃ (s : State) (o : Origin) (x : Session) (l : List (BitVec 16)), s.Admits o 1538 x ∧ (∀ n ∈ l, n.toNat < 4096 ∧ ((srcInfo n.toNat).1 = 1 ∨ (srcInfo n.toNat).1 = 2))) :=
  ⟨⟨devJ, _, org, user, 63, 0, List.replicate 48 0, admits_of (by decide +kernel), commit_ok (by decide +kernel), by decide +kernel⟩,
   ⟨{ devJ with ports := [(63, { ChPort.reset with en := true })] }, org, user, 63, admits_of (by decide +kernel), by decide +kernel⟩,
   ⟨devJ, org, user, 63, 31, admits_of (by decide +kernel), by decide +kernel⟩,
   ⟨devJ, org, user, 63, admits_of (by decide +kernel), by decide +kernel⟩,
   ⟨devJ, org, user, admits_of (by decide +kernel)⟩,
   ⟨devJ, org, user, [0xF73, 0xF72], admits_of (by decide +kernel), by
      intro n h
      simp only [List.mem_cons, List.not_mem_nil, or_false] at h
      rcases h with rfl | rfl <;> decide⟩⟩

theorem test_witness_JikarFaultCommands_2 :
    (∃ (s : State) (u : State) (o : Origin) (x : Session) (n : BitVec 16) (m : Byte), s.Admits o 1539 x ∧ s.commit [JRec.fcuReact n m] = (none, u) ∧ checkMask n.toNat (m.toNat) = none) ∧
    (∃ (s : State) (o : Origin) (x : Session) (n : BitVec 16) (m : Byte), s.Admits o 1539 x ∧ n.toNat < 4096 ∧ m.toNat < 32 ∧ (srcInfo n.toNat).1 = 3) ∧
    (∃ (s : State) (o : Origin) (x : Session) (count : Byte), s.Admits o 1540 x ∧ 0 < count.toNat ∧ count.toNat ≤ 32) ∧
    (∃ (s : State) (o : Origin) (x : Session) (kind : Byte) (i : Byte), s.Admits o 1541 x ∧ i.toNat < statCount (kind.toNat)) ∧
    (∃ (s : State) (o : Origin) (x : Session) (mem : Byte) (op : Byte) (word : Word), s.Admits o 1542 x ∧ word.toNat < memWords (mem.toNat) ∧ 64 ≤ mem.toNat ∧ (op = 1 ∨ op = 2) ∧ s.eccMayAct (mem.toNat) = true ∧ s.ecc.busy = false) ∧
    (∃ (s : State) (o : Origin) (x : Session) (mem : Byte) (word : Word) (a : Byte) (b : Byte), s.Admits o 1543 x ∧ word.toNat < memWords (mem.toNat) ∧ 64 ≤ mem.toNat ∧ mem ≠ 136 ∧ a.toNat ≤ 71 ∧ b.toNat ≤ 71) :=
  ⟨⟨devJ, _, org, user, 0xF72, 8, admits_of (by decide +kernel), commit_ok (by decide +kernel), by decide +kernel⟩,
   ⟨devJ, org, user, 0xF71, 0, admits_of (by decide +kernel), by decide +kernel⟩,
   ⟨devJ, org, user, 32, admits_of (by decide +kernel), by decide +kernel⟩,
   ⟨devJ, org, user, 2, 255, admits_of (by decide +kernel), by decide +kernel⟩,
   ⟨devJ, org, user, 0x87, 2, 65535, admits_of (by decide +kernel), by decide +kernel⟩,
   ⟨devJ, org, user, 0x84, 1048575, 0, 71, admits_of (by decide +kernel), by decide +kernel⟩⟩

theorem test_witness_JikarFaultCommands_3 :
    (∃ (s : State) (o : Origin) (x : Session) (n : BitVec 16), s.Admits o 1544 x ∧ n.toNat < 4096 ∧ (srcInfo n.toNat).2 = true ∧ s.cairn.jobs = [] ∧ s.cairn.fwSwap = false) ∧
    (∃ (s : State) (j : Job) (a : Nat), s.cairn.jobs = [j] ∧ j.isChecker = true ∧ Tbl.get (0, none) s.fcu.injJobs j.num = (a, none) ∧ a + 32000000 ≤ s.tick) ∧
    (∃ (s : State) (o : Origin) (x : Session) (core : Byte), s.Admits o 1793 x ∧ core.toNat < 64 ∧ s.cairn.jobs = [] ∧ s.cairn.fwSwap = false ∧ s.pwr.st = PState.run ∧ ((s.core (core.toNat)).st = CoreSt.spare ∨ (s.core (core.toNat)).st = CoreSt.free)) ∧
    (∃ (s : State) (u : State) (o : Origin) (x : Session) (m : Byte) (en : Byte) (pairs : Byte) (step : BitVec 16), s.Admits o 1794 x ∧ s.commit [JRec.rotConfig m en pairs step] = (none, u) ∧ m.toNat < 4 ∧ en.toNat ≤ 1 ∧ pairs.toNat ≤ 1) ∧
    (∃ (s : State) (u : State) (o : Origin) (x : Session) (m : Byte) (prio : Byte) (delay : Byte), s.Admits o 1795 x ∧ s.commit [JRec.colConfig m prio delay] = (none, u) ∧ m.toNat < 4 ∧ prio.toNat ≤ 2) ∧
    (∃ (s : State) (o : Origin) (x : Session) (m : Byte), s.Admits o 1796 x ∧ m.toNat < 4) :=
  ⟨⟨devJ, org, user, 0, admits_of (by decide +kernel), by decide +kernel⟩,
   ⟨{ dev with tick := 32000000, cairn := { dev.cairn with jobs := [{ job1 with work := .checkerTest 0, status := none }] }, fcu := { dev.fcu with injJobs := [(3, (0, none))] } }, { job1 with work := .checkerTest 0, status := none }, 0, by decide +kernel⟩,
   ⟨devJ, org, user, 63, admits_of (by decide +kernel), by decide +kernel⟩,
   ⟨devJ, _, org, user, 3, 1, 1, 5, admits_of (by decide +kernel), commit_ok (by decide +kernel), by decide +kernel⟩,
   ⟨devJ, _, org, user, 3, 2, 5, admits_of (by decide +kernel), commit_ok (by decide +kernel), by decide +kernel⟩,
   ⟨devJ, org, user, 3, admits_of (by decide +kernel), by decide +kernel⟩⟩

theorem test_witness_JikarSystemCommands (h : Config.fwSigned [] = true) :
    (∃ (s : State) (o : Origin) (x : Session) (len : Word), s.Admits o 2049 x ∧ len.toNat ≤ 196608 ∧ s.cairn.jobs = []) ∧
    (∃ (s : State) (o : Origin) (x : Session) (off : Word) (data : List Byte) (len : Nat) (dig : BitVec 384), s.Admits o 2050 x ∧ s.cairn.fw = some (len, dig) ∧ s.cairn.jobs = [] ∧ off.toNat + data.length ≤ len) ∧
    (∃ (s : State) (o : Origin) (x : Session), s.Admits o 2051 x ∧ s.cairn.fw ≠ none ∧ s.cairn.jobs = [] ∧ s.cairn.fwSwap = false) ∧
    (∃ (s : State) (u : State) (o : Origin) (x : Session) (f : Firmware) (b : Board), s.Admits o 2052 x ∧ s.fwGood f = true ∧ (s.loadFirmware f).commit [JRec.other 2052] (b.pHold * 5000) = (none, u) ∧ s.nvm.fwStandby = some f ∧ s.nvm.board = some b ∧ s.cairn.jobs = [] ∧ s.cairn.fwSwap = false) ∧
    (∃ (s : State) (f : Firmware) (j : Job), s.nvm.fwActive = some f ∧ s.cairn.jobs = [j] ∧ j.work = JobWork.fwActivate ∧ s.cairn.fwSwap = true ∧ s.cairnRuns = true ∧ s.cairn.recovery = false) ∧
    (∃ (s : State) (a : Nat) (f : Firmware), s.cairn.swapAt = some a ∧ s.cairnServes = true ∧ a + 60 * 320000000 ≤ s.tick ∧ s.nvm.fwActive = some f) :=
  ⟨⟨devJ, org, user, 196608, admits_of (by decide +kernel), by decide +kernel⟩,
   ⟨{ devJ with cairn := { devJ.cairn with fw := some (5, 0) } }, org, user, 4, [1], 5, 0, admits_of (by decide +kernel), by decide +kernel⟩,
   ⟨{ devJ with cairn := { devJ.cairn with fw := some (5, 0) } }, org, user, admits_of (by decide +kernel), by decide +kernel⟩,
   ⟨{ devJ with nvm := { devJ.nvm with fwA := (none, some fw0) } }, _, org, user, fw0, board1, admits_of (by decide +kernel), fwGood_of h (by decide +kernel), commit_ok (by decide +kernel), by decide +kernel⟩,
   ⟨{ devJ with cairn := { devJ.cairn with fwSwap := true, jobs := [{ job1 with work := .fwActivate, status := none }] }, nvm := { devJ.nvm with fwA := (some fw0, none) } }, fw0, { job1 with work := .fwActivate, status := none }, by decide +kernel⟩,
   ⟨{ devJ with tick := 60 * 320000000, cairn := { devJ.cairn with swapAt := some 0 }, nvm := { devJ.nvm with fwA := (some fw0, none) } }, 0, fw0, by decide +kernel⟩⟩

theorem test_witness_JikarSystemCommands_2 (h2 : Config.pointOk [] = true) :
    (∃ (s : State) (o : Origin) (x : Session) (f : Firmware), s.Admits o 2053 x ∧ s.nvm.jused < 3072 ∧ s.nvm.fwStandby = some f) ∧
    (∃ (s : State) (u : State) (o : Origin) (x : Session) (cred : Word) (role : Byte) (key : List Byte), s.Admits o 2305 x ∧ Config.pointOk key = true ∧ s.commit [JRec.other 2305] = (none, u) ∧ cred ≠ 0 ∧ cred ≠ 4294967295 ∧ role.toNat ≤ 3 ∧ (∀ e ∈ s.nvm.creds, e.1 ≠ cred) ∧ (s.pwr.st = PState.run → s.pwr.vaultId = true) ∧ s.nvm.creds.length < 64) ∧
    (∃ (s : State) (o : Origin) (x : Session) (cred : Word) (role : Byte) (key : List Byte), s.Admits o 2305 x ∧ Config.pointOk key = true ∧ cred ≠ 0 ∧ cred ≠ 4294967295 ∧ role.toNat ≤ 3 ∧ (∀ e ∈ s.nvm.creds, e.1 ≠ cred) ∧ ¬(s.pwr.st = PState.run → s.pwr.vaultId = true)) ∧
    (∃ (s : State) (u : State) (o : Origin) (x : Session) (cred : Word), s.Admits o 2306 x ∧ (∃ e ∈ s.nvm.creds, e.1 = cred) ∧ s.commit [JRec.other 2306] = (none, u) ∧ (s.pwr.st = PState.run → s.pwr.vaultId = true)) ∧
    (∃ (s : State) (o : Origin) (x : Session), s.Admits o 2307 x ∧ (s.pwr.st = PState.run → s.pwr.vaultId = true)) ∧
    (∃ (s : State) (o : Origin) (x : Session), s.Admits o 2307 x ∧ ¬(s.pwr.st = PState.run → s.pwr.vaultId = true)) :=
  ⟨⟨{ devJ with nvm := { devJ.nvm with fwA := (none, some fw0) } }, org, user, fw0, admits_of (by decide +kernel), by decide +kernel⟩,
   ⟨devJ, _, org, user, 6, 3, [], admits_of (by decide +kernel), h2, commit_ok (by decide +kernel), by decide +kernel⟩,
   ⟨{ devJ with pwr := { devJ.pwr with vaultId := false } }, org, user, 6, 3, [], admits_of (by decide +kernel), h2, by decide +kernel⟩,
   ⟨devJ, _, org, user, 5, admits_of (by decide +kernel), ⟨_, List.mem_cons_self .., rfl⟩, commit_ok (by decide +kernel), by decide +kernel⟩,
   ⟨devJ, org, user, admits_of (by decide +kernel), by decide +kernel⟩,
   ⟨{ devJ with pwr := { devJ.pwr with vaultId := false } }, org, user, admits_of (by decide +kernel), by decide +kernel⟩⟩

theorem test_witness_JikarSystemCommands_3 :
    (∃ (s : State) (u : State) (o : Origin) (x : Session) (target : Byte), s.Admits o 2308 x ∧ s.commit [JRec.lcAdvance target s.nvm.serial] = (none, u) ∧ s.lcAllowed (target.toNat) = true ∧ s.cairn.jobs = [] ∧ s.cairn.fwSwap = false) ∧
    (∃ (s : State) (u : State) (o : Origin) (x : Session) (slot : Byte) (c : List Byte) (tag : List Byte), s.Admits o 2309 x ∧ tag = gcmTagBytes (wrapKey x.kc (slot.toNat)) (List.replicate 8 0 ++ be o.seq) [] c ∧ s.commit [JRec.other 2309] = (none, u) ∧ slot.toNat < 16 ∧ c.length = 32 ∧ s.nvm.tepoch < 64 ∧ s.pwr.tamperPend = false ∧ s.nvm.keySeal = some (s.nvm.lc, s.nvm.tepoch)) ∧
    (∃ (s : State) (o : Origin) (x : Session), s.Admits o 2310 x ∧ s.cairn.jobs = [] ∧ s.cairn.fwSwap = false ∧ s.pwr.st = PState.run) ∧
    (∃ (s : State) (o : Origin) (x : Session), s.Admits o 2311 x ∧ (s.nvm.lc = 0 ∨ s.nvm.lc = 3) ∧ s.pwr.st = PState.run) ∧
    (∃ (s : State) (o : Origin) (x : Session), s.Admits o 2561 x) ∧
    (∃ (s : State) (u : State) (o : Origin) (x : Session) (k : Byte) (src : Byte) (line : Byte) (en : Byte), s.Admits o 2562 x ∧ s.commit [JRec.srMirror k src line en] = (none, u) ∧ k.toNat < 16 ∧ src.toNat < 64 ∧ line.toNat < 16 ∧ en.toNat ≤ 1) :=
  ⟨⟨devJ, _, org, user, 3, admits_of (by decide +kernel), commit_ok (by decide +kernel), by decide +kernel⟩,
   ⟨{ devJ with nvm := { devJ.nvm with keySeal := some (1, 0) } }, _, org, user, 15, List.replicate 32 0, _, admits_of (by decide +kernel), rfl, commit_ok (by decide +kernel), by decide +kernel⟩,
   ⟨devJ, org, user, admits_of (by decide +kernel), by decide +kernel⟩,
   ⟨{ devJ with nvm := { devJ.nvm with lc := 0 } }, org, user, admits_of (by decide +kernel), by decide +kernel⟩,
   ⟨devJ, org, user, admits_of (by decide +kernel)⟩,
   ⟨devJ, _, org, user, 15, 63, 15, 1, admits_of (by decide +kernel), commit_ok (by decide +kernel), by decide +kernel⟩⟩

theorem test_witness_JikarSystemCommands_4 :
    (∃ (s : State) (u : State) (o : Origin) (x : Session) (mb : Byte) (owner : Byte) (peer : Byte) (peerMb : Byte) (page : Byte), s.Admits o 2563 x ∧ s.commit [JRec.srMailbox mb owner peer peerMb page] = (none, u) ∧ mb.toNat < 15 ∧ owner.toNat < 64 ∧ peer.toNat < 64 ∧ peerMb.toNat < 16 ∧ page.toNat < 128 ∧ (s.ridge (owner.toNat)).st ≠ RidgeSt.free ∧ (s.mbox (mb.toNat)).owner = none ∧ Tbl.get none s.pages (page.toNat) = some (owner.toNat)) ∧
    (∃ (s : State) (o : Origin) (x : Session) (addr : Byte) (inner : List Byte), s.Admits o 2564 x ∧ addr.toNat < 64 ∧ (addr.toNat < s.ring.count ∨   s.ring.addr = addr.toNat ∧ addr.toNat ≠ 63 ∨ s.ring.peers.contains (addr.toNat) = true) ∧ inner.length ≤ 1472 ∧ s.cairn.fwds = []) ∧
    (∃ (s : State) (o : Origin) (x : Session) (addr : Byte), s.Admits o 2564 x ∧ (64 ≤ addr.toNat ∨   ¬(addr.toNat < s.ring.count ∨       s.ring.addr = addr.toNat ∧ addr.toNat ≠ 63 ∨ s.ring.peers.contains (addr.toNat) = true))) ∧
    (∃ (s : State) (o : Origin) (x : Session) (addr : Byte) (inner : List Byte), s.Admits o 2564 x ∧ addr.toNat < 64 ∧ (addr.toNat < s.ring.count ∨   s.ring.addr = addr.toNat ∧ addr.toNat ≠ 63 ∨ s.ring.peers.contains (addr.toNat) = true) ∧ 1472 < inner.length) ∧
    (∃ (s : State) (o : Origin) (addr : BitVec 6), s.cairn.fwds = [(addr.toNat, o)]) :=
  ⟨⟨{ devJ with pages := [(127, some 3)] }, _, org, user, 14, 3, 63, 15, 127, admits_of (by decide +kernel), commit_ok (by decide +kernel), by decide +kernel⟩,
   ⟨{ devJ with ring := { SRing.reset with count := 64 } }, org, user, 63, List.replicate 1472 0, admits_of (by decide +kernel), by decide +kernel⟩,
   ⟨devJ, org, user, 63, admits_of (by decide +kernel), by decide +kernel⟩,
   ⟨{ devJ with ring := { SRing.reset with peers := [63] } }, org, user, 63, List.replicate 1473 0, admits_of (by decide +kernel), by decide +kernel⟩,
   ⟨{ devJ with cairn := { devJ.cairn with fwds := [(63, org)] } }, org, 63, by decide +kernel⟩⟩

theorem test_witness_PowerAndResets (h : Config.fwSigned [] = true) :
    (∃ (s : State), s.fcu.fatal = true) ∧
    (∃ (s : State), s.fcu.fatal = false ∧ s.pwr.st ≠ PState.off ∧ s.fcu.crstDue = true ∧ s.fcu.crstAt.length < 3) ∧
    (∃ (s : State) (a : Nat), s.fcu.fatal = false ∧ s.pwr.st ≠ PState.off ∧ s.fcu.crstDue = true ∧ s.fcu.crstAt[2]? = some a ∧ s.tick < a + 60 * 320000000) ∧
    (∃ (s : State), s.pwr.st = PState.standby ∧ s.cairn.ready = false ∧ s.pwr.pfail = false ∧ s.cairn.recovery = true) ∧
    (∃ (s : State), s.pwr.st = PState.standby ∧ s.cairn.ready = false ∧ s.pwr.pfail = false ∧ s.pwr.bootsel = 2 ∧ s.cairn.recovery = false) ∧
    (∃ (s : State) (f : Firmware), (s.pwr.bootsel ≠ 1 → s.nvm.sfdpA.isSome = true ∧ s.nvm.fwActive = some f) ∧ (s.pwr.bootsel = 1 → s.nvm.sfdpB.isSome = true ∧ s.nvm.fwActiveB = some f) ∧ s.fwGood f = true ∧ s.pwr.st = PState.standby ∧ s.cairn.ready = false ∧ s.pwr.pfail = false ∧ s.cairn.recovery = false ∧ s.pwr.bootsel ≠ 2 ∧ s.fcu.fatal = false ∧ s.nvm.board = none) :=
  ⟨⟨{ dev with fcu := { Fcu.reset with fatal := true } }, by decide +kernel⟩,
   ⟨{ dev with fcu := { Fcu.reset with crstDue := true, crstAt := [0, 0] } }, by decide +kernel⟩,
   ⟨{ dev with tick := 60 * 320000000 - 1, fcu := { Fcu.reset with crstDue := true, crstAt := [2, 1, 0] } }, 0, by decide +kernel⟩,
   ⟨{ State.reset with cairn := { Cairn.reset with recovery := true } }, by decide +kernel⟩,
   ⟨{ State.reset with pwr := { Pwr.reset with bootsel := 2 } }, by decide +kernel⟩,
   ⟨{ State.reset with nvm := { Nvm.reset with fwA := (some fw0, none) } }, fw0, fun _ => ⟨rfl, rfl⟩, nofun, fwGood_of h (by decide +kernel), by decide +kernel⟩⟩

theorem test_witness_PowerAndResets_2 (h : Config.fwSigned [] = true) :
    (∃ (s : State) (f : Firmware) (b : Board) (tp : Nat), (s.pwr.bootsel ≠ 1 → s.nvm.sfdpA.isSome = true ∧ s.nvm.fwActive = some f) ∧ (s.pwr.bootsel = 1 → s.nvm.sfdpB.isSome = true ∧ s.nvm.fwActiveB = some f) ∧ s.fwGood f = true ∧ s.pwr.st = PState.standby ∧ s.cairn.ready = false ∧ s.pwr.pfail = false ∧ s.cairn.recovery = false ∧ s.pwr.bootsel ≠ 2 ∧ s.fcu.fatal = false ∧ s.nvm.board = some b ∧ b.bistEn = false ∧ s.nvm.tpp = some tp ∧ (b.eRes tp + b.eCommit tp) * (b.eAvail s.pwr.sense).2 ≤ (b.eAvail s.pwr.sense).1) ∧
    (∃ (s : State), s.netRuns = true) ∧
    (∃ (s : State), s.netRuns = false) ∧
    (∃ (s : State), s.pwr.st = PState.brownout ∧ s.pwr.flushed = true) ∧
    (∃ (s : State) (a : Nat) (older : List (Nat × Bool)), s.pwr.st = PState.standby ∧ s.cairn.ready = true ∧ s.pwr.pfail = false ∧ s.cairn.halted = false ∧ s.pwr.samples = (a + 32000000, true) :: older ∧ older.contains (a, true) = true) ∧
    (∃ (s : State) (a : Nat) (ok : Bool) (older : List (Nat × Bool)), s.pwr.st = PState.standby ∧ s.cairn.ready = true ∧ s.pwr.pfail = false ∧ s.cairn.halted = false ∧ s.pwr.samples = (a, ok) :: older ∧ older.contains (a - 32000000, true) = false) :=
  ⟨⟨{ State.reset with nvm := { Nvm.reset with fwA := (some fw0, none), boardA := boardRaw }, pwr := { Pwr.reset with sense := 4000 } }, fw0, board1, 2000, fun _ => ⟨rfl, rfl⟩, nofun, fwGood_of h (by decide +kernel), by decide +kernel⟩,
   ⟨dev, by decide +kernel⟩,
   ⟨{ dev with pwr := { Pwr.reset with st := .off } }, by decide +kernel⟩,
   ⟨{ dev with pwr := { Pwr.reset with st := .brownout, flushed := true } }, by decide +kernel⟩,
   ⟨{ devJ with pwr := { devJ.pwr with st := .standby, samples := [(32000000, true), (0, true)] } }, 0, [(0, true)], by decide +kernel⟩,
   ⟨{ devJ with pwr := { devJ.pwr with st := .standby, samples := [(32000001, true), (0, true)] } }, 32000001, true, [(0, true)], by decide +kernel⟩⟩

theorem test_witness_PowerAndResets_3 :
    (∃ (s : State) (a : Nat) (older : List (Nat × Bool)), s.pwr.st = PState.standby ∧ s.cairn.ready = true ∧ s.pwr.pfail = false ∧ s.cairn.halted = false ∧ s.pwr.samples = (a, false) :: older) ∧
    (∃ (s : State) (b : Board) (tp : Nat), s.cairnRuns = true ∧ s.tick % 320000 = 0 ∧ (∀ (ok : Bool), s.pwr.samples.head? ≠ some (s.tick, ok)) ∧ s.nvm.board = some b ∧ s.nvm.tpp = some tp) ∧
    (∃ (s : State), s.BallsQuiet ∧ s.cairnRuns = true ∧ (∀ e ∈ s.doms, e.2.st = AdSt.off ∧ e.2.commitReq = false) ∧ s.fcu.injArm = false ∧ s.tick % 320000 ≠ 0 ∧ s.pwr.samples = []) ∧
    (∃ (s : State), s.cairnRuns = false) ∧
    (∃ (s : State), s.pwr.st ≠ PState.off) ∧
    (∃ (s : State), s.pwr.wipeBusy = true ∧ s.fcu.injArm = false ∧ s.pwr.wipeThen = 0 ∧ s.vaultZero = true ∧ s.pwr.lateKeys = []) :=
  ⟨⟨{ devJ with pwr := { devJ.pwr with st := .standby, samples := [(32000000, false), (0, true)] } }, 32000000, [(0, true)], by decide +kernel⟩,
   ⟨devJ, board1, 2000, by decide +kernel⟩,
   ⟨{ dev with tick := 1 }, balls_of (by decide +kernel), by decide +kernel⟩,
   ⟨{ dev with cairn := { dev.cairn with halted := true } }, by decide +kernel⟩,
   ⟨dev, by decide +kernel⟩,
   ⟨{ devJ with pwr := { devJ.pwr with wipeBusy := true } }, by decide +kernel⟩⟩

theorem test_witness_PowerAndResets_4 :
    (∃ (s : State) (i : Nat), s.pwr.wipeBusy = true ∧ s.fcu.injArm = false ∧ i < 262144 ∧ s.memByte 136 i ≠ 0) ∧
    (∃ (s : State) (k : Nat) (key : List Byte), s.MemWf ∧ s.pwr.wipeBusy = true ∧ s.fcu.injArm = false ∧ s.pwr.wipeThen = 0 ∧ s.vaultZero = true ∧ s.pwr.lateKeys = [(k, key)] ∧ k < 16 ∧ key.length = 32 ∧ s.ecc.injArm = false ∧ s.pwr.st = PState.run) ∧
    (∃ (s : State), s.pwr.wipeBusy = true ∧ s.fcu.injArm = false ∧ s.pwr.wipeThen = 1 ∧ s.vaultZero = true) ∧
    (∃ (s : State), s.pwr.wipeBusy = false) :=
  ⟨⟨{ devJ with pwr := { devJ.pwr with wipeBusy := true }, mem := [(memKey 0x88 262143, 1)] }, 262143, by decide +kernel⟩,
   ⟨{ devJ with pwr := { devJ.pwr with wipeBusy := true, lateKeys := [(15, List.replicate 32 1)] } }, 15, List.replicate 32 1, wf_of (by decide +kernel), by decide +kernel⟩,
   ⟨{ devJ with pwr := { devJ.pwr with wipeBusy := true, wipeThen := 1 } }, by decide +kernel⟩,
   ⟨dev, by decide +kernel⟩⟩

theorem test_witness_FaultsAndMonitors :
    (∃ (s : State) (r : Fin 64) (k : Nat), s.wdtCounts ↑r = true ∧ (k ≤ (s.ridge ↑r).wdt.n ∧ ¬((s.ridge ↑r).wdt.fresh = true ∧ k = 0) ∨ (s.ridge ↑r).wdt.p < k)) :=
  ⟨(devR fun x => { x with wdt := { x.wdt with en := true, req := 1, n := 5 } }), 3, 5, by decide +kernel⟩

theorem test_witness_FaultsAndMonitors_2 :
    (∃ (s : State) (r : Fin 64) (k : Nat), s.wdtCounts ↑r = true ∧ ((s.ridge ↑r).wdt.n < k ∨ (s.ridge ↑r).wdt.fresh = true ∧ k = 0) ∧ k ≤ (s.ridge ↑r).wdt.p ∧ (s.ridge ↑r).wdt.checkins = []) :=
  ⟨(devR fun x => { x with wdt := { x.wdt with en := true, req := 1, fresh := true } }), 3, 0, by decide +kernel⟩

theorem test_witness_FaultsAndMonitors_3 :
    (∃ (s : State) (r : Fin 64) (k : Nat) (b : BitVec 16), s.wdtCounts ↑r = true ∧ ((s.ridge ↑r).wdt.n < k ∨ (s.ridge ↑r).wdt.fresh = true ∧ k = 0) ∧ k ≤ (s.ridge ↑r).wdt.p ∧ (s.ridge ↑r).wdt.checkins = [b] ∧ (s.ridge ↑r).wdt.w ≤ k) :=
  ⟨(devR fun x => { x with wdt := { x.wdt with en := true, req := 1, open_ := 15, checkins := [1] } }), 3, 960, 1, by decide +kernel⟩

theorem test_witness_FaultsAndMonitors_4 :
    (∃ (s : State) (r : Fin 64) (k : Nat) (b : BitVec 16), s.wdtCounts ↑r = true ∧ ((s.ridge ↑r).wdt.n < k ∨ (s.ridge ↑r).wdt.fresh = true ∧ k = 0) ∧ k ≤ (s.ridge ↑r).wdt.p ∧ (s.ridge ↑r).wdt.checkins = [b] ∧ k < (s.ridge ↑r).wdt.w ∧ (b &&& if (s.ridge ↑r).wdt.req = 0 then 1 else (s.ridge ↑r).wdt.req) ≠ 0 ∧ (s.ridge ↑r).wdt.failed = false) :=
  ⟨(devR fun x => { x with wdt := { x.wdt with en := true, req := 1, open_ := 15, checkins := [1] } }), 3, 959, 1, by decide +kernel⟩

theorem test_witness_FaultsAndMonitors_5 :
    (∃ (s : State) (r : Fin 64), s.wdtCounts ↑r = true ∧ (s.ridge ↑r).wdt.failed = false ∧ (if (s.ridge ↑r).wdt.req = 0 then 1 else (s.ridge ↑r).wdt.req) &&& ~~~(s.ridge ↑r).wdt.done = 0) :=
  ⟨(devR fun x => { x with wdt := { x.wdt with en := true, req := 1, done := 1 } }), 3, by decide +kernel⟩

theorem test_witness_FaultsAndMonitors_6 :
    (∃ (s : State) (r : Fin 64), s.wdtCounts ↑r = true ∧ (s.ridge ↑r).wdt.failed = false ∧ (if (s.ridge ↑r).wdt.req = 0 then 1 else (s.ridge ↑r).wdt.req) &&& ~~~(s.ridge ↑r).wdt.done ≠ 0 ∧ (s.ridge ↑r).wdt.miss = false) :=
  ⟨(devR fun x => { x with wdt := { x.wdt with en := true, req := 1, done := 2 } }), 3, by decide +kernel⟩

theorem test_witness_FaultsAndMonitors_7 :
    (∃ (s : State) (r : Fin 64), s.wdtCounts ↑r = true ∧ ((s.ridge ↑r).wdt.failed = true ∨   (if (s.ridge ↑r).wdt.req = 0 then 1 else (s.ridge ↑r).wdt.req) &&& ~~~(s.ridge ↑r).wdt.done ≠ 0) ∧ (s.ridge ↑r).wdt.miss = true) :=
  ⟨(devR fun x => { x with wdt := { x.wdt with en := true, req := 1, miss := true } }), 3, by decide +kernel⟩

theorem test_witness_FaultsAndMonitors_8 :
    (∃ (s : State), s.cairnRuns = true ∧ s.fcu.fatal = false ∧ (s.maskOf 3954).getLsbD 3 = true) :=
  ⟨dev, by decide +kernel⟩

theorem test_witness_FaultsAndMonitors_9 :
    (∃ (s : State) (a : Nat) (l : List Nat), s.fcu.crstAt = a :: l ∧ a + 60 * 320000000 ≤ s.tick) :=
  ⟨{ dev with tick := 60 * 320000000, fcu := { Fcu.reset with crstAt := [0] } }, 0, [], by decide +kernel⟩

theorem test_witness_FaultsAndMonitors_10 :
    (∃ (s : State), s.aliveOn = true) :=
  ⟨dev, by decide +kernel⟩

theorem test_witness_FaultsAndMonitors_11 :
    (∃ (s : State), s.aliveOn = false) :=
  ⟨State.reset, by decide +kernel⟩

theorem test_witness_FaultsAndMonitors_12 :
    (∃ (s : State) (u : State), (∀ (a : Nat), s.pwr.logRetry = some a → a ≤ s.tick) ∧ s.marker 0 = (none, u) ∧ s.cairnRuns = true ∧ 32 ≤ s.fcu.pendLog.length) :=
  ⟨{ devJ with fcu := { Fcu.reset with pendLog := List.replicate 32 log1 } }, _, nofun, marker_ok (by decide +kernel), by decide +kernel⟩

theorem test_witness_FaultsAndMonitors_13 :
    (∃ (s : State) (u : State) (e : Nat), (∀ (a : Nat), s.pwr.logRetry = some a → a ≤ s.tick) ∧ s.marker 0 = (some e, u) ∧ s.cairnRuns = true ∧ 32 ≤ s.fcu.pendLog.length) :=
  ⟨{ dev with fcu := { Fcu.reset with pendLog := List.replicate 32 log1 } }, _, 0x0300, nofun, marker_ok (by decide +kernel), by decide +kernel⟩

theorem test_witness_FaultsAndMonitors_14 :
    (∃ (s : State) (temps : List (BitVec 16)) (volts : List (BitVec 16)), (∀ v ∈ temps, -640 ≤ v.toInt ∧ v.toInt ≤ 1920) ∧ (∀ (k : Nat) (v : BitVec 16),   volts[k]? = some v → 94 * s.supplyLevel k ≤ 100 * v.toNat ∧ 100 * v.toNat ≤ 106 * s.supplyLevel k) ∧ s.pwr.st ≠ PState.off ∧ s.fcu.injArm = false ∧ temps.length = 8 ∧ volts.length = 6) :=
  ⟨dev, List.replicate 8 1920, [752, 800, 848, 1800, 1800, 3300], by
      intro v h
      obtain rfl := List.eq_of_mem_replicate h
      decide, by
      intro k v h
      rcases k with _ | _ | _ | _ | _ | _ | k <;> simp at h <;> subst h <;> decide, by decide +kernel⟩

theorem test_witness_FaultsAndMonitors_15 :
    (∃ (s : State) (temps : List (BitVec 16)) (k : Nat) (v : BitVec 16), s.pwr.st ≠ PState.off ∧ s.fcu.injArm = false ∧ k < 8 ∧ temps[k]? = some v ∧ 2080 < v.toInt) :=
  ⟨dev, List.replicate 8 2081, 7, 2081, by decide +kernel⟩

theorem test_witness_FaultsAndMonitors_16 :
    (∃ (s : State) (p : Fin 96) (level : Bool), s.pwr.st ≠ PState.off ∧ ((s.gp ↑p).inp = level ∨ s.gpLevel ↑p = some !level)) :=
  ⟨dev, 95, false, by decide +kernel⟩

theorem test_witness_FaultsAndMonitors_17 :
    (∃ (s : State) (p : Fin 96) (level : Bool), s.pwr.st ≠ PState.off ∧ (s.gp ↑p).inp ≠ level ∧ s.gpLevel ↑p ≠ some !level ∧ 0 < (s.gp ↑p).filt) :=
  ⟨{ dev with gps := [(94, { GpPin.reset with filt := 15 })] }, 94, true, by decide +kernel⟩

theorem test_witness_FaultsAndMonitors_18 :
    (∃ (s : State) (p : Fin 96) (level : Bool), s.pwr.st ≠ PState.off ∧ (s.gp ↑p).inp ≠ level ∧ s.gpLevel ↑p ≠ some !level ∧ (s.gp ↑p).filt = 0 ∧ (s.gp ↑p).edge.getLsbD (if level = true then 0 else 1) = true) :=
  ⟨{ dev with gps := [(95, { GpPin.reset with edge := 1 })] }, 95, true, by decide +kernel⟩

theorem test_witness_FaultsAndMonitors_19 :
    (∃ (s : State) (p : Fin 96) (level : Bool), s.pwr.st ≠ PState.off ∧ (s.gp ↑p).inp ≠ level ∧ s.gpLevel ↑p ≠ some !level ∧ (s.gp ↑p).filt = 0 ∧ (s.gp ↑p).edge.getLsbD (if level = true then 0 else 1) = false) :=
  ⟨dev, 94, true, by decide +kernel⟩

theorem test_witness_FaultsAndMonitors_20 :
    (∃ (s : State) (m : Byte) (w : Nat) (pos : Nat), s.MemWf ∧ s.pwr.st ≠ PState.off ∧ s.memSyn (m.toNat) w = 0 ∧ w < memWords (m.toNat) ∧ pos < wordBytes (m.toNat) * 8 + checkBits (m.toNat) ∧ (isClassB (m.toNat) = true → s.pwr.classB = true)) :=
  ⟨dev, 0x3F, 32767, 38, wf_of (by decide +kernel), by decide +kernel⟩

theorem test_witness_FaultsAndMonitors_21 :
    (∃ (s : State) (i : BitVec 5), s.pwr.st ≠ PState.off ∧ i ≠ 0) :=
  ⟨dev, 31, by decide +kernel⟩

theorem test_witness_FaultsAndMonitors_22 :
    (∃ (s : State) (b : Fin 32), s.pwr.st ≠ PState.off ∧ ↑b < 11) :=
  ⟨dev, 10, by decide +kernel⟩

theorem test_witness_FaultsAndMonitors_23 :
    (∃ (s : State) (n : Fin 4096), s.pwr.st ≠ PState.off ∧ s.fcu.injArm = false ∧ (srcInfo ↑n).2 = true) :=
  ⟨dev, 0, by decide +kernel⟩

theorem test_witness_FaultsAndMonitors_24 :
    (∃ (s : State) (n : Fin 4096), s.pwr.st ≠ PState.off ∧ (srcInfo ↑n).2 = false) :=
  ⟨dev, 0x19, by decide +kernel⟩

theorem test_witness_StepRunsFrontCommand :
    (∃ (s : State) (c : Instr) (rest : List Instr), s.pending = c :: rest) ∧
    (∃ (s : State), s.pending = []) :=
  ⟨⟨{ dev with pending := [.brownoutExit] }, .brownoutExit, [], by decide⟩,
   ⟨dev, by decide⟩⟩

theorem test_witness_StepKeepsMemoryCanonical :
    (∃ (s : State) (t : State), s.MemWf ∧ step s = Host.Outcome.next t) :=
  ⟨{ dev with pending := [.brownoutExit] }, { dev with pending := [] }, wf_of (by decide), rfl⟩

theorem test_witness_LifecycleOnlyAdvances : ∃ s t : State, step s = .next t ∧ s.nvm.lc ≠ t.nvm.lc :=
  ⟨_, next_of (s := { devJ with
      cairn := { devJ.cairn with jobs := [{ job1 with work := .lcAdvance 2, status := none }] }, pending := [.jobCompletion 3] })
    (P := fun t => devJ.nvm.lc ≠ t.nvm.lc) (by decide +kernel)⟩

/-! What WellFormed refuses: for each check an ill-formed command. -/

theorem test_wf_shift : (Instr.slli 0 true 1 2 32).wellFormed = false := by decide
theorem test_wf_shift_right : (Instr.srli 0 true 1 2 32).wellFormed = false := by decide
theorem test_wf_shift_arith : (Instr.srai 0 true 1 2 32).wellFormed = false := by decide
theorem test_wf_loop_register : (Instr.loop 0 true false 0 32 3).wellFormed = false := by decide
theorem test_wf_ldd_odd : (Instr.ldd 0 true 5 0 (.imm 0)).wellFormed = false := by decide
theorem test_wf_std_odd : (Instr.std 0 true 5 0 (.imm 0)).wellFormed = false := by decide
theorem test_wf_padd_mode0 : (Instr.padd 0 true 0 (.imm 8)).wellFormed = false := by decide
theorem test_wf_scs_range : (Instr.scs 0 true 1 2 0 (.imm 64)).wellFormed = false := by decide
theorem test_wf_vmacw_odd : (Instr.vmacw 0 true 3 4 5 false).wellFormed = false := by decide
theorem test_wf_vnarrow_odd : (Instr.vnarrow 0 true 2 5 6 false).wellFormed = false := by decide
theorem test_wf_vsel_masked : (Instr.vsel 0 true 1 2 3 true).wellFormed = false := by decide
theorem test_wf_node_sample : (Instr.nodeSample 0 0 true (List.replicate 64 0)).wellFormed = false := by decide
theorem test_wf_config_payload :
    (Instr.config 0 0 ⟨3, 0, 0, 0, 2, 0, [], 0, []⟩ [0]).wellFormed = false := by decide
theorem test_wf_chp_config : (Instr.chpConfig { session := 0, seq := 0, via := .host } 0 0 [0]).wellFormed = false := by decide
theorem test_wf_write_pkt : (Instr.writePkt 3 [1, 2] 0 true).wellFormed = false := by decide
theorem test_wf_monitor_sample : (Instr.monitorSample [0] []).wellFormed = false := by decide
theorem test_wf_flip_position : (Instr.randomHardwareFault (.memBit 0 0 39)).wellFormed = false := by decide
theorem test_wf_flip_register : (Instr.randomHardwareFault (.creg 0 0x25 0)).wellFormed = false := by decide
theorem test_wf_scrub_memory : (Instr.scrubRead 137).wellFormed = false := by decide
theorem test_wf_scrub_writeback : (Instr.scrubWriteback 137).wellFormed = false := by decide
theorem test_wf_scrub_overdue : (Instr.scrubOverdue 137).wellFormed = false := by decide
theorem test_wf_accepts : (Instr.slli 0 true 1 2 31).wellFormed = true := by decide

/-! Values that the manual works out; each test names the place. -/

/-- The device after a command that answers a next state. -/
def after (o : Host.Outcome State Fault Refusal) : State := match o with | .next t => t | _ => State.reset

/-- Table 6-12, L0 of the loop body: ld g4, [p0+=m0, circ]. -/
theorem test_word_ld : memWord false false 4 4 0 (.circMod 0) = 0x6081C000 := by decide

/-- Table 6-12: loop 254, .body. -/
theorem test_word_loop : loopWord true true 0 254 3 = 0xA207F003 := by decide

/-- Table 6-12: cmac acc0, g4, g5 and cmacj acc1, g4, g5. -/
theorem test_word_cmac : cmacWord false 2 0 4 5 = 0x4010A800 ∧ cmacWord true 3 1 4 5 = 0xC090AC00 := by decide

/-- Table 6-13: vst v2, [p2+=vl]; bne g4, g0, .strip; vcfg g4, g4, w16. -/
theorem test_word_strip : vlsWord false true 2 2 .postVl false = 0x684B4000 ∧ brWord true false 1 4 0 0x1FFB = 0x90803FFB
    ∧ sysWord true 8 4 4 1 = 0xA4844001 := by decide

/-- The same words taken apart again; an undefined encoding (CLASS 0, R126) stands for no operation. -/
theorem test_decode_words : decodeOp 9 0x6081C000 = some (.ld 9 false 4 0 (.circMod 0)) ∧
    decodeOp 9 0xA207F003 = some (.loop 9 true true 0 254 3) ∧ decodeOp 9 0x90803FFB = some (.bne 9 true false 4 0 0x1FFB) ∧
    decodeOp 9 0x4010A800 = some (.cmac 9 false 0 4 5) ∧ decodeOp 9 0 = none := by decide +kernel

/-- 06, "an operation order that no slot can hold": the LD after the ADDI finds no slot, and the bundle traps with the ADDI's
word in EVAL. -/
theorem test_illegal_bundle :
    ((after (exec (.ld 9 true 2 0 (.imm 0)) (after (exec (.addi 9 false 1 1 1) dev)))).core 9).eval = 0x08210001 := by decide +kernel

/-- Table 4-3, bundle 1: 0.75 - j0.5 times 0.5 + j0.25. -/
theorem test_cmul : ((after (exec (.cmul 9 true 1 2 3)
    (devC fun x => { x with gr := [(2, TW.plain 0xC0006000), (3, TW.plain 0x20004000)] }))).core 9).ac 1
      = { re := 0x0020000000, im := 0xFFFC000000, p := false } := by decide +kernel

/-- Table 4-3, bundles 5 and 6: EXP gives -1, NORM by it halves. -/
theorem test_exp : (((after (exec (.exp 9 true 5 1)
    (devC fun x => { x with acc := [(1, { re := 0x0080000000, im := 0xFFF0000000, p := false })] }))).core 9).g 5).v = 0xFFFFFFFF := by
  decide +kernel
theorem test_norm : ((after (exec (.norm 9 true 1 5)
    (devC fun x => { x with gr := [(5, TW.plain 0xFFFFFFFF)]
                            acc := [(1, { re := 0x0080000000, im := 0xFFF0000000, p := false })] }))).core 9).ac 1
      = { re := 0x0040000000, im := 0xFFF8000000, p := false } := by decide +kernel

/-- R87: an EXT with sh = 1 turns -3 into -2. -/
theorem test_ext_floor : (((after (exec (.ext 9 true 6 1 false 1)
    (devC fun x => { x with acc := [(1, { re := 0xFFFFFFFFFD, im := 0, p := false })] }))).core 9).g 6).v = 0xFFFFFFFE := by decide +kernel

/-- Table 4-3, bundle 8: SCS saturates 32,768 to 0x7FFF. -/
theorem test_scs : ((after (exec (.scs 9 true 6 7 2 (.imm 0))
    (devC fun x => { x with gr := [(6, TW.plain 0x8000), (7, TW.plain 0xFFFFF000)], pf := [(2, TW.plain 0x10000000)] }))).wordData 9 0) = 0xF0007FFF := by decide +kernel

/-- Table 11-4: the encoding of 0x0000_0003, and the four reads. -/
theorem test_ecc : eccEncode 0x10 3 = 0x0C ∧ eccEncode 0x10 1 = 0x07 ∧ eccOutcome 0x10 0x0B = 1 ∧ eccDataBit 0x10 0x0B = some 1
    ∧ eccOutcome 0x10 0x0C = 2 ∧ eccOutcome 0x10 0x7F = 3 := by decide +kernel

/-- Table 9-3: one mains event at 50.01 Hz. -/
theorem test_loop_update :
    let d := { Domain.reset with cfg := { AdCfg.reset with fnom := 10995116 }, fb := 10995116 }.loopUpdate 3356 6398720
    wrap24 (0 - 16773860) = 3356 ∧ d.fb = 10995253 ∧ d.slew = 1099 ∧ d.freq = 10996352 := by decide +kernel

/-- Table 10-4: the entry for FC00 is valid in every cycle of list (0, 8, 0); with PHASE 1 and RM 2 only where CYC mod 4 = 1. -/
theorem test_ast_entry : listKey 0x28000000 0x00400041 = 8 * 4096 ∧ astArmed 0x28000000 0xFFFF0000 0x00400041 (5 * 4096) = true
    ∧ astArmed 0x28000000 0xFFFF0000 0x09400041 (5 * 4096) = true ∧ astArmed 0x28000000 0xFFFF0000 0x09400041 (6 * 4096) = false := by
  decide +kernel

/-- Table 18-8: hold-up on a 24 V rail, t_PP = 2.0 ms. -/
def boardEx : Board :=
  { huK := 320, huC := 2200, huVmin := 9000, huEta := 85, bistEn := false, huPboard := 550, huEtrans := 5000, huPflash := 100 }
theorem test_holdup : boardEx.pHold = 1000 ∧ boardEx.eCommit 2000 = 4200000 ∧ boardEx.eRes 2000 = 27400000
    ∧ 31600000 * (boardEx.eAvail 1400).2 ≤ (boardEx.eAvail 1400).1 ∧ (boardEx.eAvail 1380).1 < 31600000 * (boardEx.eAvail 1380).2 := by
  decide +kernel

/-- 01, "reading a DEVICE_ID value": DEVICE_ID carries the family 0x9160. -/
theorem test_device_id : (State.reset.regRead 0).map (fun w => w.toNat / 65536) = some 0x9160 := by decide +kernel

/-- Table 18-5: a BLANK device offers boundary scan beside IDCODE and BYPASS, and no internal scan. -/
theorem test_jtag_blank : State.reset.jtag = [.idcode, .bypass, .samplePreload, .extest] := by decide +kernel

end Sys2Proof.Machine
end

section
/-!
PROOFS. The words of the classes ALU and MACC, and what giving one of their operations to a ready core does.
-/

open Sys2Proof Sys2Proof.Machine

namespace Sys2Proof.Machine

/-- An operation whose only results are early ones, with any stall, is plain under a defined word of a class with slot k. -/
theorem OpEff.plain_early {w : Word} {k : Nat} (hw : undefWord w = false) (hk : nextSlot none (wordClass w) = k)
    (known : k ≠ 6 ∧ k ≠ 1) (l : List Wb) (n : Nat) : ({ OpEff.nil with early := l, stall := n } : OpEff).Plain k w where
  defined := hw
  slot := hk
  known := known
  trap := rfl
  loop := rfl
  refused := rfl
  fence := rfl
  near := by simp [OpEff.nil]
  few := by simp [OpEff.flat, OpEff.nil]

theorem b2n_le_one (b : Bool) : b2n b ≤ 1 := by cases b <;> decide

theorem partCode_lt (p : AccPart) : partCode p < 4 := by cases p <;> decide

/-- E is bit 31 of a word. -/
theorem getLsbD_31_of_toNat {w : Word} {e : Bool} {m : Nat} (h : w.toNat = 2 ^ 31 * b2n e + m) (hm : m < 2 ^ 31) :
    w.getLsbD 31 = e := by
  rw [BitVec.getLsbD, Nat.testBit_eq_decide_div_mod_eq, h]
  cases e <;> simp [b2n] <;> omega

/-! ### Class ALU (Table 6-3) -/

theorem aluWord_toNat (e : Bool) {f : Nat} (hf : f < 2 ^ 11) (rd ra rb : BitVec 5) :
    (aluWord e f rd ra rb).toNat
      = 2 ^ 31 * b2n e + (2 ^ 26 + rd.toNat * 2 ^ 21 + ra.toNat * 2 ^ 16 + rb.toNat * 2 ^ 11 + f) := by
  have he := b2n_le_one e
  simp [aluWord, mkWord, pack, packN]
  omega

theorem wordClass_aluWord (e : Bool) {f : Nat} (hf : f < 2 ^ 11) (rd ra rb : BitVec 5) : wordClass (aluWord e f rd ra rb) = 1 := by
  have he := b2n_le_one e
  simp only [wordClass, fld, bitsOf, aluWord_toNat e hf]
  omega

/-- Only a function above MULHU, and CLS with RB set, are undefined (R126, R131). -/
theorem undefWord_aluWord (e : Bool) {f : Nat} (hf : f ≤ 0x12) (rd ra rb : BitVec 5) (hcls : f = 0x0E → rb = 0) :
    undefWord (aluWord e f rd ra rb) = false := by
  have hf' : f < 2 ^ 11 := by omega
  have hzero : fld (aluWord e f rd ra rb) 10 6 = 0 := by
    simp only [fld, bitsOf, aluWord_toNat e hf']
    omega
  have hfunc : fld (aluWord e f rd ra rb) 5 0 = f := by
    simp only [fld, bitsOf, aluWord_toNat e hf']
    omega
  have hrb : fld (aluWord e f rd ra rb) 15 11 = rb.toNat := by
    simp only [fld, bitsOf, aluWord_toNat e hf']
    omega
  simp only [undefWord, wordClass_aluWord e hf', hzero, hfunc, hrb]
  by_cases h : f = 0x0E
  · simp [h, hcls h]
  · simp [h, hf]

/-- A defined operation of class ALU with early results only takes the A slot of a ready core. -/
theorem State.issue_aluWord {s : State} {c : Nat} (h : s.Ready c) (e : Bool) {f : Nat} (hf : f ≤ 0x12) (rd ra rb : BitVec 5)
    (hcls : f = 0x0E → rb = 0) (l : List Wb) (n : Nat) :
    s.issue c (aluWord e f rd ra rb) { OpEff.nil with early := l, stall := n }
      = s.gave c e 4 (aluWord e f rd ra rb) { OpEff.nil with early := l, stall := n } := by
  have hf' : f < 2 ^ 11 := by omega
  have hslot : nextSlot none (wordClass (aluWord e f rd ra rb)) = 4 := by
    rw [wordClass_aluWord e hf']
    rfl
  have he : (aluWord e f rd ra rb).getLsbD 31 = e := getLsbD_31_of_toNat (aluWord_toNat e hf' rd ra rb) (by omega)
  rw [State.issue_plain h (OpEff.plain_early (undefWord_aluWord e hf rd ra rb hcls) hslot (by decide) l n), he]

/-! ### Class MACC (Table 6-7) -/

/-- Field values that fit the layout of class MACC. -/
structure MaccFits (f d a b g part c sh : Nat) : Prop where
  func : f < 16 := by omega
  dst : d < 8 := by omega
  srcA : a < 8 := by omega
  srcB : b < 8 := by omega
  reg : g < 32 := by omega
  part : part < 4 := by omega
  comp : c < 2 := by omega
  shift : sh < 32 := by omega

section
variable {f d a b g part c sh : Nat}

theorem maccWord_toNat (e : Bool) (h : MaccFits f d a b g part c sh) :
    (maccWord e f d a b g part c sh).toNat
      = 2 ^ 31 * b2n e + (17 * 2 ^ 26 + f * 2 ^ 22 + d * 2 ^ 19 + a * 2 ^ 16 + b * 2 ^ 13 + g * 2 ^ 8 + part * 2 ^ 6 + c * 2 ^ 5 + sh) := by
  obtain ⟨hf, hd, ha, hb, hg, hp, hc, hs⟩ := h
  have he := b2n_le_one e
  simp [maccWord, mkWord, pack, packN]
  omega

theorem wordClass_maccWord (e : Bool) (h : MaccFits f d a b g part c sh) : wordClass (maccWord e f d a b g part c sh) = 0x11 := by
  simp only [wordClass, fld, bitsOf, maccWord_toNat e h]
  obtain ⟨hf, hd, ha, hb, hg, hp, hc, hs⟩ := h
  have he := b2n_le_one e
  omega

/-- The fields that the test for an undefined encoding reads are the values that the word was made of. -/
theorem fld_maccWord (e : Bool) (h : MaccFits f d a b g part c sh) :
    let w := maccWord e f d a b g part c sh
    fld w 25 22 = f ∧ fld w 21 19 = d ∧ fld w 18 16 = a ∧ fld w 15 13 = b ∧ fld w 12 8 = g ∧ fld w 7 6 = part ∧ fld w 5 5 = c
      ∧ fld w 4 0 = sh := by
  simp only [fld, bitsOf, maccWord_toNat e h]
  obtain ⟨hf, hd, ha, hb, hg, hp, hc, hs⟩ := h
  refine ⟨?_, ?_, ?_, ?_, ?_, ?_, ?_, ?_⟩ <;> omega

/-- The fields that each function of class MACC leaves zero (Table 6-7). -/
def maccZero (f d a b g part c sh : Nat) : Prop :=
  match f with
  | 0 => a = 0 ∧ b = 0 ∧ g = 0 ∧ part = 0 ∧ c = 0 ∧ sh = 0
  | 1 | 2 => g = 0 ∧ part = 0 ∧ c = 0 ∧ sh = 0
  | 3 => a = 0 ∧ b = 0 ∧ part = 0 ∧ c = 0 ∧ sh = 0
  | 4 => d = 0 ∧ b = 0 ∧ part = 0
  | 5 => d = 0 ∧ b = 0 ∧ part = 0 ∧ c = 0 ∧ sh = 0
  | 6 => d = 0 ∧ b = 0 ∧ c = 0 ∧ sh = 0
  | 7 => a = 0 ∧ b = 0 ∧ c = 0 ∧ sh = 0
  | _ => False

theorem undefWord_maccWord (e : Bool) (h : MaccFits f d a b g part c sh) (hz : maccZero f d a b g part c sh) :
    undefWord (maccWord e f d a b g part c sh) = false := by
  obtain ⟨hfunc, hd, ha, hb, hg, hpart, hc, hsh⟩ := fld_maccWord e h
  simp only [undefWord, wordClass_maccWord e h, undefMacc, hfunc, hd, ha, hb, hg, hpart, hc, hsh]
  unfold maccZero at hz
  split at hz <;> simp_all

/-- A defined operation of class MACC with early results only takes slot M0 of a ready core. -/
theorem State.issue_maccWord {s : State} {k : Nat} (hr : s.Ready k) (e : Bool) (h : MaccFits f d a b g part c sh)
    (hz : maccZero f d a b g part c sh) (l : List Wb) :
    s.issue k (maccWord e f d a b g part c sh) { OpEff.nil with early := l }
      = s.gave k e 2 (maccWord e f d a b g part c sh) { OpEff.nil with early := l } := by
  have hslot : nextSlot none (wordClass (maccWord e f d a b g part c sh)) = 2 := by
    rw [wordClass_maccWord e h]
    rfl
  have he : (maccWord e f d a b g part c sh).getLsbD 31 = e := by
    refine getLsbD_31_of_toNat (maccWord_toNat e h) ?_
    obtain ⟨hf, hd, ha, hb, hg, hp, hc, hs⟩ := h
    omega
  have hplain : ({ OpEff.nil with early := l } : OpEff).Plain 2 (maccWord e f d a b g part c sh) :=
    OpEff.plain_early (undefWord_maccWord e h hz) hslot (by decide) l 0
  rw [State.issue_plain hr hplain, he]

end

/-! ### Runs of equal bits, clamps and parts -/

theorem bitOf_toNat {w : Nat} (a : BitVec w) (i : Nat) : bitOf a.toNat i = a.getLsbD i := by
  rw [BitVec.getLsbD, Nat.testBit_eq_decide_div_mod_eq]
  simp [bitOf, beq_eq_decide]

theorem signRun_le (n x : Nat) : signRun n x ≤ n + 1 := by
  induction n with
  | zero =>
    unfold signRun
    split <;> omega
  | succ n ih =>
    unfold signRun
    split <;> omega

/-- Every bit of the run equals the bit above position n. -/
theorem bitOf_of_signRun (x : Nat) : ∀ n i : Nat, n + 1 - signRun n x ≤ i → i ≤ n → bitOf x i = bitOf x (n + 1) := by
  intro n
  induction n with
  | zero =>
    intro i hlo hhi
    obtain rfl : i = 0 := by omega
    by_cases h : bitOf x 0 = bitOf x 1
    · exact h
    · simp [signRun, h] at hlo
  | succ n ih =>
    intro i hlo hhi
    by_cases h : bitOf x (n + 1) = bitOf x (n + 2)
    · rcases Nat.lt_or_ge n i with hi | hi
      · obtain rfl : i = n + 1 := by omega
        exact h
      · simp only [signRun, h, beq_self_eq_true, if_true] at hlo
        exact (ih i (by omega) hi).trans h
    · simp [signRun, h] at hlo
      omega

/-- The bit below the run, where one is left, differs. -/
theorem bitOf_ne_of_signRun (x : Nat) : ∀ n : Nat, signRun n x ≤ n → bitOf x (n - signRun n x) ≠ bitOf x (n + 1) := by
  intro n
  induction n with
  | zero =>
    intro hrun
    by_cases h : bitOf x 0 = bitOf x 1
    · simp [signRun, h] at hrun
    · simp [signRun, h]
  | succ n ih =>
    intro hrun
    by_cases h : bitOf x (n + 1) = bitOf x (n + 2)
    · simp only [signRun, h, beq_self_eq_true, if_true] at hrun ⊢
      rw [← h, show n + 1 - (1 + signRun n x) = n - signRun n x by omega]
      exact ih (by omega)
    · simp [signRun, h]

/-- The clamp to a signed 32-bit value (R87, R131). -/
theorem satS_32 (z : Int) : satS 32 z = max (-(2 ^ 31)) (min (2 ^ 31 - 1) z) := rfl

theorem reduce40_eq (sat : Bool) (z : Int) :
    reduce40 sat z = BitVec.ofInt 40 (if sat then max (-(2 ^ 39)) (min (2 ^ 39 - 1) z) else z) := rfl

/-- A 40-bit component with its low word replaced (Table 4-4). -/
theorem replaceLow_eq_append (z : BitVec 40) (v : Word) :
    (z >>> 32 <<< 32) ||| v.setWidth 40 = (z >>> 32).setWidth 8 ++ v := by
  refine BitVec.eq_of_getLsbD_eq fun i hi => ?_
  rw [BitVec.getLsbD_append]
  by_cases h : i < 32
  · simp [h, hi]
  · have hv : v.getLsbD i = false := BitVec.getLsbD_of_ge v i (by omega)
    have h8 : i - 32 < 8 := by omega
    simp [h, hi, hv, h8]

/-- A 40-bit component with its guard byte replaced (Table 4-4). -/
theorem replaceHigh_eq_append (z : BitVec 40) (v : Word) :
    (z &&& 0xFFFFFFFF#40) ||| (v.setWidth 40 <<< 32) = v.setWidth 8 ++ z.setWidth 32 := by
  have hmask : ∀ (i : Nat) (hi : i < 40), (0xFFFFFFFF#40)[i] = decide (i < 32) := fun i _ => Nat.testBit_two_pow_sub_one 32 i
  refine BitVec.eq_of_getLsbD_eq fun i hi => ?_
  rw [BitVec.getLsbD_append]
  by_cases h : i < 32
  · simp [h, hi, hmask]
  · have h8 : i - 32 < 8 := by omega
    simp [h, hi, h8, hmask]

end Sys2Proof.Machine

/-- Settles O2: each operation takes the A slot of the ready core, and its value is the model's clamped sum, difference or
quotient, or the run of bits below bit 31. -/
theorem saturatingAndDividing : Obligations.SaturatingAndDividing := by
  intro s c e rd ra rb h a b clamp out
  have issue : ∀ (f : Nat) (v : Word) (n : Nat), f ≤ 0x12 → f ≠ 0x0E →
      Host.Outcome.next (s.issue c (aluWord e f rd ra rb) { OpEff.nil with early := [.g rd.toNat ⟨v, a.p || b.p⟩], stall := n })
        = out f v n := fun f v n hf hcls =>
    congrArg Host.Outcome.next (State.issue_aluWord h e hf rd ra rb (fun hf => absurd hf hcls) _ n)
  refine ⟨?adds, ?subs, ?divsZero, ?divs, signRun 30 a.v.toNat, ?_⟩
  case adds => exact issue 0x0C (adds32 a.v b.v) 0 (by decide) (by decide)
  case subs => exact issue 0x0D (subs32 a.v b.v) 0 (by decide) (by decide)
  case divsZero =>
    intro hb
    have hdiv : divs32 a.v b.v = if a.v.toInt < 0 then 0x80000000 else 0x7FFFFFFF := if_pos hb
    exact hdiv ▸ issue 0x0F (divs32 a.v b.v) 15 (by decide) (by decide)
  case divs =>
    intro hb
    have hdiv : divs32 a.v b.v = clamp (a.v.toInt.tdiv b.v.toInt) := if_neg hb
    exact hdiv ▸ issue 0x0F (divs32 a.v b.v) 15 (by decide) (by decide)
  refine ⟨signRun_le 30 _, ?run, ?stop, ?cls⟩
  case run =>
    intro i hlo hhi
    simpa only [bitOf_toNat] using bitOf_of_signRun a.v.toNat 30 i hlo hhi
  case stop =>
    intro hrun
    simpa only [bitOf_toNat] using bitOf_ne_of_signRun a.v.toNat 30 (by omega)
  case cls =>
    exact congrArg Host.Outcome.next (State.issue_aluWord h e (by decide) rd ra 0 (fun _ => rfl) [.g rd.toNat ⟨cls32 a.v, a.p⟩] 0)

/-- Settles O9: each operation takes slot M0 of the ready core; MTA's masks and shifts join the part written to the part kept. -/
theorem accumulatorOperations : Obligations.AccumulatorOperations := by
  intro s c e im d k b gd gs sh h x z y g fit n shift out v mfa mta
  have hpart := partCode_lt
  have him : b2n im < 2 := Nat.lt_succ_of_le (b2n_le_one im)
  have issue : ∀ {f d a b g part c' sh : Nat} (l : List Wb), MaccFits f d a b g part c' sh → maccZero f d a b g part c' sh →
      Host.Outcome.next (s.issue c (maccWord e f d a b g part c' sh) { OpEff.nil with early := l })
        = out (maccWord e f d a b g part c' sh) l :=
    fun l hfit hz => congrArg Host.Outcome.next (State.issue_maccWord h e hfit hz l)
  have hmfa : ∀ part, mfa part (accPart z part) := fun part =>
    issue [.g gd.toNat ⟨accPart z part, z.p⟩] { part := hpart part } ⟨rfl, rfl, rfl, rfl⟩
  have hmta : ∀ part r, accWithPart z part g = r → mta part r := fun part r hr =>
    hr ▸ issue [.acc k.toNat (accWithPart z part g)] { part := hpart part } ⟨rfl, rfl, rfl, rfl⟩
  refine ⟨?aclr, ?cspla, ?csplb, ?norm, ?ext, ?exp, hmfa .rl, hmfa .rh, hmfa .il, hmfa .ih,
    hmta .rl _ ?rl, hmta .rh _ ?rh, hmta .il _ ?il, hmta .ih _ ?ih⟩
  case aclr => exact issue _ {} ⟨rfl, rfl, rfl, rfl, rfl, rfl⟩
  case cspla => exact issue _ {} ⟨rfl, rfl, rfl, rfl⟩
  case csplb => exact issue _ {} ⟨rfl, rfl, rfl, rfl⟩
  case norm => exact issue _ {} ⟨rfl, rfl, rfl, rfl, rfl⟩
  case ext => exact issue _ { comp := him } ⟨rfl, rfl, rfl⟩
  case exp => exact issue _ {} ⟨rfl, rfl, rfl, rfl, rfl⟩
  case rl => simp only [accWithPart, replaceLow_eq_append]
  case rh => simp only [accWithPart, replaceHigh_eq_append]
  case il => simp only [accWithPart, replaceLow_eq_append]
  case ih => simp only [accWithPart, replaceHigh_eq_append]
end

section
/-!
PROOFS. The words of the classes ALUI and MOVI, what giving one of their operations to a ready core does, and the values of
the integer operations that the model computes by bits, as signed numbers.
-/

open Sys2Proof Sys2Proof.Machine

namespace Sys2Proof.Machine

/-- A defined operation of a class of the A slot with early results only takes that slot of a ready core (Table 6-1). -/
theorem State.issue_aSlot {s : State} {c : Nat} (h : s.Ready c) {e : Bool} {w : Word} (hdef : undefWord w = false)
    (hslot : nextSlot none (wordClass w) = 4) (he : w.getLsbD 31 = e) (l : List Wb) :
    s.issue c w { OpEff.nil with early := l } = s.gave c e 4 w { OpEff.nil with early := l } := by
  have hplain : ({ OpEff.nil with early := l } : OpEff).Plain 4 w := OpEff.plain_early hdef hslot (by decide) l 0
  rw [State.issue_plain h hplain, he]

/-! ### Class ALUI (Table 6-3) -/

theorem aluiWord_toNat (e : Bool) {f : Nat} (hf : f < 2 ^ 4) (rd ra : BitVec 5) (imm : BitVec 12) :
    (aluiWord e f rd ra imm).toNat
      = 2 ^ 31 * b2n e + (2 * 2 ^ 26 + rd.toNat * 2 ^ 21 + ra.toNat * 2 ^ 16 + f * 2 ^ 12 + imm.toNat) := by
  have he := b2n_le_one e
  simp [aluiWord, mkWord, pack, packN]
  omega

theorem wordClass_aluiWord (e : Bool) {f : Nat} (hf : f < 2 ^ 4) (rd ra : BitVec 5) (imm : BitVec 12) :
    wordClass (aluiWord e f rd ra imm) = 2 := by
  have he := b2n_le_one e
  simp only [wordClass, fld, bitsOf, aluiWord_toNat e hf]
  omega

/-- Only a function above MAXI, and a shift by 32 or more, are undefined (R126, R131). -/
theorem undefWord_aluiWord (e : Bool) {f : Nat} (hf : f ≤ 0xA) (rd ra : BitVec 5) {imm : BitVec 12}
    (hsh : 4 ≤ f ∧ f ≤ 6 → imm.toNat < 32) : undefWord (aluiWord e f rd ra imm) = false := by
  have hf' : f < 2 ^ 4 := by omega
  have hfunc : fld (aluiWord e f rd ra imm) 15 12 = f := by
    simp only [fld, bitsOf, aluiWord_toNat e hf']
    omega
  have hhigh : fld (aluiWord e f rd ra imm) 11 5 = imm.toNat / 32 := by
    simp only [fld, bitsOf, aluiWord_toNat e hf']
    omega
  simp only [undefWord, wordClass_aluiWord e hf', hfunc, hhigh]
  simp
  omega

/-- An immediate form with a defined word takes the A slot of a ready core. -/
theorem State.issue_aluiWord {s : State} {c : Nat} (h : s.Ready c) (e : Bool) {f : Nat} (hf : f ≤ 0xA) (rd ra : BitVec 5)
    {imm : BitVec 12} (hsh : 4 ≤ f ∧ f ≤ 6 → imm.toNat < 32) (l : List Wb) :
    s.issue c (aluiWord e f rd ra imm) { OpEff.nil with early := l }
      = s.gave c e 4 (aluiWord e f rd ra imm) { OpEff.nil with early := l } := by
  have hf' : f < 2 ^ 4 := by omega
  have hslot : nextSlot none (wordClass (aluiWord e f rd ra imm)) = 4 := by
    rw [wordClass_aluiWord e hf']
    rfl
  exact State.issue_aSlot h (undefWord_aluiWord e hf rd ra hsh) hslot
    (getLsbD_31_of_toNat (aluiWord_toNat e hf' rd ra imm) (by omega)) l

/-! ### Class MOVI (R132) -/

theorem moviWord_toNat (e : Bool) {f : Nat} (hf : f < 2 ^ 3) (rd : BitVec 5) (imm : BitVec 16) :
    (moviWord e f rd imm).toNat = 2 ^ 31 * b2n e + (3 * 2 ^ 26 + rd.toNat * 2 ^ 21 + f * 2 ^ 18 + imm.toNat) := by
  have he := b2n_le_one e
  simp [moviWord, mkWord, pack, packN]
  omega

theorem wordClass_moviWord (e : Bool) {f : Nat} (hf : f < 2 ^ 3) (rd : BitVec 5) (imm : BitVec 16) :
    wordClass (moviWord e f rd imm) = 3 := by
  have he := b2n_le_one e
  simp only [wordClass, fld, bitsOf, moviWord_toNat e hf]
  omega

/-- MOVI, MOVUI and MOVHI are the defined functions of the class (R126, R132). -/
theorem undefWord_moviWord (e : Bool) {f : Nat} (hf : f ≤ 2) (rd : BitVec 5) (imm : BitVec 16) :
    undefWord (moviWord e f rd imm) = false := by
  have hf' : f < 2 ^ 3 := by omega
  have hfunc : fld (moviWord e f rd imm) 20 18 = f := by
    simp only [fld, bitsOf, moviWord_toNat e hf']
    omega
  have hzero : fld (moviWord e f rd imm) 17 16 = 0 := by
    simp only [fld, bitsOf, moviWord_toNat e hf']
    omega
  simp [undefWord, wordClass_moviWord e hf', hfunc, hzero, hf]

/-- A function of class MOVI takes the A slot of a ready core. -/
theorem State.issue_moviWord {s : State} {c : Nat} (h : s.Ready c) (e : Bool) {f : Nat} (hf : f ≤ 2) (rd : BitVec 5)
    (imm : BitVec 16) (l : List Wb) :
    s.issue c (moviWord e f rd imm) { OpEff.nil with early := l }
      = s.gave c e 4 (moviWord e f rd imm) { OpEff.nil with early := l } := by
  have hf' : f < 2 ^ 3 := by omega
  have hslot : nextSlot none (wordClass (moviWord e f rd imm)) = 4 := by
    rw [wordClass_moviWord e hf']
    rfl
  exact State.issue_aSlot h (undefWord_moviWord e hf rd imm) hslot
    (getLsbD_31_of_toNat (moviWord_toNat e hf' rd imm) (by omega)) l

/-! ### Values of the integer operations (R131, R132) -/

/-- An arithmetic shift is the floor of the quotient by a power of two. -/
theorem sshiftRight_eq_ofInt (a : Word) (n : Nat) : a.sshiftRight n = BitVec.ofInt 32 (a.toInt / 2 ^ n) := by
  have hdiv : (a.sshiftRight n).toInt = a.toInt / 2 ^ n := by
    rw [BitVec.toInt_sshiftRight, Int.shiftRight_eq_div_pow, Nat.cast_pow, Nat.cast_ofNat]
  rw [← hdiv, BitVec.ofInt_toInt]

theorem smin32_eq_ofInt (a b : Word) : smin32 a b = BitVec.ofInt 32 (min a.toInt b.toInt) := by
  unfold smin32
  split
  case isTrue h => rw [min_eq_right (BitVec.slt_iff_toInt_lt.mp h).le, BitVec.ofInt_toInt]
  case isFalse h => rw [min_eq_left (not_lt.mp (mt BitVec.slt_iff_toInt_lt.mpr h)), BitVec.ofInt_toInt]

theorem smax32_eq_ofInt (a b : Word) : smax32 a b = BitVec.ofInt 32 (max a.toInt b.toInt) := by
  unfold smax32
  split
  case isTrue h => rw [max_eq_right (BitVec.slt_iff_toInt_lt.mp h).le, BitVec.ofInt_toInt]
  case isFalse h => rw [max_eq_left (not_lt.mp (mt BitVec.slt_iff_toInt_lt.mpr h)), BitVec.ofInt_toInt]

theorem flagWord_slt (a b : Word) : flagWord (a.slt b) = if a.toInt < b.toInt then 1 else 0 := by
  simp only [flagWord, BitVec.slt_iff_toInt_lt]

theorem flagWord_ult (a b : Word) : flagWord (a.ult b) = if a.toNat < b.toNat then 1 else 0 := by
  simp only [flagWord, BitVec.ult_iff_lt, BitVec.lt_def]

/-- MOVHI's union of the shifted immediate and the old lower half is the two halves side by side (R132). -/
theorem movhi_eq_append (k : BitVec 16) (a : Word) :
    (k.setWidth 32 <<< 16) ||| (a &&& 0xFFFF#32) = k ++ a.setWidth 16 := by
  have hmask : ∀ (i : Nat) (hi : i < 32), (0xFFFF#32)[i] = decide (i < 16) := fun i _ => Nat.testBit_two_pow_sub_one 16 i
  refine BitVec.eq_of_getLsbD_eq fun i hi => ?_
  rw [BitVec.getLsbD_append]
  by_cases h : i < 16
  · simp [h, hi, hmask]
  · simp [h, hi, hmask]

end Sys2Proof.Machine

/-- Settles O3: each word is defined, so the operation takes the A slot of the ready core; its value is the model's, written
over the signed or unsigned numbers, with a shift amount below 32 kept whole. -/
theorem aluImmediateOperations : Obligations.AluImmediateOperations := by
  intro s c e rd ra imm k h a p x z out outK
  have issue : ∀ (f : Nat) {v v' : Word}, f ≤ 0xA → (4 ≤ f ∧ f ≤ 6 → imm.toNat < 32) → v = v' →
      Host.Outcome.next (s.issue c (aluiWord e f rd ra imm) { OpEff.nil with early := [.g rd.toNat ⟨v, p⟩] }) = out f v' :=
    fun f v v' hf hsh hv => hv ▸ congrArg Host.Outcome.next (State.issue_aluiWord h e hf rd ra hsh _)
  have issueK : ∀ (f : Nat) {v v' : Word} (q : Bool), f ≤ 2 → v = v' →
      Host.Outcome.next (s.issue c (moviWord e f rd k) { OpEff.nil with early := [.g rd.toNat ⟨v, q⟩] }) = outK f v' q :=
    fun f v v' q hf hv => hv ▸ congrArg Host.Outcome.next (State.issue_moviWord h e hf rd k _)
  have amount (hsh : imm.toNat < 32) : z.toNat % 32 = imm.toNat := by
    have hz : z.toNat = imm.toNat := BitVec.toNat_setWidth_of_le (by decide)
    rw [hz, Nat.mod_eq_of_lt hsh]
  refine ⟨?addi, ?andi, ?ori, ?xori, ?slli, ?srli, ?srai, ?slti, ?sltui, ?mini, ?maxi, ?movi, ?movui, ?movhi⟩
  case addi => exact issue 0x0 (by decide) (by omega) rfl
  case andi => exact issue 0x1 (by decide) (by omega) rfl
  case ori => exact issue 0x2 (by decide) (by omega) rfl
  case xori => exact issue 0x3 (by decide) (by omega) rfl
  case slli => exact fun hsh => issue 0x4 (by decide) (fun _ => hsh) (congrArg (a <<< ·) (amount hsh))
  case srli => exact fun hsh => issue 0x5 (by decide) (fun _ => hsh) (congrArg (a >>> ·) (amount hsh))
  case srai =>
    intro hsh
    have hval : sra32 a z = BitVec.ofInt 32 (a.toInt / 2 ^ imm.toNat) := by
      rw [sra32, amount hsh, sshiftRight_eq_ofInt]
    exact issue 0x6 (by decide) (fun _ => hsh) hval
  case slti => exact issue 0x7 (by decide) (by omega) (flagWord_slt a x)
  case sltui => exact issue 0x8 (by decide) (by omega) (flagWord_ult a z)
  case mini => exact issue 0x9 (by decide) (by omega) (smin32_eq_ofInt a x)
  case maxi => exact issue 0xA (by decide) (by omega) (smax32_eq_ofInt a x)
  case movi => exact issueK 0 false (by decide) rfl
  case movui => exact issueK 1 false (by decide) rfl
  case movhi => exact issueK 2 ((s.core c).g rd).p (by decide) (movhi_eq_append k _)
end
